-- ==== Sys2Proof/Word.lean ====
section
/-!
DEFINITION. The word types of the Omlar package: register contents, register numbers and field widths (R3, R67, R306).
-/
namespace Sys2Proof

/-- A byte of memory (R3). -/
abbrev Byte := BitVec 8
/-- A 64-bit word: a scalar or system register (R67, R79). -/
abbrev Word := BitVec 64
/-- The 56 bits of one slot (R51). -/
abbrev SlotWord := BitVec 56
/-- The 1,024 bits of a vector register or a spool element, byte 0 lowest (R3, R67). -/
abbrev Vec := BitVec 1024
/-- A branch-target register or program counter: a 57-bit header address (R67). -/
abbrev CodeAddr := BitVec 57

/-- Scalar operand number: x0-x55, then q0-q7 (R67). -/
abbrev XReg := BitVec 6
/-- Predicate operand number, p0-p95 (R67). -/
abbrev PReg := BitVec 7
/-- Branch-target operand number, b0-b7 (R67). -/
abbrev BReg := BitVec 3
/-- Vector operand number: v0-v495, then s0-s15 (R67). -/
abbrev VReg := BitVec 9
/-- Short vector destination, v0-v255 (R306). -/
abbrev VShort := BitVec 8
/-- Read port 0-3 (R71). -/
abbrev Port := BitVec 2
/-- Spool number s0-s15 (R306). -/
abbrev SpoolNo := BitVec 4
/-- Tile-view number t0-t15 (R306). -/
abbrev TileNo := BitVec 4
/-- Accumulator-view number a0-a7 (R306). -/
abbrev AccNo := BitVec 3
/-- Format code (R76). -/
abbrev Fmt := BitVec 4
/-- Element type of a vector instruction: class and rounding or format (R313). -/
abbrev ElemType := BitVec 5

end Sys2Proof
end

