-- ==== Sys2Proof/Machine/Bits.lean ====
section
/-!
DEFINITION. Bit fields, sign extension and byte order (R3, R7): the helpers that decoding and every meaning share.
-/
namespace Sys2Proof

/-- x[hi:lo] as an unsigned value (R7). -/
def bits (x hi lo : Nat) : Nat := x / 2 ^ lo % 2 ^ (hi + 1 - lo)

/-- One bit of a number. -/
def bit (x i : Nat) : Bool := x.testBit i

/-- The signed value of the low `n` bits of `x` (SEXT of R7, as an exact integer). -/
def signedOf (n x : Nat) : Int :=
  let v := x % 2 ^ n
  if 2 * v < 2 ^ n then (v : Int) else (v : Int) - 2 ^ n

/-- The low `n` bits of an exact integer: wrapping modulo 2^n (R7, R95). -/
def wrap (n : Nat) (x : Int) : Nat := (x % 2 ^ n).toNat

/-- A condition as a bit. -/
def bit01 (b : Bool) : Nat := if b then 1 else 0

/-- The `n` little-endian bytes of a number (R3). -/
def leBytes : Nat → Nat → List Byte
  | 0, _ => []
  | n + 1, v => BitVec.ofNat 8 v :: leBytes n (v / 256)

/-- The number whose little-endian bytes these are (R3). -/
def leNat : List Byte → Nat
  | [] => 0
  | b :: bs => b.toNat + 256 * leNat bs

/-- Joins fields, each a width and a value, with the most significant first: the drawing order of the manual. -/
def packFields : List (Nat × Nat) → Nat
  | [] => 0
  | (_, v) :: fs => v * 2 ^ (fs.map Prod.fst).sum + packFields fs

/-- Splits a number into fields of these widths, the most significant first. -/
def splitFields : List Nat → Nat → List Nat
  | [], _ => []
  | k :: ks, w => w / 2 ^ ks.sum % 2 ^ k :: splitFields ks w

/-- Element `i` of a vector of elements `w` bytes wide (R3). -/
def elemOf (w i : Nat) (v : Nat) : Nat := v / 2 ^ (8 * w * i) % 2 ^ (8 * w)

/-- The vector whose elements of `w` bytes are these, element 0 lowest (R3). -/
def ofElems (w : Nat) : List Nat → Nat
  | [] => 0
  | e :: es => e % 2 ^ (8 * w) + 2 ^ (8 * w) * ofElems w es

/-- `a` rounded up to a multiple of `m`. -/
def roundUp (a m : Nat) : Nat := (a + m - 1) / m * m

/-- The bytes of a number as a set of bit positions below `n`. -/
def bitSet (n x : Nat) : List Nat := (List.range n).filter fun i => x.testBit i

end Sys2Proof
end

