-- ==== Sys2Proof/Syntax.lean ====
section
/-!
DEFINITION. The instructions of the Omlar: one constructor per row of spec/opcode_table.json. The slot instructions
(rows 0-149) carry their operand fields as R305-R320 encode them; the events of the device (rows 150-225) carry the
agents and data that the event is about.
-/
namespace Sys2Proof

/-- The fields that every slot but C holds beside its operands (R53), and which slot of the pair A/B or V/W it is. -/
structure Tag where
  /-- `true` in the B or W slot; `false` in A, V, M, X and T. -/
  second : Bool
  /-- PATH: 0 always, 1-5 one BTREE leaf. -/
  path : BitVec 3
  /-- GP, the guard predicate. -/
  gp : PReg
  /-- GN, the guard polarity. -/
  gn : BitVec 1
deriving DecidableEq, Repr

/-- One test of a BTREE (R84, format CT of R308). -/
structure LeafTest where
  pred : PReg
  polarity : BitVec 1
  target : BReg
deriving DecidableEq, Repr

/-- The slots of a bundle, in mask-bit order (R51). -/
inductive SlotKind where
  | c | a | b | v | w | m | x | t
deriving DecidableEq, Repr

/-- One access arriving from outside, at an address: at a fabric station or the host port a read of so many bytes, a write of these, or a
write of so many bytes that carries poison (R282); at a fabric station an AMO of so many bytes or an ACAS (R218, R287); at the host port
a read of the register block, of a tail in the doorbell page, or of the configuration header (R282, R283, R237); on the management bus a
read of the boot's failure code (R296). -/
inductive OuterAccess where
  | read (bytes : Nat)
  | write (data : List Byte)
  | poison (bytes : Nat)
  | amo (op bytes operand : Nat)
  | acas (expected new : Nat)
  | register
  | tail
  | config
  | failureCode
deriving DecidableEq, Repr

/-- The instruction set: every row of spec/opcode_table.json, in its order. -/
inductive Instr where
  -- C slot (R308, R309)
  | brLabel (off : BitVec 32)
  | brReg (b : BReg)
  | btree (t0 t1 t2 t3 : LeafTest)
  | callLabel (off : BitVec 32)
  | callReg (b : BReg)
  | ret
  | movb (xf : BitVec 1) (bd : BReg) (xa : XReg) (off : BitVec 32)
  | loopImm (endOff : BitVec 20) (count : BitVec 28)
  | loopX (endOff : BitVec 20) (xa : XReg)
  | loopSpool (endOff : BitVec 20) (s : SpoolNo)
  | loops (endOff : BitVec 20) (sm1 : BitVec 3) (pk : PReg) (xf : BitVec 1) (count : BitVec 17)
  | leave (n : BitVec 3)
  | pand (na nb : BitVec 1) (pd pa pb : PReg)
  | por (na nb : BitVec 1) (pd pa pb : PReg)
  | pxor (na nb : BitVec 1) (pd pa pb : PReg)
  | pnot (pd pa : PReg)
  | pmov (na : BitVec 1) (pd pa : PReg)
  | done
  | yield
  | waitt (xa : XReg)
  | bar (o : BitVec 1) (paths : BitVec 7)
  | trig
  | sysc (code : BitVec 16)
  | brk (code : BitVec 16)
  | rft
  | uret
  | mfs (xd : XReg) (srn : BitVec 12)
  | mts (xa : XReg) (srn : BitVec 12)
  -- A and B slots (R310-R312)
  | add (t : Tag) (xd xa xb : XReg) (mode : BitVec 2)
  | addi (t : Tag) (xd xa : XReg) (imm : BitVec 25)
  | sub (t : Tag) (xd xa xb : XReg) (mode : BitVec 2)
  | mul (t : Tag) (xd xa xb : XReg)
  | mulh (t : Tag) (xd xa xb : XReg)
  | mulhn (t : Tag) (xd xa xb : XReg)
  | div (t : Tag) (xd xa xb : XReg)
  | divn (t : Tag) (xd xa xb : XReg)
  | rem (t : Tag) (xd xa xb : XReg)
  | remn (t : Tag) (xd xa xb : XReg)
  | and (t : Tag) (xd xa xb : XReg)
  | andi (t : Tag) (xd xa : XReg) (imm : BitVec 25)
  | or (t : Tag) (xd xa xb : XReg)
  | ori (t : Tag) (xd xa : XReg) (imm : BitVec 25)
  | xor (t : Tag) (xd xa xb : XReg)
  | xori (t : Tag) (xd xa : XReg) (imm : BitVec 25)
  | shl (t : Tag) (xd xa xb : XReg)
  | shli (t : Tag) (xd xa : XReg) (amount : BitVec 6)
  | shr (t : Tag) (xd xa xb : XReg)
  | shri (t : Tag) (xd xa : XReg) (amount : BitVec 6)
  | sar (t : Tag) (xd xa xb : XReg)
  | sari (t : Tag) (xd xa : XReg) (amount : BitVec 6)
  | min (t : Tag) (xd xa xb : XReg)
  | max (t : Tag) (xd xa xb : XReg)
  | minn (t : Tag) (xd xa xb : XReg)
  | maxn (t : Tag) (xd xa xb : XReg)
  | cmp (t : Tag) (pd : PReg) (xa xb : XReg) (cc fmt : BitVec 4)
  | cmpi (t : Tag) (pd : PReg) (xa : XReg) (cc : BitVec 4) (imm : BitVec 20)
  | sel (t : Tag) (xd xa xb : XReg) (ps : PReg)
  | lea (t : Tag) (xd xa xb : XReg) (sh : BitVec 2) (imm : BitVec 17)
  | li (t : Tag) (xd : XReg) (imm : BitVec 31)
  | lih (t : Tag) (xd : XReg) (imm : BitVec 31)
  | clz (t : Tag) (xd xa : XReg)
  | ctz (t : Tag) (xd xa : XReg)
  | popc (t : Tag) (xd xa : XReg)
  | bfx (t : Tag) (xd xa : XReg) (pos lm1 : BitVec 6) (sx : BitVec 1)
  | bfi (t : Tag) (xd xa : XReg) (pos lm1 : BitVec 6)
  | fadd (t : Tag) (xd xa xb : XReg) (fmt : Fmt) (rm : BitVec 3)
  | fsub (t : Tag) (xd xa xb : XReg) (fmt : Fmt) (rm : BitVec 3)
  | fmul (t : Tag) (xd xa xb : XReg) (fmt : Fmt) (rm : BitVec 3)
  | ffma (t : Tag) (xd xa xb xc : XReg) (fmt : Fmt) (rm : BitVec 3)
  | fmin (t : Tag) (xd xa xb : XReg) (fmt : Fmt)
  | fmax (t : Tag) (xd xa xb : XReg) (fmt : Fmt)
  | fcmp (t : Tag) (pd : PReg) (xa xb : XReg) (cc fmt : BitVec 4)
  | fcvt (t : Tag) (xd xa : XReg) (fd fs : Fmt) (rm : BitVec 3) (sat : BitVec 1)
  -- V and W slots (R313-R315)
  | vadd (t : Tag) (vd va : VReg) (pa : Port) (vb : VReg) (pb : Port) (et : ElemType) (sx : BitVec 1)
  | vsub (t : Tag) (vd va : VReg) (pa : Port) (vb : VReg) (pb : Port) (et : ElemType) (sx : BitVec 1)
  | vmul (t : Tag) (vd va : VReg) (pa : Port) (vb : VReg) (pb : Port) (et : ElemType)
  | vfma (t : Tag) (vd : VShort) (pd : Port) (va : VReg) (pa : Port) (vb : VReg) (pb : Port) (et : ElemType)
  | vmin (t : Tag) (vd va : VReg) (pa : Port) (vb : VReg) (pb : Port) (et : ElemType)
  | vmax (t : Tag) (vd va : VReg) (pa : Port) (vb : VReg) (pb : Port) (et : ElemType)
  | vabs (t : Tag) (vd va : VReg) (pa : Port) (et : ElemType)
  | vneg (t : Tag) (vd va : VReg) (pa : Port) (et : ElemType)
  | vand (t : Tag) (vd va : VReg) (pa : Port) (vb : VReg) (pb : Port) (et : ElemType)
  | vor (t : Tag) (vd va : VReg) (pa : Port) (vb : VReg) (pb : Port) (et : ElemType)
  | vxor (t : Tag) (vd va : VReg) (pa : Port) (vb : VReg) (pb : Port) (et : ElemType)
  | vnot (t : Tag) (vd va : VReg) (pa : Port) (et : ElemType)
  | vshl (t : Tag) (vd va : VReg) (pa : Port) (vb : VReg) (pb : Port) (et : ElemType)
  | vshr (t : Tag) (vd va : VReg) (pa : Port) (vb : VReg) (pb : Port) (et : ElemType)
  | vsar (t : Tag) (vd va : VReg) (pa : Port) (vb : VReg) (pb : Port) (et : ElemType)
  | vcmp (t : Tag) (vd : VShort) (va : VReg) (pa : Port) (vb : VReg) (pb : Port) (fmt : Fmt) (cc : BitVec 3)
  | vsel (t : Tag) (vd : VShort) (pd : Port) (va : VReg) (pa : Port) (vb : VReg) (pb : Port) (et : ElemType)
  | vcvt (t : Tag) (vd va : VReg) (pa : Port) (fd fs : Fmt) (rm : BitVec 3) (sat : BitVec 1) (part : BitVec 2)
  | vbcst (t : Tag) (vd : VReg) (xa : XReg) (et : ElemType)
  | vperm (t : Tag) (vd va : VReg) (pa : Port) (vb : VReg) (pb : Port) (et : ElemType)
  | vins (t : Tag) (vd : VReg) (pd : Port) (xa : XReg) (ew : BitVec 2) (idx : BitVec 7)
  | vext (t : Tag) (xd : XReg) (va : VReg) (pa : Port) (et : ElemType) (idx : BitVec 7)
  | vred (t : Tag) (xd : XReg) (va : VReg) (pa : Port) (et : ElemType) (op : BitVec 3)
  | vamax (t : Tag) (xd : XReg) (va : VReg) (pa : Port) (et : ElemType)
  | vargmx (t : Tag) (xd : XReg) (va : VReg) (pa : Port) (et : ElemType)
  | vexp2 (t : Tag) (vd va : VReg) (pa : Port) (et : ElemType)
  | vlog2 (t : Tag) (vd va : VReg) (pa : Port) (et : ElemType)
  | vrcp (t : Tag) (vd va : VReg) (pa : Port) (et : ElemType)
  | vrsq (t : Tag) (vd va : VReg) (pa : Port) (et : ElemType)
  | vmask (t : Tag) (vd va : VReg) (pa : Port) (vb : VReg) (pb : Port) (et : ElemType)
  | vsprs (t : Tag) (vd va : VReg) (pa : Port) (fmt : Fmt)
  -- M slot (R316-R318)
  | ld (t : Tag) (xv xa : XReg) (sz : BitVec 3) (imm : BitVec 22)
  | st (t : Tag) (xv xa : XReg) (sz : BitVec 3) (imm : BitVec 22)
  | lda (t : Tag) (xv xa : XReg) (sz : BitVec 3) (scope : BitVec 4) (imm : BitVec 18)
  | stl (t : Tag) (xv xa : XReg) (sz : BitVec 3) (scope : BitVec 4) (imm : BitVec 18)
  | vld (t : Tag) (vv : VReg) (xa : XReg) (imm : BitVec 20)
  | vst (t : Tag) (vv : VReg) (pv : Port) (xa : XReg) (imm : BitVec 20)
  | amo (t : Tag) (xd xa xb : XReg) (op : BitVec 4) (w : BitVec 1) (ord : BitVec 2) (scope : BitVec 4)
  | acas (t : Tag) (xd xa xb xc : XReg) (ord : BitVec 2) (scope : BitVec 4)
  | fence (t : Tag) (scope : BitVec 4) (src dst : BitVec 7)
  | drain (t : Tag) (paths : BitVec 7)
  | scfg (t : Tag) (va : VReg) (pa : Port) (sd : SpoolNo)
  | srel (t : Tag) (sd : SpoolNo)
  | dcp (t : Tag) (tag : BitVec 4) (vs : VReg) (ps : Port) (vd : VReg) (pd : Port)
  | dstat (t : Tag) (xd : XReg) (tag : BitVec 4)
  | frd (t : Tag) (xd xa : XReg)
  | fwr (t : Tag) (xa xb : XReg)
  | fclr (t : Tag) (xa : XReg)
  | spawn (t : Tag) (xe xa xb xc : XReg)
  | lnch (t : Tag) (xa : XReg) (va : VReg) (pa : Port)
  | hfam (t : Tag) (va : VReg) (pa : Port) (f : BitVec 4)
  | hprb (t : Tag) (sd : SpoolNo) (xt xo xc : XReg) (qs : BitVec 1) (qn : TileNo) (pq : Port)
  | hins (t : Tag) (xt xi : XReg)
  | hdel (t : Tag) (xt xi : XReg)
  | hreh (t : Tag) (xt xn : XReg)
  | hacc (t : Tag) (xa : XReg) (va : VReg) (pa : Port)
  | merge (t : Tag) (xa : XReg) (sd : SpoolNo)
  | cred (t : Tag) (xa : XReg)
  | tlbiAll (t : Tag)
  | tlbiAs (t : Tag) (xb : XReg)
  | tlbiPage (t : Tag) (xa xb : XReg)
  | lvs (t : Tag) (xa xb : XReg)
  | lvr (t : Tag) (xa xb : XReg)
  -- X slot (R319, R320)
  | cprog (t : Tag) (pg : BitVec 2) (va : VReg) (pa : Port)
  | csel (t : Tag) (pg : BitVec 2)
  | aflow (t : Tag) (xa : XReg)
  | aldbLocal (t : Tag) (tv : TileNo) (pt : Port)
  | aldbCluster (t : Tag) (xa xb : XReg)
  | arun (t : Tag) (av : AccNo) (asp : BitVec 1) (an : TileNo) (pan : Port) (bsp : BitVec 1) (bn : TileNo) (pbn : Port) (mm1 : BitVec 12)
  | aruns (t : Tag) (av : AccNo) (asp : BitVec 1) (an : TileNo) (pan : Port) (mv : TileNo) (pmv : Port) (mm1 : BitVec 12)
  | ascl (t : Tag) (am : BitVec 2) (ta : TileNo) (bm : BitVec 2) (tb : TileNo)
  | aclrView (t : Tag) (av : AccNo)
  | aclrArray (t : Tag)
  | adrn (t : Tag) (td : TileNo) (sk : BitVec 2) (av : AccNo) (pav : Port) (sat : BitVec 1)
  -- T slot (R319, R320)
  | txin (t : Tag) (va : VReg) (pa : Port) (row : BitVec 7)
  | txout (t : Tag) (vd : VReg) (ci : BitVec 7) (h wl : BitVec 2)
  | txclr (t : Tag)
  -- Events of the sequencer and of memory
  | idleBundle (k : BitVec 3) (q : BitVec 1)
  | resultLanding (core ctx : Nat)
  | farLoadLanding (core ctx id : Nat)
  | farStorePerform (core ctx id : Nat)
  | windowWrite (core off : Nat) (data : List Byte)
  | windowRead (core off bytes : Nat)
  | eccCorrection (core : Nat)
  | uncorrectableError (addr : Nat)
  | walkComplete (id : Nat)
  | trapEntry (core ctx : Nat) (cause : Nat) (info : Word)
  | userInterrupt (core ctx : Nat)
  | budgetExpiry (core ctx : Nat)
  | hung (core ctx : Nat)
  | preemption (core ctx : Nat)
  | timeSliceSwitch (core ctx : Nat)
  | strandSwitch (core ctx : Nat)
  | contextSaveComplete (core ctx : Nat)
  | strandResume (image ctx : Nat)
  | contextSwitch (core : Nat)
  -- Events of the levee, tasks and queues
  | skeinBind (slot x y z : Nat)
  | pointFire (slot x y z core ctx : Nat)
  | pointCompletion (slot x y z : Nat)
  | launchAdmission (queue : Nat)
  | doorbell (queue : Nat) (tail : Word)
  | taskPacketArrival (id : Nat)
  | taskBind (core ctx : Nat)
  -- Events of the engines
  | spoolElementFetch (core ctx : Nat) (s : SpoolNo)
  | storeSpoolWrite (core ctx : Nat) (s : SpoolNo)
  | copyElement (id : Nat)
  | copyCompletion (id : Nat)
  | mergeStart (id : Nat)
  | mergeEnd (id : Nat)
  | probeStart (core ctx : Nat)
  | probeEnd (core ctx : Nat)
  | updateStart (core ctx : Nat)
  | updateEnd (core ctx : Nat)
  | arrayStart (core ctx : Nat)
  | arrayElement (core ctx : Nat)
  | arrayCompletion (core ctx : Nat)
  | multicastRowRead (id : Nat)
  | collectiveStart (id : Nat)
  | collectiveEnd (id : Nat) (others : List (List Byte)) (down : Bool)
  -- Events of the fabric, the host and the package
  | sluiceArrival (source asid k : Nat) (element : Word)
  | fabricAccess (source addr : Nat) (access : OuterAccess)
  | fabricResponse (core ctx id : Nat) (mark : Bool) (data : List Byte) (status : Nat)
  | fabricTimeout (core ctx id : Nat)
  | hostAccess (addr : Nat) (access : OuterAccess)
  | syncMessage (offset : Int) (domain : Nat)
  | syncTimeout
  | waittExpiry (core ctx : Nat)
  | powerOnBoot
  | quote (nonce : List Byte)
  | securityVersionRaise (version : Nat) (sig : List Byte)
  | identityRead (off bytes : Nat)
  | devctl (value : Word)
  | svpoolAppend (die : Nat) (value : Word)
  | ptpcfg (value : Word)
  | hostRegisterWrite (off : Nat) (value : Word)
  | halt
  | debugResume
  | step
  | debuggerHalt (core : Nat)
  | dbgdata (write : Option Word)
  | go
  | abort
  | recv
  | evacStopComplete
  | evacStreamComplete
  | evacDrainComplete
  | evacTimeout
  | adopted (ident : Nat)
  | throttle (core mhz : Nat)
  | thermalShutdown (celsius : Nat)
  | powerOff
  | stationDown (station : Nat) (live : Bool)
  | loadComplete (core ctx : Nat)
deriving DecidableEq, Repr

end Sys2Proof
end

