-- ==== Sys2Proof/WellFormed.lean ====
section
/-!
DEFINITION. Which instructions have a legal encoding: the field checks of R305-R320, and the limits of a supervisor core
(R17). A decoder refuses what these refuse.
-/
namespace Sys2Proof

/-- Scalar fields outside the A and B slots name x0-x55 only (R305). -/
def XReg.plain (r : XReg) : Bool := r.toNat < 56
/-- Predicates are p0-p95 (R306). -/
def PReg.ok (p : PReg) : Bool := p.toNat < 96
/-- A vector operand named 496-511 is a spool (R67). -/
def VReg.isSpool (v : VReg) : Bool := 496 ≤ v.toNat
/-- The port of a spool operand is zero (R72). -/
def portOk (v : VReg) (p : Port) : Bool := !VReg.isSpool v || p == 0

/-- PATH 6-7 and GP 96-127 are illegal (R53). -/
def Tag.ok (t : Tag) : Bool := t.path.toNat ≤ 5 && PReg.ok t.gp
/-- The tag of a slot that has no second one of its kind. -/
def Tag.single (t : Tag) : Bool := t.ok && !t.second

/-- Rounding codes 0-4 (R101, R306). -/
def roundOk (rm : BitVec 3) : Bool := rm.toNat ≤ 4
/-- Scope codes 0-11 (R220). -/
def scopeOk (s : BitVec 4) : Bool := s.toNat ≤ 11
/-- With ORD = 0 the scope is zero (R221). -/
def ordOk (o : BitVec 2) (s : BitVec 4) : Bool := scopeOk s && (o != 0 || s == 0)
/-- The scalar floating formats f32, f16 and bf16 (R311). -/
def scalarFloat (f : Fmt) : Bool := 8 ≤ f.toNat && f.toNat ≤ 10
/-- Whether an element type is of the integer class (R313). -/
def ElemType.isInt (e : ElemType) : Bool := e.toNat % 4 == 3
/-- An element type of an instruction that rounds: a float with a legal rounding, or an integer (R313). -/
def ElemType.any (e : ElemType) : Bool := ElemType.isInt e || e.toNat / 4 ≤ 4
/-- An element type of an instruction that does not round: a float with RM 0, or an integer (R313). -/
def ElemType.anyExact (e : ElemType) : Bool := ElemType.isInt e || e.toNat / 4 == 0
/-- A float element type with a legal rounding. -/
def ElemType.float (e : ElemType) : Bool := !ElemType.isInt e && e.toNat / 4 ≤ 4
/-- A float element type with RM 0. -/
def ElemType.floatExact (e : ElemType) : Bool := !ElemType.isInt e && e.toNat / 4 == 0
/-- The element width in bytes (R76, R313). -/
def ElemType.bytes (e : ElemType) : Nat :=
  if ElemType.isInt e then 2 ^ (e.toNat / 4 % 4) else if e.toNat % 4 == 0 then 4 else 2
/-- Element bytes of a format code other than b1 (R76). -/
def fmtBytes (f : Nat) : Nat :=
  match f with
  | 0 | 4 | 11 | 12 => 1
  | 1 | 5 | 9 | 10 => 2
  | 2 | 6 | 8 => 4
  | 3 | 7 => 8
  | _ => 1

/-- The numbers that the map of R79 names. -/
def sysRegMapped (n : Nat) : Bool :=
  n ≤ 0x005 || n == 0x008 || n == 0x010 || n == 0x011 || (0x020 ≤ n && n ≤ 0x022) || n == 0x028 || n == 0x029
    || (0x030 ≤ n && n ≤ 0x033) || n == 0x038 || (0x040 ≤ n && n ≤ 0x057) || (0x060 ≤ n && n ≤ 0x077)

/-- An even pair register of ACAS, at most x54 (R316). -/
def pairOk (r : XReg) : Bool := r.toNat ≤ 54 && r.toNat % 2 == 0

/-- Whether an opcode is legal in the slot that the tag says (R312: division in B only). -/
def inB (t : Tag) : Bool := t.ok && t.second

/-- Three vector operands of a VR instruction with their ports (R314). -/
def vrOk (t : Tag) (va : VReg) (pa : Port) (vb : VReg) (pb : Port) : Bool := t.ok && portOk va pa && portOk vb pb

/-- The width ratio of a vector conversion (R314, R437). -/
def cvtRatio (fd fs : Nat) : Nat := max (fmtBytes fd) (fmtBytes fs) / min (fmtBytes fd) (fmtBytes fs)

/-- The legal encodings (R305-R320): every field check that needs no more than the instruction itself. -/
def wellFormed : Instr → Bool
  | .brLabel _ | .brReg _ | .callLabel _ | .callReg _ | .ret | .done | .yield | .trig | .sysc _ | .brk _ | .rft | .uret => true
  | .btree t0 t1 t2 t3 => [t0, t1, t2, t3].all fun t => PReg.ok t.pred
  | .movb xf _ xa off => if xf == 0 then xa == 0 else off == 0 && XReg.plain xa
  | .loopImm _ _ | .loopSpool _ _ => true
  | .loopX _ xa => XReg.plain xa
  | .loops _ sm1 pk xf count =>
    1 ≤ pk.toNat && pk.toNat + sm1.toNat ≤ 95 && (xf == 0 || count.toNat < 56)
  | .leave n => 1 ≤ n.toNat && n.toNat ≤ 6
  | .pand _ _ pd pa pb | .por _ _ pd pa pb | .pxor _ _ pd pa pb => PReg.ok pd && PReg.ok pa && PReg.ok pb
  | .pnot pd pa | .pmov _ pd pa => PReg.ok pd && PReg.ok pa
  | .waitt xa => XReg.plain xa
  | .bar o paths => (o == 0) == (paths == 0)
  | .mfs xv srn | .mts xv srn => XReg.plain xv && sysRegMapped srn.toNat
  | .add t _ _ _ mode | .sub t _ _ _ mode => t.ok && mode.toNat ≤ 2
  | .addi t _ _ _ | .andi t _ _ _ | .ori t _ _ _ | .xori t _ _ _ | .shli t _ _ _ | .shri t _ _ _ | .sari t _ _ _ => t.ok
  | .mul t _ _ _ | .mulh t _ _ _ | .mulhn t _ _ _ | .and t _ _ _ | .or t _ _ _ | .xor t _ _ _ | .shl t _ _ _ | .shr t _ _ _
  | .sar t _ _ _ | .min t _ _ _ | .max t _ _ _ | .minn t _ _ _ | .maxn t _ _ _ => t.ok
  | .div t _ _ _ | .divn t _ _ _ | .rem t _ _ _ | .remn t _ _ _ => inB t
  | .cmp t pd _ _ cc fmt => t.ok && PReg.ok pd && cc.toNat ≤ 5 && fmt.toNat ≤ 7
  | .cmpi t pd _ cc _ => t.ok && PReg.ok pd && cc.toNat % 8 ≤ 5
  | .sel t _ _ _ ps => t.ok && PReg.ok ps
  | .lea t _ _ _ _ _ | .li t _ _ | .lih t _ _ | .clz t _ _ | .ctz t _ _ | .popc t _ _ => t.ok
  | .bfx t _ _ pos lm1 _ | .bfi t _ _ pos lm1 => t.ok && pos.toNat + lm1.toNat ≤ 63
  | .fadd t _ _ _ fmt rm | .fsub t _ _ _ fmt rm | .fmul t _ _ _ fmt rm | .ffma t _ _ _ _ fmt rm =>
    t.ok && scalarFloat fmt && roundOk rm
  | .fmin t _ _ _ fmt | .fmax t _ _ _ fmt => t.ok && scalarFloat fmt
  | .fcmp t pd _ _ cc fmt => t.ok && PReg.ok pd && cc.toNat ≤ 7 && scalarFloat fmt
  | .fcvt t _ _ fd fs rm _ => t.ok && fd.toNat ≤ 13 && fs.toNat ≤ 13 && roundOk rm
  | .vadd t _ va pa vb pb et sx | .vsub t _ va pa vb pb et sx =>
    vrOk t va pa vb pb && ElemType.any et && (sx == 0 || ElemType.isInt et)
  | .vmul t _ va pa vb pb et => vrOk t va pa vb pb && ElemType.any et
  | .vfma t _ _ va pa vb pb et => vrOk t va pa vb pb && ElemType.float et
  | .vmin t _ va pa vb pb et | .vmax t _ va pa vb pb et => vrOk t va pa vb pb && ElemType.anyExact et
  | .vabs t _ va pa et | .vneg t _ va pa et => t.ok && portOk va pa && ElemType.anyExact et
  | .vand t _ va pa vb pb et | .vor t _ va pa vb pb et | .vxor t _ va pa vb pb et | .vshl t _ va pa vb pb et
  | .vshr t _ va pa vb pb et | .vsar t _ va pa vb pb et | .vperm t _ va pa vb pb et =>
    vrOk t va pa vb pb && ElemType.isInt et
  | .vsel t _ _ va pa vb pb et => vrOk t va pa vb pb && ElemType.isInt et
  | .vnot t _ va pa et => t.ok && portOk va pa && ElemType.isInt et
  | .vcmp t _ va pa vb pb fmt cc => vrOk t va pa vb pb && fmt.toNat ≤ 10 && (cc.toNat ≤ 5 || 8 ≤ fmt.toNat)
  | .vcvt t _ va pa fd fs rm _ part =>
    t.ok && portOk va pa && fd.toNat ≤ 12 && fs.toNat ≤ 12 && roundOk rm && cvtRatio fd.toNat fs.toNat ≤ 4
      && part.toNat < cvtRatio fd.toNat fs.toNat && (8 ≤ fd.toNat || 8 ≤ fs.toNat || rm == 0)
  | .vbcst t _ xa et => t.ok && XReg.plain xa && ElemType.anyExact et
  | .vins t vd pd xa ew idx => t.ok && portOk vd pd && XReg.plain xa && idx.toNat < 128 / 2 ^ ew.toNat
  | .vext t xd va pa et idx =>
    t.ok && XReg.plain xd && portOk va pa && ElemType.isInt et && idx.toNat < 128 / ElemType.bytes et
  | .vred t xd va pa et op =>
    t.ok && XReg.plain xd && portOk va pa && ElemType.any et && op.toNat ≤ 5 && (op.toNat ≤ 2 || ElemType.isInt et)
  | .vamax t xd va pa et | .vargmx t xd va pa et => t.ok && XReg.plain xd && portOk va pa && ElemType.anyExact et
  | .vexp2 t _ va pa et | .vlog2 t _ va pa et | .vrcp t _ va pa et | .vrsq t _ va pa et =>
    inB t && portOk va pa && ElemType.float et
  | .vmask t _ va pa vb pb et => t.single && portOk va pa && portOk vb pb && ElemType.floatExact et
  | .vsprs t _ va pa fmt => t.single && portOk va pa && (fmt == 0 || fmt == 4 || fmt == 11 || fmt == 12)
  | .ld t xv xa _ _ | .st t xv xa _ _ => t.single && XReg.plain xv && XReg.plain xa
  | .lda t xv xa _ sc _ | .stl t xv xa _ sc _ => t.single && XReg.plain xv && XReg.plain xa && scopeOk sc
  | .vld t vv xa _ => t.single && !VReg.isSpool vv && XReg.plain xa
  | .vst t vv pv xa _ => t.single && portOk vv pv && XReg.plain xa
  | .amo t xd xa xb op _ ord sc =>
    t.single && XReg.plain xd && XReg.plain xa && XReg.plain xb && op.toNat ≤ 8 && ordOk ord sc
  | .acas t xd xa xb xc ord sc => t.single && pairOk xd && XReg.plain xa && pairOk xb && pairOk xc && ordOk ord sc
  | .fence t sc frm to' => t.single && scopeOk sc && frm != 0 && to' != 0
  | .drain t paths => t.single && paths != 0
  | .scfg t va pa _ => t.single && portOk va pa
  | .srel t _ => t.single
  | .dcp t _ vs ps vd pd => t.single && portOk vs ps && portOk vd pd
  | .dstat t xd _ => t.single && XReg.plain xd
  | .frd t xd xa => t.single && XReg.plain xd && XReg.plain xa
  | .fwr t xa xb => t.single && XReg.plain xa && XReg.plain xb
  | .fclr t xa | .cred t xa => t.single && XReg.plain xa
  | .spawn t xe xa xb xc => t.single && XReg.plain xe && XReg.plain xa && XReg.plain xb && XReg.plain xc
  | .lnch t xa va pa | .hacc t xa va pa => t.single && XReg.plain xa && portOk va pa
  | .hfam t va pa f => t.single && portOk va pa && f.toNat ≤ 7
  | .hprb t _ xt xo xc qs _ pq => t.single && XReg.plain xt && XReg.plain xo && XReg.plain xc && (qs == 0 || pq == 0)
  | .hins t xt xi | .hdel t xt xi | .hreh t xt xi => t.single && XReg.plain xt && XReg.plain xi
  | .merge t xa _ => t.single && XReg.plain xa
  | .tlbiAll t => t.single
  | .tlbiAs t xb => t.single && XReg.plain xb
  | .tlbiPage t xa xb | .lvs t xa xb | .lvr t xa xb => t.single && XReg.plain xa && XReg.plain xb
  | .cprog t _ va pa => t.single && portOk va pa
  | .csel t _ => t.single
  | .aflow t xa => t.single && XReg.plain xa
  | .aldbLocal t _ _ => t.single
  | .aldbCluster t xa xb => t.single && XReg.plain xa && XReg.plain xb
  | .arun t _ asp _ pan bsp _ pbn _ => t.single && (asp == 0 || pan == 0) && (bsp == 0 || pbn == 0)
  | .aruns t _ asp _ pan _ _ _ => t.single && (asp == 0 || pan == 0)
  | .ascl t am ta bm tb => t.single && am.toNat ≤ 2 && bm.toNat ≤ 2 && (am == 2 || ta == 0) && (bm == 2 || tb == 0)
  | .aclrView t _ | .aclrArray t => t.single
  | .adrn t _ sk av pav _ => t.single && sk.toNat ≤ 2 && (sk == 0 || (av == 0 && pav == 0))
  | .txin t va pa _ => t.single && portOk va pa
  | .txout t _ ci h wl =>
    t.single && wl.toNat ≤ 2 && ci.toNat < 128 / 2 ^ wl.toNat && h.toNat < 2 ^ wl.toNat
  | .txclr t => t.single
  | .idleBundle k _ => 1 ≤ k.toNat
  | .resultLanding .. | .farLoadLanding .. | .farStorePerform .. | .windowWrite .. | .windowRead .. | .eccCorrection ..
  | .uncorrectableError .. | .walkComplete .. | .trapEntry .. | .userInterrupt .. | .budgetExpiry .. | .hung ..
  | .preemption .. | .timeSliceSwitch .. | .strandSwitch .. | .contextSaveComplete .. | .strandResume .. | .contextSwitch ..
  | .skeinBind .. | .pointFire .. | .pointCompletion .. | .launchAdmission .. | .doorbell .. | .taskPacketArrival ..
  | .taskBind .. | .spoolElementFetch .. | .storeSpoolWrite .. | .copyElement .. | .copyCompletion .. | .mergeStart ..
  | .mergeEnd .. | .probeStart .. | .probeEnd .. | .updateStart .. | .updateEnd .. | .arrayStart .. | .arrayElement ..
  | .arrayCompletion .. | .multicastRowRead .. | .collectiveStart .. | .collectiveEnd .. | .sluiceArrival ..
  | .fabricAccess .. | .fabricResponse .. | .fabricTimeout .. | .hostAccess .. | .syncMessage .. | .syncTimeout
  | .waittExpiry .. | .powerOnBoot | .quote .. | .securityVersionRaise .. | .identityRead .. | .devctl .. | .svpoolAppend ..
  | .ptpcfg .. | .hostRegisterWrite .. | .halt | .debugResume | .step | .debuggerHalt .. | .dbgdata .. | .go | .abort | .recv
  | .evacStopComplete | .evacStreamComplete | .evacDrainComplete | .evacTimeout | .adopted .. | .throttle ..
  | .thermalShutdown .. | .powerOff | .stationDown .. | .loadComplete .. => true

end Sys2Proof
end

