-- ==== Sys2Proof/Machine/Formats.lean ====
section
/-!
DEFINITION. Number formats and arithmetic (R93-R105, R107, R112): integers and floats by their format codes, rounding with
its overflow and underflow rules, conversions, comparisons, the exact function values of the transcendentals and the tree of
a reduction. Values are raw encodings (Nat); flags are the five bits of FFLAGS.
-/
namespace Sys2Proof

/-! ### Flags (R114) -/

def flagNX : Nat := 1
def flagUF : Nat := 2
def flagOF : Nat := 4
def flagDZ : Nat := 8
def flagNV : Nat := 16

/-- The four directions of rounding (R101); DYN is resolved from FRM before use. -/
inductive Round where
  | rne | rz | rp | rm
deriving DecidableEq, Repr

/-- The direction a 2-bit code names (R101, R102). -/
def Round.ofCode (c : Nat) : Round :=
  match c with
  | 0 => .rne
  | 1 => .rz
  | 2 => .rp
  | _ => .rm

/-! ### Integer formats (R93) -/

/-- Codes 0-7 are the integer formats. -/
def isIntFmt (f : Nat) : Bool := f ≤ 7
/-- Codes 8-12 are the floating formats. -/
def isFloatFmt (f : Nat) : Bool := 8 ≤ f && f ≤ 12
/-- i formats are signed. -/
def intSigned (f : Nat) : Bool := f < 4
/-- The width of an integer format in bits. -/
def intBits (f : Nat) : Nat := 8 * 2 ^ (f % 4)
/-- The value of an encoding in an integer format. -/
def intValue (f v : Nat) : Int := if intSigned f then signedOf (intBits f) v else ((v % 2 ^ intBits f : Nat) : Int)
/-- The least value of an integer format. -/
def intMin (f : Nat) : Int := if intSigned f then -(2 ^ (intBits f - 1)) else 0
/-- The greatest value of an integer format. -/
def intMax (f : Nat) : Int := if intSigned f then 2 ^ (intBits f - 1) - 1 else 2 ^ intBits f - 1
/-- An exact integer clamped to the range of the format. -/
def intClamp (f : Nat) (x : Int) : Int := max (intMin f) (min (intMax f) x)
/-- The encoding of an integer, wrapped to the width of the format. -/
def intEncode (f : Nat) (x : Int) : Nat := wrap (intBits f) x
/-- An encoding extended to 64 bits by the signedness of its format. -/
def intExtend (f v : Nat) : Nat := wrap 64 (intValue f v)

/-! ### Floating formats (R96, R97) -/

/-- A floating value: a NaN, an infinity, or the exact number (-1)^neg * m * 2^e. -/
inductive Num where
  | nan
  | inf (neg : Bool)
  | fin (neg : Bool) (m : Nat) (e : Int)
deriving DecidableEq, Repr

/-- Fraction bits. -/
def fracBits (f : Nat) : Nat :=
  match f with
  | 8 => 23 | 9 => 10 | 10 => 7 | 11 => 3 | _ => 2
/-- Exponent bits. -/
def expBits (f : Nat) : Nat :=
  match f with
  | 8 => 8 | 9 => 5 | 10 => 8 | 11 => 4 | _ => 5
/-- The exponent bias. -/
def expBias (f : Nat) : Int :=
  match f with
  | 8 => 127 | 9 => 15 | 10 => 127 | 11 => 7 | _ => 15
/-- The width of the format in bits. -/
def floatBits (f : Nat) : Nat := 1 + expBits f + fracBits f
/-- The exponent of the last place of the subnormals. -/
def minQuantum (f : Nat) : Int := 1 - expBias f - fracBits f
/-- The encoding of +infinity, or, in e4m3, of its NaN: the first pattern above the finite numbers. -/
def topPattern (f : Nat) : Nat := if f == 11 then 0x7F else (2 ^ expBits f - 1) * 2 ^ fracBits f
/-- The largest finite magnitude. -/
def maxFinite (f : Nat) : Nat := topPattern f - 1
/-- The canonical NaN. -/
def canonNaN (f : Nat) : Nat := if f == 11 then 0x7F else topPattern f + 2 ^ (fracBits f - 1)
/-- An encoding with its sign. -/
def withSign (f : Nat) (neg : Bool) (mag : Nat) : Nat := mag + bit01 neg * 2 ^ (floatBits f - 1)

/-- The value of an encoding. -/
def floatValue (f v : Nat) : Num :=
  let neg := v.testBit (floatBits f - 1)
  let mag := v % 2 ^ (floatBits f - 1)
  if mag ≥ topPattern f then (if f != 11 && mag == topPattern f then .inf neg else .nan)
  else
    let e := mag / 2 ^ fracBits f
    let m := mag % 2 ^ fracBits f
    if e == 0 then .fin neg m (minQuantum f) else .fin neg (2 ^ fracBits f + m) (minQuantum f + e - 1)

/-- The number of bits of `m`; 0 for 0. -/
def bitLength (m : Nat) : Nat := if m == 0 then 0 else Nat.log2 m + 1

/-- Whether rounding moves away from zero, given the last kept bit and the rest as (above, equal, below) half. -/
def roundsAway (r : Round) (neg odd : Bool) (rest half : Nat) : Bool :=
  match r with
  | .rne => rest > half || (rest == half && odd)
  | .rz => false
  | .rp => rest != 0 && !neg
  | .rm => rest != 0 && neg

/-- m * 2^e rounded to a multiple of 2^q: the multiple and whether it is inexact. -/
def roundAt (r : Round) (neg : Bool) (m : Nat) (e q : Int) : Nat × Bool :=
  if q ≤ e then (m * 2 ^ (e - q).toNat, false)
  else
    let d := (q - e).toNat
    let rest := m % 2 ^ d
    let kept := m / 2 ^ d
    (kept + bit01 (roundsAway r neg (kept % 2 == 1) rest (2 ^ (d - 1))), rest != 0)

/-- Whether an overflow of this sign rounds away from zero (R103). -/
def overflowsAway (r : Round) (neg : Bool) : Bool :=
  match r with
  | .rne => true
  | .rz => false
  | .rp => !neg
  | .rm => neg

/-- The exact value (-1)^neg * m * 2^e delivered in format `f` with its flags (R101, R103, R104). -/
def roundFloat (f : Nat) (r : Round) (sat neg : Bool) (m : Nat) (e : Int) : Nat × Nat :=
  if m == 0 then (withSign f neg 0, 0)
  else
    let qu := e + bitLength m - (fracBits f + 1)
    let qmin := minQuantum f
    let q := max qu qmin
    let (k, inexact) := roundAt r neg m e q
    let enc := (q - qmin).toNat * 2 ^ fracBits f + k
    if enc > maxFinite f then
      let v := if sat || !overflowsAway r neg then withSign f neg (maxFinite f)
        else if f == 11 then canonNaN f else withSign f neg (topPattern f)
      (v, flagOF + flagNX)
    else
      let ku := (roundAt r neg m e qu).1
      let tiny := qu < qmin && !(ku == 2 ^ (fracBits f + 1) && qu + 1 == qmin)
      (withSign f neg enc, if inexact then (if tiny then flagUF + flagNX else flagNX) else 0)

/-- A value delivered in format `f`: a NaN is canonical, an infinity stays (in e4m3 it becomes the NaN). -/
def deliver (f : Nat) (r : Round) : Num → Nat × Nat
  | .nan => (canonNaN f, 0)
  | .inf neg => if f == 11 then (canonNaN f, 0) else (withSign f neg (topPattern f), 0)
  | .fin neg m e => roundFloat f r false neg m e

/-! ### Exact arithmetic on values (R98-R100, R375) -/

/-- The signed significand at exponent `e0 ≤ e`. -/
def signedAt (neg : Bool) (m : Nat) (e e0 : Int) : Int :=
  let v : Int := (m * 2 ^ (e - e0).toNat : Nat)
  if neg then -v else v

/-- The sign of an exact zero sum of operands of these signs (R100). -/
def zeroSign (r : Round) (na nb : Bool) : Bool := if na == nb then na else r == .rm

/-- The exact sum and whether it is invalid. -/
def Num.add (r : Round) : Num → Num → Num × Bool
  | .nan, _ => (.nan, false)
  | _, .nan => (.nan, false)
  | .inf a, .inf b => if a == b then (.inf a, false) else (.nan, true)
  | .inf a, .fin .. => (.inf a, false)
  | .fin .., .inf b => (.inf b, false)
  | .fin na ma ea, .fin nb mb eb =>
    let e0 := min ea eb
    let x := signedAt na ma ea e0 + signedAt nb mb eb e0
    if x == 0 then (.fin (zeroSign r na nb) 0 e0, false) else (.fin (x < 0) x.natAbs e0, false)

/-- The value with its sign turned. -/
def Num.neg : Num → Num
  | .nan => .nan
  | .inf a => .inf (!a)
  | .fin a m e => .fin (!a) m e

/-- The exact product and whether it is invalid. -/
def Num.mul : Num → Num → Num × Bool
  | .nan, _ => (.nan, false)
  | _, .nan => (.nan, false)
  | .inf a, .inf b => (.inf (a != b), false)
  | .inf a, .fin b m _ => if m == 0 then (.nan, true) else (.inf (a != b), false)
  | .fin a m _, .inf b => if m == 0 then (.nan, true) else (.inf (a != b), false)
  | .fin a ma ea, .fin b mb eb => (.fin (a != b) (ma * mb) (ea + eb), false)

/-- Whether a value is a NaN. -/
def Num.isNaN : Num → Bool
  | .nan => true
  | _ => false

/-- The sign of a float value. -/
def Num.isNeg : Num → Bool
  | .nan => false
  | .inf n => n
  | .fin n _ _ => n

/-- Whether a value is zero. -/
def Num.isZero : Num → Bool
  | .fin _ m _ => m == 0
  | _ => false

/-- A result with the NV flag of an invalid operation: the canonical NaN raises NV and not NX (R104). -/
def deliverOp (f : Nat) (r : Round) (x : Num × Bool) : Nat × Nat :=
  let (v, fl) := deliver f r x.1
  if x.2 then (v, flagNV) else (v, fl)

/-- ROUND(a + b). -/
def fAdd (f : Nat) (r : Round) (a b : Nat) : Nat × Nat := deliverOp f r (Num.add r (floatValue f a) (floatValue f b))
/-- ROUND(a - b). -/
def fSub (f : Nat) (r : Round) (a b : Nat) : Nat × Nat := deliverOp f r (Num.add r (floatValue f a) (floatValue f b).neg)
/-- ROUND(a * b). -/
def fMul (f : Nat) (r : Round) (a b : Nat) : Nat × Nat := deliverOp f r (Num.mul (floatValue f a) (floatValue f b))
/-- ROUND(a * b + c), one rounding; 0 * infinity is invalid even when c is a NaN. -/
def fFma (f : Nat) (r : Round) (a b c : Nat) : Nat × Nat :=
  let p := Num.mul (floatValue f a) (floatValue f b)
  let s := Num.add r p.1 (floatValue f c)
  deliverOp f r (s.1, p.2 || s.2)

/-- Three-way order of two values that are no NaN, with -0 equal to +0. -/
def Num.order : Num → Num → Ordering
  | .inf a, .inf b => if a == b then .eq else if a then .lt else .gt
  | .inf a, _ => if a then .lt else .gt
  | _, .inf b => if b then .gt else .lt
  | .fin na ma ea, .fin nb mb eb =>
    let e0 := min ea eb
    compare (signedAt na ma ea e0) (signedAt nb mb eb e0)
  | _, _ => .eq

/-- Whether a float is negative by its sign bit. -/
def signBit (f v : Nat) : Bool := v.testBit (floatBits f - 1)

/-- `a` orders strictly below `b` with -0 below +0 (R99); neither is a NaN. -/
def floatBelow (f a b : Nat) : Bool :=
  match Num.order (floatValue f a) (floatValue f b) with
  | .lt => true
  | .gt => false
  | .eq => signBit f a && !signBit f b

/-- minimumNumber and maximumNumber (R99). -/
def fMinMax (f : Nat) (isMax : Bool) (a b : Nat) : Nat :=
  match (floatValue f a).isNaN, (floatValue f b).isNaN with
  | true, true => canonNaN f
  | true, false => b
  | false, true => a
  | false, false => if isMax then (if floatBelow f a b then b else a) else (if floatBelow f b a then b else a)

/-- The relation a CC code names, on an order of ordered operands (R311). -/
def ccHolds (cc : Nat) (o : Ordering) : Bool :=
  match cc with
  | 0 => o == .eq
  | 1 => o != .eq
  | 2 => o == .lt
  | 3 => o != .gt
  | 4 => o == .gt
  | 5 => o != .lt
  | 7 => true
  | _ => false

/-- A floating comparison (R378). -/
def floatCompare (f cc a b : Nat) : Bool :=
  if (floatValue f a).isNaN || (floatValue f b).isNaN then cc == 1 || cc == 6
  else ccHolds cc (Num.order (floatValue f a) (floatValue f b))

/-- An integer comparison in the signedness of the format (R311). -/
def intCompare (f cc a b : Nat) : Bool := ccHolds cc (compare (intValue f a) (intValue f b))

/-! ### Conversions (R103-R105) -/

/-- Whether every value of float format `s` is exact in float format `d` (R105). -/
def floatWidens (d s : Nat) : Bool :=
  d == s || d == 8 || ((s == 11 || s == 12) && (d == 9 || d == 10))

/-- The width in bits of a format code. -/
def fmtBits (f : Nat) : Nat :=
  if isIntFmt f then intBits f else if isFloatFmt f then floatBits f else 1

/-- Float to float (R103-R105). -/
def convFloatFloat (d s : Nat) (r : Round) (sat : Bool) (v : Nat) : Nat × Nat :=
  match floatValue s v with
  | .nan => (canonNaN d, 0)
  | .inf neg =>
    if floatWidens d s then (withSign d neg (topPattern d), 0)
    else if sat then (withSign d neg (maxFinite d), flagNX)
    else if d == 11 then (canonNaN d, flagNV)
    else (withSign d neg (topPattern d), 0)
  | .fin neg m e => roundFloat d r (sat && !floatWidens d s) neg m e

/-- An exact value rounded to an integer, and whether that is inexact. -/
def roundToInt (r : Round) (neg : Bool) (m : Nat) (e : Int) : Int × Bool :=
  let (k, inexact) := roundAt r neg m e 0
  ((if neg then -(k : Int) else k), inexact)

/-- Float to integer (R105). -/
def convFloatInt (d s : Nat) (r : Round) (v : Nat) : Nat × Nat :=
  match floatValue s v with
  | .nan => (0, flagNV)
  | .inf neg => (intEncode d (if neg then intMin d else intMax d), flagNV)
  | .fin neg m e =>
    let (x, inexact) := roundToInt r neg m e
    if x < intMin d || intMax d < x then (intEncode d (intClamp d x), flagNV)
    else (intEncode d x, if inexact then flagNX else 0)

/-- CONV: an encoding of format `s` converted to format `d`, with the flags it raises (R105). -/
def convert (d s : Nat) (r : Round) (sat : Bool) (v : Nat) : Nat × Nat :=
  let v := v % 2 ^ fmtBits s
  if d == 13 then
    (bit01 (if isFloatFmt s then !(floatValue s v).isZero else v != 0), 0)
  else if s == 13 then
    if isFloatFmt d then (if v == 0 then 0 else (roundFloat d .rne false false 1 0).1, 0) else (v, 0)
  else if isFloatFmt s then
    if isFloatFmt d then convFloatFloat d s r sat v else convFloatInt d s r v
  else
    let x := intValue s v
    if isFloatFmt d then roundFloat d r sat (x < 0) x.natAbs 0
    else (intEncode d (if sat then intClamp d x else x), 0)

/-- SAT(x, fmt) of an exact integer or the format's own NaN rule (R8), for integers. -/
def satInt (f : Nat) (x : Int) : Nat := intEncode f (intClamp f x)

/-! ### Transcendentals (R438) -/

/-- Integer square root, one binary digit of the root per step; `n` digits. -/
def isqrtGo : Nat → Nat → Nat → Nat
  | 0, _, s => s
  | n + 1, x, s =>
    let t := s + 2 ^ n
    isqrtGo n x (if t * t ≤ x then t else s)

/-- The floor of the square root of `x`. -/
def isqrt (x : Nat) : Nat := isqrtGo (bitLength x / 2 + 1) x 0

/-- The working precision of the transcendentals in bits. -/
def deepBits : Nat := 256

/-- 1 / (m * 2^e) as an exact-or-sticky significand. -/
def recipValue (neg : Bool) (m : Nat) (e : Int) : Num :=
  let k := deepBits + bitLength m
  let q := 2 ^ k / m
  .fin neg (2 * q + bit01 (2 ^ k % m != 0)) (-(k : Int) - e - 1)

/-- 1 / sqrt (m * 2^e) as an exact-or-sticky significand. -/
def rsqrtValue (m : Nat) (e : Int) : Num :=
  let odd := e % 2 != 0
  let m' := if odd then 2 * m else m
  let e' := if odd then e - 1 else e
  let k := deepBits + bitLength m'
  let s := isqrt (2 ^ (2 * k) / m')
  .fin false (2 * s + bit01 (s * s * m' != 2 ^ (2 * k))) (-(k : Int) - e' / 2 - 1)

/-- The product of 2^(2^-i) over the set bits of a fraction of `n` bits, most significant first; all in units of
2^-deepBits, rounded down at each product. `root` is 2^(2^-i) for the bit at hand. -/
def exp2Go : Nat → Nat → Nat → Nat → Nat
  | 0, _, _, acc => acc
  | n + 1, frac, root, acc =>
    let acc' := if frac.testBit n then acc * root / 2 ^ deepBits else acc
    exp2Go n frac (isqrt (root * 2 ^ deepBits)) acc'

/-- 2^a for a finite a: exact when a is an integer, else a significand with its sticky bit. -/
def exp2Value (neg : Bool) (m : Nat) (e : Int) : Num :=
  if 0 ≤ e then
    let a : Int := m * 2 ^ (min e.toNat 200)
    .fin false 1 (if neg then -(min a 100000) else min a 100000)
  else
    let n := (-e).toNat
    let ip : Int := m / 2 ^ n
    let frac := m % 2 ^ n
    if frac == 0 then .fin false 1 (if neg then -(min ip 100000) else min ip 100000)
    else
      let ip' : Int := if neg then -(ip + 1) else ip
      let frac' := if neg then 2 ^ n - frac else frac
      let v := exp2Go n frac' (isqrt (2 * 2 ^ (2 * deepBits))) (2 ^ deepBits)
      .fin false (2 * v + 1) (max (min ip' 100000) (-100000) - deepBits - 1)

/-- The first `n` binary digits of log2 x for 1 ≤ x < 2, x in units of 2^-w, by repeated squaring. -/
def log2Go : Nat → Nat → Nat → Nat → Nat
  | 0, _, _, acc => acc
  | n + 1, w, x, acc =>
    let y := x * x / 2 ^ w
    if 2 ^ (w + 1) ≤ y then log2Go n w (y / 2) (2 * acc + 1) else log2Go n w y (2 * acc)

/-- log2 (m * 2^e) for a positive value: exact for a power of two, else a significand with its sticky bit. -/
def log2Value (m : Nat) (e : Int) : Num :=
  let l := Nat.log2 m
  let ip : Int := e + l
  if m == 2 ^ l then .fin (ip < 0) ip.natAbs 0
  else
    let n := 192
    let w := 2 * deepBits
    let frac := log2Go n w (m * 2 ^ (w - l)) 0
    let x : Int := ip * 2 ^ n + frac
    if 0 ≤ x then .fin false (2 * x.toNat + 1) (-(n : Int) - 1)
    else .fin true (2 * (x.natAbs - 1) + 1) (-(n : Int) - 1)

/-- The four transcendentals by kind: 0 VEXP2, 1 VLOG2, 2 VRCP, 3 VRSQ (R438). -/
def transcend (kind f : Nat) (r : Round) (v : Nat) : Nat × Nat :=
  let top (neg : Bool) := withSign f neg (topPattern f)
  match kind, floatValue f v with
  | _, .nan => (canonNaN f, 0)
  | 0, .inf neg => if neg then (0, 0) else (top false, 0)
  | 0, .fin neg m e => if m == 0 then ((roundFloat f .rne false false 1 0).1, 0) else deliver f r (exp2Value neg m e)
  | 1, .inf neg => if neg then (canonNaN f, flagNV) else (top false, 0)
  | 1, .fin neg m e =>
    if m == 0 then (top true, flagDZ)
    else if neg then (canonNaN f, flagNV) else deliver f r (log2Value m e)
  | 2, .inf neg => (withSign f neg 0, 0)
  | 2, .fin neg m e => if m == 0 then (top neg, flagDZ) else deliver f r (recipValue neg m e)
  | _, .inf neg => if neg then (canonNaN f, flagNV) else (0, 0)
  | _, .fin neg m e =>
    if m == 0 then (top neg, flagDZ)
    else if neg then (canonNaN f, flagNV) else deliver f r (rsqrtValue m e)

/-! ### Reductions (R112, R113) -/

/-- One level of the pairwise tree: neighbours combine, an unpaired last one stays. -/
def treeLevel {α : Type} (op : α → α → α) : List α → List α
  | a :: b :: rest => op a b :: treeLevel op rest
  | rest => rest

/-- The pairwise tree of R112 over `fuel` levels. -/
def treeReduce {α : Type} (op : α → α → α) : Nat → List α → List α
  | 0, l => l
  | n + 1, l => treeReduce op n (treeLevel op l)

/-- An operation on (value, flags) pairs, accumulating the flags. -/
def withFlags (op : Nat → Nat → Nat × Nat) (a b : Nat × Nat) : Nat × Nat :=
  let (v, fl) := op a.1 b.1
  (v, a.2 ||| b.2 ||| fl)

/-- RNE32: an exact value rounded to f32 with ties to even (R8). -/
def rne32 (x : Num) : Nat := (deliver 8 .rne x).1

end Sys2Proof
end

