-- ==== Sys2Proof/Config.lean ====
section
/-!
DEFINITION. What an implementation fixes and the values that the manual leaves open. An opaque constant here is a free value:
nothing can evaluate it, and a statement holds whatever it is.
-/
namespace Sys2Proof

/-- How far the 64-bit nanosecond timebase moves in the n-th step of the model: the manual fixes no wall-clock length of a
bundle-time (R13), so the advance is free (log 5). -/
opaque Config.timeAdvance : Nat → Nat

/-- How many cycles of program-visible waiting pass in the n-th step in which a strand stands frozen (R276): free (log 5). -/
opaque Config.waitCycles : Nat → Nat

/-- The SHAKE256 digest, as its 64-byte output (R296): the function stands outside the manual (log 6). -/
opaque Config.shake256 : List Byte → List Byte

/-- Whether an ML-DSA-65 signature of a message verifies under a key (R296), as key, message, signature: outside the manual
(log 6). -/
opaque Config.mldsaVerify : List Byte → List Byte → List Byte → Bool

/-- The ML-DSA-65 signature that the identity key gives (R296): outside the manual (log 6). -/
opaque Config.mldsaSign : List Byte → List Byte

/-- The bytes returned beside the poison indication when the host reads a poisoned word (R282): free (log 6). -/
opaque Config.poisonBytes : Nat → List Byte

/-- The content of the boot flash, which the board's maker writes (R298): free (log 6). -/
opaque Config.bootFlash : List Byte

/-- The digest of the key fused into the package (R296): free (log 6). -/
opaque Config.fusedKeyDigest : List Byte

/-- The manifest of the boot flash without its signature, the key that signed it, its signature, its security version and the
images that it names: firmware, hub firmware, supervisor-core firmware, die configuration (R296): free (log 6). -/
opaque Config.manifest : List Byte
opaque Config.manifestKey : List Byte
opaque Config.manifestSignature : List Byte
opaque Config.manifestVersion : Nat
opaque Config.bootImages : List (List Byte)

/-- Which measurement register a boot stage extends, which no rule states (R296): free (log 6). -/
opaque Config.stageRegister : Nat → Nat

/-- Whether the part is the NZ7104 module; otherwise it is the NZ7104-P package (R1): free (log 6). -/
opaque Config.isModule : Bool

/-- The serial number and the public identity key of the part (R297): free (log 6). -/
opaque Config.serialNumber : List Byte
opaque Config.identityKey : List Byte

/-- The 32 bits that a LET takes from a double lane of ARUNS, which no rule states (R166, R167): free (log 53). -/
opaque Config.wideLane : Nat → Nat

/-- The lane that a LET of a scaled pass takes from an exact band partial, by instruction and element and by cell: no rule states its
rounding (R167, R180): free (log 53). -/
opaque Config.bandLane : Nat → Nat → Nat

/-- The bytes of a spool element behind the terminal pair of a merge, which no rule states (R163): free (log 7). -/
opaque Config.mergePad : Nat → Nat → Nat

/-- The density in GiB of LPDDR6 device n of the second tier, 0 when it does not answer (R123): free (log 6). -/
opaque Config.deviceGiB : Nat → Nat

/-- The expander capacity in GiB behind root port n, 0 when its link does not train (R123, R298): free (log 6). -/
opaque Config.expanderGiB : Nat → Nat

/-- What TINFO holds after a fault at step n with cause c, where no rule names an address, an index or a code (R269): free (log 9). -/
opaque Config.noInfo : Nat → Nat → Nat

/-- Words of a trap bank after a strand switch, whose content is unspecified (R271): free (log 9). -/
opaque Config.trapBank : Nat → Nat

/-- Which context, among those that hold a strand, moves in the n-th step: the manual fixes no order among cores (log 4). -/
opaque Config.schedule : Nat → Nat

/-- How another package of the fabric answers an engine's read in the n-th step, by step, package, station (R285), offset and bytes: 0
and the data, 1 for poison, 2 for a failure. The other package stands outside the model (log 10). -/
opaque Config.foreignRead : Nat → Nat → Nat → Nat → Nat → Nat × List Byte

/-- Whether another package of the fabric takes an engine's write in the n-th step, by step, package, station, offset and data
(log 10). -/
opaque Config.foreignWrite : Nat → Nat → Nat → Nat → List Byte → Bool

/-- Whether the response to an engine's access of the n-th step carries a congestion mark, by step and package (R286, log 10). -/
opaque Config.foreignMark : Nat → Nat → Bool

/-- Whether a sluice's ring in another package has a free slot, by step, package, address space and sluice (R289, log 10). -/
opaque Config.foreignRoom : Nat → Nat → Nat → Nat → Bool

/-- Whether the data of a read that a frozen bundle waits for have returned by the n-th step, by step and address (log 4). -/
opaque Config.answers : Nat → Nat → Bool

/-- The failure code of a boot that failed, by the stage that failed: no rule gives the codes (R296, log 6). -/
opaque Config.bootFailure : Nat → Nat

/-- How many members of a polder of the fabric group have arrived in other packages by the n-th step, by step and polder number
(R255, R256): they stand outside the model (log 10). -/
opaque Config.foreignArrivals : Nat → Nat → Nat

/-- Whether package `j` holds a member of a polder of fabric level, by polder number and package (R220, R255, log 10). -/
opaque Config.foreignMember : Nat → Nat → Bool

/-- Whether package `j` stands in RECEIVE in the n-th step, by step and package (R300): it stands outside the model (log 10). -/
opaque Config.foreignReceives : Nat → Nat → Bool

/-- Where the evacuation levee image stands, which no rule states (R301): free (log 12). -/
opaque Config.evacImage : Nat

/-- The cause that a failed evacuation records where no rule names one (R301): free (log 9). -/
opaque Config.evacCause : Nat → Nat

/-- The cause with which a step n finds a nonzero reserved bit of a trap frame, which its rules do not name (R5, R270): free (log 51). -/
opaque Config.frameCause : Nat → Nat

/-- The words of the configuration header that no rule gives, by offset: the vendor identifier and the class code among them (R282,
log 6). -/
opaque Config.configHeader : Nat → Nat

/-- Which of the events that engines, memory and units could make comes in the n-th step, if any: the manual fixes no wall-clock
time of theirs (log 4). -/
opaque Config.choice : Nat → Nat

end Sys2Proof
end

