-- ==== Sys2Proof/Machine/State.lean ====
section
/-!
DEFINITION. The state of one Omlar package: every register, memory, engine and table that the manual gives it, as plain data,
and the state right after power-on reset.
-/
namespace Sys2Proof.Machine

/-- Why the machine stops. -/
inductive Fault where
  /-- A slot instruction is executed while the focus context holds no strand that is ISSUING. Raised by every slot
  meaning; safe: the hardware has no such event. -/
  | noStrand
deriving DecidableEq, Repr

/-- Why the model has no meaning for what is asked. -/
inductive Refusal where
  /-- The instruction has no meaning in the model yet; safe. -/
  | notModelled (mnemonic : String)
deriving DecidableEq, Repr

/-- A sparse table: keys rising. -/
abbrev Tab (α : Type) := List (Nat × α)

/-- A fault to take: its cause code (R268), the value for TINFO, and whether that is a physical address (R269). -/
structure Raise where
  cause : Nat
  info : Word
  phys : Bool
deriving DecidableEq, Repr

/-- The scalar and predicate bank that x48-x55 and p88-p95 reach: the strand's own, the trap bank (R271) or the shadows of
the user handler (R274). -/
inductive RegBank where
  | main | trap | shadow
deriving DecidableEq, Repr

/-- Where the data of a far load lands. -/
inductive Dest where
  /-- Nowhere (x0, or an access without a result). -/
  | none
  /-- A scalar register, extended by an integer format code. -/
  | x (bank : RegBank) (n fmt : Nat)
  /-- The two registers of an ACAS pair. -/
  | pair (bank : RegBank) (n : Nat)
  /-- A vector register: its number and its 128 bytes of register space. -/
  | vec (n addr : Nat)
deriving DecidableEq, Repr

/-- What lands at the end of an operation's latency (R12). -/
inductive Effect where
  | x (bank : RegBank) (n : Nat) (v : Word)
  | p (bank : RegBank) (n : Nat) (v : Bool)
  | b (n : Nat) (v : CodeAddr)
  /-- Bytes of memory or register space at a physical address; `raw` clears poison word by word. -/
  | bytes (addr : Nat) (data : List Byte)
  /-- A system register by its number (R79). -/
  | sys (n : Nat) (v : Word)
  /-- Flags accruing into FFLAGS (R115). -/
  | flags (f : Nat)
  /-- A push on a pipe or sluice endpoint q0-q7 (R68), with the encoding of the pushing slot for a replay entry (R40). -/
  | pushQueue (q : Nat) (v : Word) (sword : Nat)
  /-- A push on a store spool (R69), with the encoding of the pushing slot for a replay entry (R148). -/
  | pushSpool (s : Nat) (v : Nat) (sword : Nat)
  /-- A family descriptor into HFAMn (R384). -/
  | hfam (n : Nat) (desc : Nat)
  /-- A row of the transposer buffer (R192). -/
  | txRow (row : Nat) (v : Nat)
  /-- The clearing of the transposer buffer (R192). -/
  | txClear
  /-- A spool configured with a descriptor and what it captures at its issue: the bank formats, the privilege and the path entropy
  of its accesses (R130, R285, R415), or released (R416). -/
  | spoolConfig (s : Nat) (desc : Nat) (banks : Tab Word) (priv : Bool) (fent : Nat)
  | spoolRelease (s : Nat)
  /-- A MERGE or PROBE spool armed over an output area by an engine's job (R404, R206). -/
  | spoolArm (s area job : Nat)
deriving DecidableEq, Repr

/-- A result in flight: the bundle-time it is due at, its place in issue order, the slot that issued it. -/
structure Flight where
  due : Nat
  seq : Nat
  slot : Nat
  eff : Effect
deriving DecidableEq, Repr

/-- A time line: the bundle-time, the bundle-times the last bundle still occupies, and the results in flight in issue
order. -/
structure Line where
  bt : Nat
  busy : Nat
  flights : List Flight
deriving DecidableEq, Repr

/-- What a strand waits for in the bundle at hand (R279): an FRD (WKIND 0, 2 or 3, the future's address and the filling value), a BAR
whose arrival is registered, with the phase it arrived in (WKIND 1), and the time of a WAITT, of which an image records nothing. -/
structure WaitState where
  kind : Nat
  arg : Nat
  value : Word
  arrived : Option Nat
  wake : Word
deriving DecidableEq, Repr

/-- No wait. -/
def WaitState.none : WaitState := ⟨0, 0, 0, .none, 0⟩

/-- What suspended a time line. -/
inductive SuspKind where
  | trap | user
deriving DecidableEq, Repr

/-- A suspended time line (R270, R274). -/
structure Susp where
  kind : SuspKind
  line : Line
  /-- What made its boundary a quiescent point (R65). -/
  loopQuiet : Bool
  backEdge : Bool
  /-- A SYSC or BRK not yet taken (R267). -/
  call : Option Raise
  /-- The wait that its boundary bundle stood in (R353, R376). -/
  waits : WaitState
  /-- The number in issue order of the first bundle behind its suspension. -/
  seq : Nat
deriving DecidableEq, Repr

/-- A loop level (R85, R88). `stages` is 0 for a LOOP and S for a LOOPS, whose run starts at predicate `run`. -/
structure Level where
  start : Nat
  stop : Nat
  count : Nat
  index : Nat
  stages : Nat
  run : Nat
  /-- Iterations of a LOOPS begun since stage 0 was last enabled: its epilogue (R88, R89). -/
  tail : Nat
  /-- It has drained before its end, for a switch, and re-enters through its prologue (R89). -/
  drained : Bool
deriving DecidableEq, Repr

/-- Why a core stands frozen (R61, R227): `held` is a push to a spool, or an array stream, that cannot go on, `blocked` a push to a pipe or
sluice; `ordering` is an order that the engines of the core bring about, `farOrder` one that units outside it do. -/
inductive Wait where
  | held | blocked | farOrder | spool | queue | pending | walk | barrier | time | future | ordering | inbox | copyQueue | workQueue | arrayQueue
  | probeQueue | done | ownWork | results | yielded | levee | squashed
deriving DecidableEq, Repr

/-- One operand as an operation captured it, for a replay entry (R270). -/
inductive Supply where
  | value (v : Nat)
  | missing
deriving DecidableEq, Repr

/-- The work that a strand carries (R31). -/
inductive Work where
  | none
  /-- A point of the launch in a slot. -/
  | point (slot x y z : Nat)
  /-- A member of the skein bound for a point. -/
  | member (slot x y z m : Nat)
  /-- A task of a region. -/
  | task (region : Nat)
  /-- Firmware on a supervisor core (R265), or a strand that belongs to no launch. -/
  | firmware
deriving DecidableEq, Repr

/-- What a strand is: its work and what the levee and the kernel image fixed at binding. -/
structure Ident where
  /-- The model's number of the strand. -/
  uid : Nat
  work : Work
  /-- The admission it belongs to (R470). -/
  launch : Option Nat
  /-- Address space (R132). -/
  asid : Nat
  /-- Priority 0-7 (R241). -/
  prio : Nat
  /-- Virtual address of the kernel image (R91). -/
  image : Nat
  codeLen : Nat
  callDepth : Nat
  spoolMask : Nat
  /-- Completion scope of the launch (R241). -/
  cscope : Nat
  /-- The skein it is a member of, by the model's number. -/
  skein : Option Nat
  /-- The task region that it roots or belongs to (R257). -/
  region : Option Nat
  /-- The region's own copy of the weight held (R45, R258). -/
  weight : Nat
deriving DecidableEq, Repr

/-- The strand-scope system registers of R79 other than views. -/
structure SysRegs where
  priv : Bool
  uie : Bool
  uih : Bool
  vview : Word
  frm : Word
  fflags : Word
  budget : Word
  uvec : Word
  umask : Word
  polder : Word
  launch : Word
  weight : Word
  trigscope : Word
  fent : Word
  tcause : Word
  tinfo : Word
  tviews : Vector Word 16
  aviews : Vector Word 8
deriving DecidableEq, Repr

/-- One element of a spool's buffer: its 128 bytes, the fault it gives when popped (R146), the address of its first byte, none
for a FILL (R466), for an INDIRECT store the address of each item, none where the item is discarded (R148), and the place of its push
in issue order. -/
structure SpoolElem where
  data : Nat
  fault : Option Raise
  addr : Option Nat
  targets : List (Option Nat)
  seq : Nat
deriving DecidableEq, Repr

/-- A configured spool (R142-R151). -/
structure Spool where
  /-- The 512-bit descriptor (R143). -/
  desc : Nat
  /-- Captured at SCFG: the bank formats by physical bank start (R130), the privilege of its accesses (R134) and their path entropy
  (R285); and its place in issue order (R223). -/
  banks : Tab Word
  priv : Bool
  fent : Nat
  seq : Nat
  /-- Buffered elements, oldest first; of a store spool, pushes not yet written. -/
  buf : List SpoolElem
  /-- Elements fetched, or, of a store spool, written. -/
  moved : Nat
  /-- Elements popped, or pushed. -/
  count : Nat
  /-- Pushes issued (R148). -/
  issued : Nat
  /-- INDIRECT: the index of sIDX's stream that element 0 starts at (R147, R150). -/
  idxBase : Nat
  /-- INDIRECT, ROWS = 0: the index that its stream ended before (R147, R150). -/
  idxEnd : Option Nat
  /-- The stream has ended: nothing more will be fetched, or a store spool is exhausted. -/
  ended : Bool
  /-- Leftover counts of a LOOP (R85). -/
  counts : List Nat
  /-- MERGE and PROBE: the area that the engine publishes (R149), elements published, identifiers among them, whether it is
  complete, the fault of what follows, and the job that feeds it. -/
  area : Nat
  published : Nat
  ids : Nat
  closed : Bool
  failure : Option Raise
  job : Option Nat
deriving DecidableEq, Repr

/-- The kinds of a far access. -/
inductive FarKind where
  | load (dest : Dest)
  | store (data : List Byte)
  | amo (dest : Dest) (op width : Nat) (v : Nat)
  | acas (dest : Dest) (expect new : Nat)
  /-- A sluice send from endpoint q4-q7 (R288). -/
  | sluice (q : Nat) (v : Word)
deriving DecidableEq, Repr

/-- A far access outstanding (R60, R218). -/
structure FarOp where
  id : Nat
  /-- Path number (R219). -/
  path : Nat
  /-- Its first virtual address. -/
  va : Nat
  /-- Its bytes as physical pieces, in order. -/
  pieces : List (Nat × Nat)
  kind : FarKind
  /-- An acquire: later accesses wait for it (R225). -/
  acquire : Bool
  /-- Its bundle's place in issue order. -/
  seq : Nat
deriving DecidableEq, Repr

/-- A destination that faults at its first use: poisoned-pending (R140) or error-pending (R287). -/
structure BadDest where
  dest : Dest
  err : Raise
deriving DecidableEq, Repr

/-- A deferred report waiting for its reporting point: its path and fault (R141, R148, R213, R287, R291), and the retrieval
updates it makes replay entries of. -/
structure Report where
  path : Nat
  err : Raise
  updates : Bool
deriving DecidableEq, Repr

/-- The result of a page walk that the strand waited for (R135): the page and either its frame or the fault. -/
structure Walked where
  asid : Nat
  page : Nat
  bits : Nat
  frame : Nat
  perms : Nat
  ok : Bool
deriving DecidableEq, Repr

/-! ### The array and the transposer (R166-R192) -/

/-- A sparse grid of 32-bit cell values keyed by 128i + j; an absent cell holds 0. -/
abbrev Cells := Tab Nat

/-- A set of stationary latches: format, shape H cell rows by Nc columns, lanes, and the tile scales of a TILE-scaled source
(R177, R178, R342). -/
structure Latches where
  fmt : Nat
  rows : Nat
  cols : Nat
  cells : Cells
  scales : Option (List Nat)
deriving DecidableEq, Repr

/-- The settings an array instruction captures at its issue (R173, R179). -/
structure ArrSettings where
  /-- The 12-byte image of the selected program (R169). -/
  prog : Nat
  statC : Bool
  skewRow : Bool
  /-- Scale modes 0 ONE, 1 SOURCE, 2 VIEW, and the views captured for VIEW. -/
  am : Nat
  aview : Word
  bm : Nat
  bview : Word
deriving DecidableEq, Repr

/-- What an array instruction does, with the views and operands it captured at its issue (R78, R188). -/
inductive ArrKind where
  | loadLocal (view : Word)
  /-- The window address word and the shape word of a cluster ALDB (R341). -/
  | loadCluster (addr shape : Word)
  /-- `aspool`/`bspool`: the streams come from these spools; otherwise from the views. -/
  | run (acc : Word) (aspool : Option Nat) (aview : Word) (bspool : Option Nat) (bview : Word) (m : Nat) (sparse : Option Word)
  | drain (dst : Word) (src : Nat) (acc : Word) (sat : Bool)
  | clearView (acc : Word)
  | clearArray
deriving DecidableEq, Repr

/-- One update of an accumulator, or a row of a drain or clear, due in the register space. -/
structure ArrWrite where
  due : Nat
  /-- The place in issue order of its instruction (R185), and the element it belongs to. -/
  seq : Nat
  prog : Nat
  addr : Nat
  fmt : Nat
  /-- `none`: the values in order are stored; `some op`: each is combined into the element by the ACC operator `op`, or, for 8,
  a scaled pass, added band by band. -/
  op : Option Nat
  vals : List Nat
  /-- NaN and saturation events to count at the write (R187). -/
  nans : Nat
  sats : Nat
deriving DecidableEq, Repr

/-- An array instruction issued and not complete. -/
structure ArrOp where
  /-- Its place in issue order, which its landings carry (R185), and its slot's encoding. -/
  seq : Nat
  sword : Nat
  kind : ArrKind
  set : ArrSettings
  /-- Physical start and bytes of the partition at issue (R73). -/
  base : Nat
  size : Nat
  issued : Nat
  /-- The bundle-time it started at. -/
  start : Option Nat
  /-- Elements or rows read, taken or written so far. -/
  done : Nat
  /-- Facts fixed at the start: cell rows H or rows R, columns Nc, the stationary in use, sampled metadata and scales, the tag of
  the first element. -/
  rows : Nat
  cols : Nat
  lat : Option Latches
  codes : List Nat
  ascale : List (List Nat)
  bscale : List Nat
  tag0 : Nat
  /-- The lanes of the elements read so far: A and, under STAT_C, B. -/
  aelems : List (List Nat)
  belems : List (List Nat)
  /-- The multicast a cluster ALDB takes its rows from. -/
  cast : Option Nat
  /-- The bundle-time at which a fault stopped it, and its landings held back (R190, R272). -/
  paused : Option Nat
  held : List ArrWrite
deriving DecidableEq, Repr

/-- The array and transposer of a strand (R191). -/
structure Arr where
  /-- The program store, four images of 96 bits. -/
  progs : Vector Nat 4
  sel : Nat
  statC : Bool
  skewRow : Bool
  am : Nat
  ta : Nat
  bm : Nat
  tb : Nat
  active : Option Latches
  shadow : Option Latches
  pending : Bool
  c0 : Cells
  c1 : Cells
  /-- Event bits: SATEV 2, NANEV 1. -/
  events : Cells
  tag : Nat
  ops : List ArrOp
  writes : List ArrWrite
  /-- Free times; none is minus infinity (R188). -/
  fLoad : Option Nat
  fStream : Option Nat
  fDrain : Option Nat
  tbuf : Tab Nat
deriving DecidableEq, Repr

/-! ### Engine requests -/

/-- What a retrieval request has read, once: the table descriptor at its start, and the signatures of the row or query in hand (R198,
R202, R203). -/
structure Plan where
  /-- The table descriptor as read at the start. -/
  desc : Nat
  /-- The bucket signatures of the row or query in hand, current tables first; empty while no row is read. -/
  sigs : List Nat
  /-- Those of the old tables (R203, R207). -/
  oldSigs : List Nat
  /-- Bucket updates of the row that have performed. -/
  step : Nat
deriving DecidableEq, Repr

/-- A retrieval request in the probe queue of a core (R213). -/
structure ProbeReq where
  id : Nat
  /-- The strand it works for, by the model's number, and the context that it issued in. -/
  uid : Nat
  ctx : Nat
  /-- Address space, privilege and path entropy of its accesses, as they stood at its issue (R134, R285). -/
  asid : Nat
  priv : Bool
  fent : Nat
  seq : Nat
  instr : Instr
  /-- 0 HPRB, 1 HINS, 2 HDEL, 3 HREH, 4 HACC. -/
  kind : Nat
  /-- Table or accumulator address, row identifier or rows, output area, control word, spool. -/
  table : Nat
  arg : Nat
  area : Nat
  control : Nat
  spool : Nat
  /-- The query: format, element count or key length, and bytes; for HACC the 128 bytes of pairs. -/
  qfmt : Nat
  qlen : Nat
  qdata : Nat
  /-- The family registers (R193) and bank formats (R130) captured at issue. -/
  fams : List Nat
  banks : Tab Word
  started : Bool
  /-- Progress count (R214), and the claim of an HREH as first row and end. -/
  progress : Nat
  claim : Option (Nat × Nat)
  /-- What the row in hand has fixed. -/
  plan : Option Plan
  /-- The candidates that a probe has read so far, bucket by bucket (R212). -/
  found : List (List Nat)
  /-- A fault has ended it; it waits to become a replay entry (R213). -/
  failed : Bool
  /-- Its union, handed to the cluster's merge engine: the number of its arrival, then 0 once it holds a place (R165, R207). -/
  union : Option Nat
deriving DecidableEq, Repr

/-- A merge request of a cluster (R162-R165). -/
structure MergeJob where
  id : Nat
  cluster : Nat
  ctx : Nat
  uid : Nat
  spool : Nat
  desc : Nat
  asid : Nat
  priv : Bool
  fent : Nat
  seq : Nat
  running : Bool
deriving DecidableEq, Repr

/-- A copy (R156-R161). -/
structure Copy where
  id : Nat
  cluster : Nat
  ctx : Nat
  uid : Nat
  tag : Nat
  src : Nat
  dst : Nat
  asid : Nat
  priv : Bool
  fent : Nat
  /-- The bank formats captured at issue (R130): physical bank starts with their BFMT, where not the reset value. -/
  banks : Tab Word
  /-- The engine of the cluster it runs on. -/
  engine : Option Nat
  next : Nat
  /-- Its place in issue order. -/
  seq : Nat
deriving DecidableEq, Repr

/-- The state of a copy tag (R157). -/
structure TagWord where
  cause : Nat
  out : Nat
  err : Bool
  prog : Nat
deriving DecidableEq, Repr

/-- What a replay entry re-does (R270, R272). -/
inductive Redo where
  /-- An operation with the operands it captured and the bundle-time it issued at. -/
  | op (i : Instr) (log : List Supply) (bt : Nat)
  /-- A push that failed at its landing, with the flags of its operation that wait with it (R40, R118, R148). -/
  | push (eff : Effect) (flags : Nat)
  /-- An array instruction, which resumes at its element. -/
  | array (op : ArrOp)
  /-- A retrieval request. -/
  | probe (req : ProbeReq)
deriving DecidableEq, Repr

/-- A replay entry (R270), or a post-issue fault waiting for its trap point (R266). -/
structure Replay where
  seq : Nat
  slot : Nat
  sword : Nat
  cause : Nat
  info : Word
  phys : Bool
  prog : Nat
  /-- The bundle-time its result was due at; 0 for an engine request. -/
  due : Nat
  redo : Redo
deriving DecidableEq, Repr

/-- Where a strand stands beside its registers. -/
structure Pos where
  pc : Nat
  line : Line
  susp : List Susp
  loops : List Level
  /-- Return stack, innermost first. -/
  rets : List Nat
  /-- A LOOPS loop has drained here: the next bundle stands at a quiescent point (R65). -/
  loopQuiet : Bool
  /-- A LOOP back edge led here (R65). -/
  backEdge : Bool
  /-- The next number in issue order. -/
  seq : Nat
deriving DecidableEq, Repr

/-- A strand and all that belongs to it (R31, R67, R79, R142, R191). -/
structure Strand where
  ident : Ident
  pos : Pos
  xs : Vector Word 56
  ps : BitVec 96
  bs : Vector CodeAddr 8
  shadowX : Vector Word 8
  shadowP : BitVec 8
  sys : SysRegs
  hfam : Vector Nat 8
  spools : Vector (Option Spool) 16
  tags : Vector TagWord 16
  far : List FarOp
  bad : List BadDest
  reports : List Report
  /-- Post-issue faults waiting for their trap point. -/
  faults : List Replay
  /-- The entries of the frame in force, whose operands the core holds (R270). -/
  replay : List Replay
  /-- Trap mode and the virtual address of its frame (R270). -/
  trapFrame : Option Nat
  frozen : Option Wait
  /-- Frozen for good by a double fault or as hung (R271, R276). -/
  dead : Bool
  halted : Bool
  haltPending : Bool
  walked : List Walked
  waits : WaitState
  /-- A task's visible side effect (R46). -/
  sideEffect : Bool
  arr : Arr
  /-- Reads that the bundle at hand waits for, by virtual address, and whether the data have returned. -/
  asked : List (Nat × Bool)
  /-- A SYSC or BRK issued, to be taken at the next boundary (R266). -/
  call : Option Raise
  /-- Quantum run (R47), waiting residue 0-63 (R276), and decrements past zero. -/
  ran : Nat
  residue : Nat
  overrun : Nat
  /-- It is to leave its core: 1 budget, 2 pre-emption, 3 time slice or YIELD, 4 evacuation (R277), 5 returned unexecuted by LVS
  (R261). -/
  leaving : Option Nat
  /-- It has just come back to the core: a YIELD at hand issues without yielding again (R450). -/
  resumed : Bool
  /-- Spool records as a debugger has edited them, until the strand runs on (R281). -/
  drafts : Tab Nat
  /-- STEP has resumed it: its next halt waits for a bundle to issue (R281). -/
  stepping : Bool
  /-- FENT rotation due at the next boundary (R286). -/
  rotate : Bool
  /-- The save-pool block taken for its image (R277). -/
  block : Nat
  /-- It has stopped issuing at the quiescent point of its switch, and its drain span runs (R277). -/
  draining : Bool
deriving DecidableEq, Repr

/-- The states of a context (R32). -/
inductive CtxState where
  | free | loading | ready | issuing | saving
deriving DecidableEq, Repr

/-- One strand context of a core (R32, R74, R271). -/
structure Context where
  part : Word
  trapX : Vector Word 8
  trapP : BitVec 8
  /-- The admission whose bytes stand in the partition (R470). -/
  lastLaunch : Option Nat
  state : CtxState
  strand : Option Strand
deriving DecidableEq, Repr

/-- The core-scope state of a core (R79, R116, R127). -/
structure Core where
  tvec : Word
  bfmt : Vector Word 16
  asat : Word
  anan : Word
  cecnt : Word
  uecnt : Word
  ueaddr : Word
  /-- Cycles of an ECC freeze still to run (R139). -/
  eccFreeze : Nat
  /-- Cycles of a strand switch still to run (R33), and the context it goes to. -/
  switching : Nat
  mhz : Nat
  /-- Task packets in arrival order (R44). -/
  inbox : List Nat
  /-- The retrieval requests of its probe engine, oldest first (R213). -/
  probes : List ProbeReq
deriving DecidableEq, Repr

/-! ### Memory system -/

/-- A TLB entry (R135): the TLB it stands in (cores by number, clusters from 1024), its address space, page and frame. -/
structure TlbEntry where
  owner : Nat
  asid : Nat
  page : Nat
  /-- log2 of the page size. -/
  bits : Nat
  frame : Nat
  perms : Nat
deriving DecidableEq, Repr

/-- A page walk in flight (R135). -/
structure Walk where
  id : Nat
  /-- The die whose walker runs it. -/
  die : Nat
  /-- The context keys of the strands that wait for it, and the engine events that do, with the TLB, by owner, of each. -/
  waiters : List Nat
  agents : List (Nat × Instr)
  asid : Nat
  va : Nat
  /-- A TLBI forbade it to make an entry (R424). -/
  noFill : Bool
deriving DecidableEq, Repr

/-- MODEL: the engine event at hand, the translations that it lacks, as (TLB owner, address space, address), and the results of walks that
engine events have waited for, with the owner (R135, log 8). -/
structure EngineTurn where
  event : Option Instr
  misses : List (Nat × Nat × Nat)
  walked : List (Instr × Nat × Walked)
deriving DecidableEq, Repr

/-! ### The levee (R236-R263) -/

/-- A column word (R245). -/
structure Column where
  height : Nat
  comp : Nat
  fired : Nat
  full : Bool
deriving DecidableEq, Repr

/-- A fired point that is not complete: its coordinates, how many strands carry it, whether each has executed TRIG or DONE,
and its task region. -/
structure InFlight where
  x : Nat
  y : Nat
  z : Nat
  order : Nat
  trig : Bool
  retired : Bool
  /-- LVS returns it unexecuted (R261). -/
  returning : Bool
  tasks : Bool
deriving DecidableEq, Repr

/-- The states of a launch slot (R240). -/
inductive SlotState where
  | free | waiting | running | saved
deriving DecidableEq, Repr

/-- A launch slot. -/
structure LaunchSlot where
  state : SlotState
  record : Nat
  /-- Number of the admission (R470) and its place in the order of admission (R249). -/
  launch : Nat
  columns : Tab Column
  flying : List InFlight
  /-- The launches that the two predecessor tags are bound to (R244). -/
  pred0 : List Nat
  pred1 : List Nat
  /-- Points that have executed TRIG or DONE, and points fired. -/
  signalled : Nat
  firedTotal : Nat
  /-- LVS is under way for it (R261). -/
  saving : Bool
  predw : Bool
  /-- The moment of its last firing; 0 before (R48). -/
  lastFired : Nat
deriving DecidableEq, Repr

/-- A task region (R45, R257). -/
structure Region where
  id : Nat
  slot : Nat
  launch : Nat
  x : Nat
  y : Nat
  z : Nat
  returned : Nat
deriving DecidableEq, Repr

/-- A task packet with what its region's root gives the task (R257). It stays here while its task runs, under the number of
that strand in `ident.uid`, which is 0 until then. -/
structure Packet where
  id : Nat
  addr : Nat
  arg0 : Word
  arg1 : Word
  entry : Nat
  weight : Nat
  region : Nat
  core : Nat
  /-- The future it is parked on (R46). -/
  parkedOn : Option Nat
  arrived : Bool
  ident : Ident
  launchWord : Word
  arg : Word
deriving DecidableEq, Repr

/-- A strand waiting on an empty future (R46): its context key, number and the cell, and how many time lines of it stand
suspended below the one that waits. -/
structure Waiter where
  ctx : Nat
  uid : Nat
  cell : Nat
  depth : Nat
deriving DecidableEq, Repr

/-- A skein bound for a point (R38-R40, R252). -/
structure Skein where
  id : Nat
  slot : Nat
  launch : Nat
  x : Nat
  y : Nat
  z : Nat
  /-- Context key of each member, and which have executed DONE. -/
  members : List Nat
  done : List Nat
  /-- Members that have executed TRIG (R426). -/
  trigs : List Nat
  pipes : List (Nat × List Word)
deriving DecidableEq, Repr

/-- A polder (R255, R256): level, number and domain; arrivals, phase and the fixed member count. -/
structure Polder where
  level : Nat
  pid : Nat
  domain : Nat
  count : Nat
  phase : Nat
  members : Nat
deriving DecidableEq, Repr

/-- A work queue's tail (R237), the writes that moved it as (tail, order of arrival), and its share of the round (R239). -/
structure Queue where
  tail : Nat
  writes : List (Nat × Nat)
  /-- Records of each priority level served in that level's round (R239). -/
  served : Vector Nat 8
deriving DecidableEq, Repr

/-- A saved strand (R279): its context key and image block, and what the image has no place for: what the levee knows of it, the
operands that its replay entries captured, the captures of its copies, and whether the fault that the image records names a physical
address. -/
structure Saved where
  ctx : Nat
  block : Nat
  strand : Strand
  copies : List Copy
  phys : Bool
  /-- The moment at which it left its core (R48). -/
  stamp : Nat
deriving DecidableEq, Repr

/-- A frontier as a save image holds it: the launch record, STATUS, PREDW, and the column words and in-flight entries (R262, R263). -/
structure Frontier where
  record : Nat
  status : Nat
  predw : Bool
  cols : List Nat
  entries : List Nat
deriving DecidableEq, Repr

/-! ### Package units (R178, R265, R282-R304) -/

/-- A multicast forming or delivering (R178). -/
structure Cast where
  id : Nat
  cluster : Nat
  shape : Word
  /-- Physical start of the stationary. -/
  src : Nat
  fmt : Nat
  arrived : List Nat
  /-- Cell rows the network has read, packed, with their poison, and rows each member has taken. -/
  rows : List (Nat × Option Nat)
  taken : Tab Nat
deriving DecidableEq, Repr

/-- A collective (R290-R292). -/
structure Collective where
  id : Nat
  ctx : Nat
  uid : Nat
  desc : Nat
  mask : Nat
  asid : Nat
  priv : Bool
  fent : Nat
  running : Bool
  /-- Its place in issue order. -/
  seq : Nat
deriving DecidableEq, Repr

/-- An event ring of a die (R265, R283). -/
structure EventRing where
  word0 : Word
  head : Nat
  tail : Nat
  seq : Nat
  /-- Records waiting for room. -/
  waiting : List Nat
deriving DecidableEq, Repr

/-- A die's save pool (R277, R283). -/
structure SavePool where
  word0 : Word
  blocks : List Nat
  head : Nat
  tail : Nat
deriving DecidableEq, Repr

/-- The host-side registers with storage of their own (R283). -/
structure HostRegs where
  en : Bool
  dbgen : Bool
  fabid : Word
  qtab : Word
  astab : Word
  sltab : Word
  tslice : Word
  fgrp : Vector Word 16
  inwin : Vector (Word × Word) 16
  ptpcfg : Word
  stcfg : Word
  rings : Vector EventRing 8
  pools : Vector SavePool 8
  dbgsel : Word
  dbgaddr : Word
  refused : Bool
  /-- EVAC: GO, ABORT and RECV as last written, state 0-7, target, cause (R299). -/
  evacCtl : Nat
  evacState : Nat
  evacTarget : Nat
  evacCause : Nat
  /-- ABORT was written: the drain returns to IDLE (R301). -/
  evacAbort : Bool
  /-- The package admitted in RECEIVE, and the identifier adopted (R300, R302). -/
  evacSource : Option Nat
  adopted : Option Nat
  unlatch : Bool
  /-- Interrupts sent on the MSI-X vectors 0-8 (R282). -/
  msix : Vector Nat 9
deriving DecidableEq, Repr

/-- The timebase (R293). -/
structure TimeBase where
  now : Word
  locked : Bool
  ever : Bool
  hold : Bool
  /-- Sync messages in a row within 40 ns. -/
  run : Nat
deriving DecidableEq, Repr

/-- The Fozor controller (R296). -/
structure Fozor where
  measures : Vector (List Byte) 8
  /-- 0: in reset, not yet booted; 1 booted; 2 failed. -/
  boot : Nat
  minVersion : Nat
  /-- The failure code of a failed boot, read over the management bus; 0 otherwise. -/
  failure : Nat
deriving DecidableEq, Repr

/-- The bundle at issue: what its operations read of it and leave in it. -/
structure Issue where
  pc : Nat
  next : Nat
  idle : Nat
  q : Bool
  /-- The BTREE leaf taken, 0 with no BTREE. -/
  leaf : Nat
  slot : Nat
  /-- The 56 bits of the slot at issue. -/
  sword : Nat
  /-- The control transfer that the C slot asked for. -/
  target : Option Nat
  /-- The operation has itself fixed where the strand stands (DONE, RFT, URET, a squash). -/
  final : Bool
  /-- 0 live, 1 capture, 2 replay, 3 a scan for freezes (R471); operands captured or still to supply; the bundle-time that latencies count from. -/
  mode : Nat
  log : List Supply
  /-- The bundle-time that a captured result is due at. -/
  due : Nat
  issueBt : Nat
  /-- The issue order number given to what this bundle sends out. -/
  seq : Nat
  /-- In a scan: an operand of the operation at hand has failed, and of all that has failed in it the fault that goes first, with its
  place in the order of R267. -/
  taint : Bool
  first : Option (Nat × Raise)
  /-- The strand has made a visible side effect in an earlier bundle (R46). -/
  hadEffect : Bool
deriving DecidableEq, Repr

/-- The whole package. -/
structure State where
  /-- Memory by 57-bit physical address (R119), in canonical form; supervisor register spaces above bit 57 (R17). -/
  mem : List Host.Cell
  /-- First addresses of poisoned ECC words (R140). -/
  poison : List Nat
  tlb : List TlbEntry
  walks : List Walk
  cores : Tab Core
  ctxs : Tab Context
  slots : Tab LaunchSlot
  /-- The strands whose LVS or LVR the levee has received and not yet applied, with the slot, in order (R402). -/
  leveeOps : List (Nat × Nat)
  /-- The launches that LVS has saved, with the frontier that each image holds (R470). -/
  saves : List (Nat × Frontier)
  queues : Tab Queue
  regions : List Region
  packets : List Packet
  waiters : List Waiter
  skeins : List Skein
  polders : List Polder
  copies : List Copy
  merges : List MergeJob
  casts : List Cast
  collectives : List Collective
  saved : List Saved
  host : HostRegs
  time : TimeBase
  fozor : Fozor
  /-- The package has its supply and clocks (R301, R304). -/
  powered : Bool
  /-- Stations whose link is down (R285). -/
  stationsDown : List Nat
  /-- What the device last answered to an outside read: bytes and the poison indication. -/
  reply : List Byte × Bool
  /-- MODEL: events that reach the package from outside: the step each is due at, and the event, oldest first (log 4). -/
  agenda : List (Nat × Instr)
  /-- MODEL: the context key that steps next (log 4). -/
  focus : Nat
  /-- MODEL: the next unused number, the number of steps taken, and the order of queue writes (log 4). -/
  fresh : Nat
  ticks : Nat
  /-- MODEL: the bundle at issue (log 4). -/
  issue : Issue
  turn : EngineTurn
deriving DecidableEq, Repr

/-! ### The values at reset -/

/-- The array as a strand begins (R191). -/
def Arr.init : Arr :=
  { progs := Vector.replicate 4 0, sel := 0, statC := false, skewRow := true, am := 0, ta := 0, bm := 0, tb := 0,
    active := none, shadow := none, pending := false, c0 := [], c1 := [], events := [], tag := 0, ops := [], writes := [],
    fLoad := none, fStream := none, fDrain := none, tbuf := [] }

/-- The strand-scope system registers at their Reset values (R35, R75, R81, R102, R114, R258, R273, R276, R286). -/
def SysRegs.init : SysRegs :=
  { priv := false, uie := false, uih := false, vview := 0, frm := 0, fflags := 0, budget := 0, uvec := 0, umask := 0,
    polder := 0, launch := 0, weight := 0, trigscope := 5, fent := 0, tcause := 0, tinfo := 0,
    tviews := Vector.replicate 16 0, aviews := Vector.replicate 8 0 }

/-- No work. -/
def Ident.init : Ident :=
  { uid := 0, work := .none, launch := none, asid := 0, prio := 0, image := 0, codeLen := 0, callDepth := 0, spoolMask := 0,
    cscope := 5, skein := none, region := none, weight := 0 }

/-- A strand with the state of R35, before the levee's own values are put in. -/
def Strand.init : Strand :=
  { ident := Ident.init
    pos := { pc := 0, line := ⟨0, 0, []⟩, susp := [], loops := [], rets := [], loopQuiet := false, backEdge := false, seq := 0 }
    xs := Vector.replicate 56 0, ps := 0, bs := Vector.replicate 8 0, shadowX := Vector.replicate 8 0, shadowP := 0
    sys := SysRegs.init, hfam := Vector.replicate 8 0, spools := Vector.replicate 16 none
    tags := Vector.replicate 16 ⟨0, 0, false, 0⟩, far := [], bad := [], reports := [], faults := [], replay := []
    trapFrame := none, frozen := none, dead := false, halted := false, haltPending := false, walked := []
    waits := WaitState.none, sideEffect := false, arr := Arr.init, asked := [], call := none, ran := 0, residue := 0
    overrun := 0, leaving := none, resumed := false, drafts := [], stepping := false, rotate := false, block := 0, draining := false }

/-- PART of a context at reset (R74); a supervisor core's reads BASE 0, SIZE 16 (R17). -/
def Context.resetPart (key : Nat) : Word :=
  if 1024 ≤ key then 16 * 2 ^ 16 else 64 * 2 ^ 16 + (if key % 2 == 0 then 0 else 64)

/-- A context that holds no strand, with its reset PART. -/
def Context.init (key : Nat) : Context :=
  { part := Context.resetPart key, trapX := Vector.replicate 8 0, trapP := 0, lastLaunch := none, state := .free
    strand := none }

/-- A core after reset (R74, R116, R127, R128, R269, R304). -/
def Core.init : Core :=
  { tvec := 0, bfmt := Vector.replicate 16 4, asat := 0, anan := 0, cecnt := 0, uecnt := 0, ueaddr := BitVec.allOnes 64
    eccFreeze := 0, switching := 0, mhz := 1400, inbox := [], probes := [] }

/-- A free launch slot. -/
def LaunchSlot.init : LaunchSlot :=
  { state := .free, record := 0, launch := 0, columns := [], flying := [], pred0 := [], pred1 := [], signalled := 0
    firedTotal := 0, saving := false, predw := false, lastFired := 0 }

/-- The host-side registers after reset (R281, R283). -/
def HostRegs.init : HostRegs :=
  { en := false, dbgen := false, fabid := 0, qtab := 0, astab := 0, sltab := 0, tslice := 1048576
    fgrp := Vector.replicate 16 0, inwin := Vector.replicate 16 (0, 0), ptpcfg := 0, stcfg := 0
    rings := Vector.replicate 8 ⟨0, 0, 0, 0, []⟩, pools := Vector.replicate 8 ⟨0, [], 0, 0⟩, dbgsel := 0, dbgaddr := 0
    refused := false, evacCtl := 0, evacState := 0, evacTarget := 0, evacCause := 0, evacAbort := false, evacSource := none
    adopted := none, unlatch := false, msix := Vector.replicate 9 0 }

/-- No bundle at issue. -/
def Issue.init : Issue :=
  { pc := 0, next := 0, idle := 0, q := false, leaf := 0, slot := 0, sword := 0, target := none, final := false, mode := 0, log := []
    due := 0, issueBt := 0, seq := 0, taint := false, first := none, hadEffect := false }

/-- The package right after power-on reset: nothing bound, nothing admitted, memory listing nothing (log 2, log 3), Fozor not
yet run (POWER_ON_BOOT runs it). -/
def State.reset : State :=
  { mem := [], poison := [], tlb := [], walks := [], cores := [], ctxs := [], slots := [], leveeOps := [], saves := [], queues := [], regions := []
    packets := [], waiters := [], skeins := [], polders := [], copies := [], merges := [], casts := [], collectives := []
    saved := [], host := HostRegs.init, time := ⟨0, false, false, false, 0⟩
    fozor := ⟨Vector.replicate 8 (List.replicate 64 0), 0, 0, 0⟩, powered := true, stationsDown := [], reply := ([], false)
    agenda := [], focus := 0, fresh := 1, ticks := 0, issue := Issue.init, turn := ⟨none, [], []⟩ }

end Sys2Proof.Machine
end

