-- ==== Sys2Proof/Machine/Memory.lean ====
section
/-!
DEFINITION. Sparse tables and the byte memory: the canonical form, reading and writing, the physical map with its spaces
(R119-R124, R138), the counter and RAS blocks (R116, R127) and poison (R139-R141).
-/
namespace Sys2Proof.Machine

open Sys2Proof

/-! ### Sparse tables -/

/-- The entry at a key. -/
def tabGet {α : Type} : Tab α → Nat → Option α
  | [], _ => none
  | (k, v) :: t, n => if n == k then some v else tabGet t n

/-- Puts an entry at its place in rising key order. -/
def tabSet {α : Type} : Tab α → Nat → α → Tab α
  | [], n, a => [(n, a)]
  | (k, v) :: t, n, a => if n < k then (n, a) :: (k, v) :: t else if n == k then (n, a) :: t else (k, v) :: tabSet t n a

/-- Drops the entry at a key. -/
def tabDel {α : Type} (t : Tab α) (n : Nat) : Tab α := t.filter fun e => e.1 != n

/-! ### The byte memory -/

/-- What an address that memory does not list reads as (log 2). -/
def blankByte : Byte := 0

/-- The byte at an address. -/
def memGet : List Host.Cell → Nat → Byte
  | [], _ => blankByte
  | (k, v) :: m, a => if a == k then v else memGet m a

/-- Writes one byte, keeping the canonical form. -/
def memSet : List Host.Cell → Nat → Byte → List Host.Cell
  | [], a, b => if b == blankByte then [] else [(a, b)]
  | (k, v) :: m, a, b =>
    if a < k then (if b == blankByte then (k, v) :: m else (a, b) :: (k, v) :: m)
    else if a == k then (if b == blankByte then m else (a, b) :: m)
    else (k, v) :: memSet m a b

/-- The canonical form: addresses rise strictly and no entry equals a blank byte. -/
def Memory.wf : List Host.Cell → Bool
  | [] => true
  | (k, v) :: m => v != blankByte && m.all (fun c => k < c.1) && Memory.wf m

/-- The `n` bytes from an address. -/
def memBytes (m : List Host.Cell) (a : Nat) : Nat → List Byte
  | 0 => []
  | n + 1 => memGet m a :: memBytes m (a + 1) n

/-- Writes bytes from an address upward. -/
def memPut (m : List Host.Cell) (a : Nat) : List Byte → List Host.Cell
  | [] => m
  | b :: bs => memPut (memSet m a b) (a + 1) bs

/-- Zeroes the bytes of a range. -/
def memClear (m : List Host.Cell) (a n : Nat) : List Host.Cell := m.filter fun c => c.1 < a || a + n ≤ c.1

/-- Copies a range of `n` bytes to another place: blank where the source is. -/
def memMove (m : List Host.Cell) (src dst n : Nat) : List Host.Cell :=
  (m.filter fun c => src ≤ c.1 && c.1 < src + n).foldl (fun acc c => memSet acc (c.1 - src + dst) c.2) (memClear m dst n)

/-! ### The physical map (R119, R124, R138) -/

/-- A space of R138. -/
inductive Space where
  | hbm | tier
  | scratch (core : Nat) | regs (core : Nat) | counter (core : Nat) | ras (core : Nat)
  | host | fabric (j : Nat) | hole
deriving DecidableEq, Repr

/-- The start of core n's window (R124). -/
def windowBase (n : Nat) : Nat := 0x010000000000 + n * 0x800000

/-- The physical start of a core's register space; of supervisor core 512 + k, above bit 57 (R17, R124). -/
def regSpaceBase (n : Nat) : Nat := if n < 512 then windowBase n + 0x400000 else 2 ^ 57 + (n - 512) * 0x10000

/-- The bytes of a core's register space (R17, R18). -/
def regSpaceSize (n : Nat) : Nat := if n < 512 then 0x80000 else 0x10000

/-- Whether the second tier is populated at an offset into its range (R123). -/
def tierPopulated (stcfg o : Nat) : Bool :=
  if bits stcfg 7 0 == 0 then o < bits stcfg 47 24 * 2 ^ 30
  else
    let p := o / 2 ^ 40
    bit (bits stcfg 23 16) p && o % 2 ^ 40 < Config.expanderGiB p * 2 ^ 30

/-- The space that a physical address lies in. -/
def spaceOf (stcfg a : Nat) : Space :=
  if a < 2 ^ 40 then .hbm
  else if a < 0x010100000000 then
    let o := (a - 2 ^ 40) % 0x800000
    let n := (a - 2 ^ 40) / 0x800000
    if o < 0x400000 then .scratch n
    else if o < 0x480000 then .regs n
    else if 0x700000 ≤ o && o < 0x700040 then .counter n
    else if 0x700040 ≤ o && o < 0x700080 then .ras n
    else .hole
  else if 0x080000000000 ≤ a && a < 0x100000000000 then
    (if tierPopulated stcfg (a - 0x080000000000) then .tier else .hole)
  else if 2 ^ 48 ≤ a && a < 2 ^ 49 then .host
  else if 2 ^ 54 ≤ a && a < 2 ^ 55 then .fabric ((a - 2 ^ 54) / 2 ^ 44)
  else if 2 ^ 57 ≤ a && a < 2 ^ 57 + 0x100000 then .regs (512 + (a - 2 ^ 57) / 0x10000)
  else .hole

/-- The space of the state's package at an address. -/
def State.space (s : State) (a : Nat) : Space := spaceOf s.host.stcfg.toNat a

/-- The accelerator identifier of the package (R283). -/
def State.packageId (s : State) : Nat := bits s.host.fabid.toNat 9 0

/-- An identifier that the package answers to: its own, and the one that it adopted at an evacuation (R302). -/
def State.isOwn (s : State) (j : Nat) : Bool := j == s.packageId || s.host.adopted == some j

/-- The package takes part in the fabric (R284). -/
def State.inFabric (s : State) : Bool := bit s.host.fabid.toNat 15 && s.host.en

/-- A core. -/
def State.core (s : State) (n : Nat) : Core := (tabGet s.cores n).getD Core.init

/-- Changes a core. -/
def State.setCore (s : State) (n : Nat) (c : Core) : State := { s with cores := tabSet s.cores n c }

/-- The 64-byte counter block of R116. -/
def counterBlock (c : Core) : List Byte := leBytes 8 c.anan.toNat ++ leBytes 8 c.asat.toNat ++ List.replicate 48 0

/-- The 64-byte RAS block of R127. -/
def rasBlock (c : Core) : List Byte :=
  leBytes 8 c.cecnt.toNat ++ leBytes 8 c.uecnt.toNat ++ leBytes 8 c.ueaddr.toNat ++ List.replicate 40 0

/-- A write of 8 bytes at offset o of the counter block; reserved words stay zero (R116). -/
def writeCounter (c : Core) (o : Nat) (v : Word) : Core :=
  if o == 0 then { c with anan := v } else if o == 8 then { c with asat := v } else c

/-- A write of 8 bytes at offset o of the RAS block; UEADDR is read-only (R127). -/
def writeRas (c : Core) (o : Nat) (v : Word) : Core :=
  if o == 0 then { c with cecnt := v } else if o == 8 then { c with uecnt := v } else c

/-- Reads bytes that lie within one space. -/
def State.readPhys (s : State) (a n : Nat) : List Byte :=
  match s.space a with
  | .counter k => ((counterBlock (s.core k)).drop (a % 64)).take n
  | .ras k => ((rasBlock (s.core k)).drop (a % 64)).take n
  | _ => memBytes s.mem a n

/-- Reads bytes as a little-endian number. -/
def State.readNat (s : State) (a n : Nat) : Nat := leNat (s.readPhys a n)

/-! ### Poison (R139-R141) -/

/-- Bytes of the ECC word at an address: 8 on-chip, 64 in HBM and the second tier, 0 where there is none. -/
def State.eccUnit (s : State) (a : Nat) : Nat :=
  match s.space a with
  | .scratch _ | .regs _ => 8
  | .hbm | .tier => 64
  | _ => 0

/-- The first poisoned word that the bytes touch. -/
def State.poisoned (s : State) (a n : Nat) : Option Nat :=
  s.poison.find? fun w => w < a + n && a < w + s.eccUnit w

/-- A write would cover only part of a poisoned word (R141). -/
def State.partialPoison (s : State) (a n : Nat) : Option Nat :=
  s.poison.find? fun w => w < a + n && a < w + s.eccUnit w && !(a ≤ w && w + s.eccUnit w ≤ a + n)

/-- Installs bytes that lie within one space and clears the poison of the words they cover whole (R141). -/
def State.writePhys (s : State) (a : Nat) (data : List Byte) : State :=
  match s.space a with
  | .counter k => s.setCore k (writeCounter (s.core k) (a % 64) (BitVec.ofNat 64 (leNat data)))
  | .ras k => s.setCore k (writeRas (s.core k) ((a - 64) % 64) (BitVec.ofNat 64 (leNat data)))
  | _ =>
    { s with mem := memPut s.mem a data,
             poison := s.poison.filter fun w => !(a ≤ w && w + s.eccUnit w ≤ a + data.length) }

/-- Reads a number of `n` bytes over physical pieces, in order. -/
def State.readPieces (s : State) (ps : List (Nat × Nat)) : List Byte := ps.flatMap fun p => s.readPhys p.1 p.2

/-- Writes bytes over physical pieces, in order. -/
def State.writePieces (s : State) : List (Nat × Nat) → List Byte → State
  | [], _ => s
  | (a, n) :: ps, data => (s.writePhys a (data.take n)).writePieces ps (data.drop n)

/-- Saturating count of a 64-bit counter (R116, R127). -/
def countUp (v : Word) (n : Nat) : Word := BitVec.ofNat 64 (min (v.toNat + n) (2 ^ 64 - 1))

end Sys2Proof.Machine
end

