-- ==== Sys2Proof/Machine/Ops.lean ====
section
/-!
DEFINITION. The named operations of a strand: its registers and banks, results in flight, translation and accesses, events for
the supervisor cores, taking a trap (R269-R271) and returning from one (R272). A meaning is an `Op`: it runs over the state
and may stop before its bundle issues.
-/
namespace Sys2Proof.Machine

open Sys2Proof

/-! ### Causes (R268) -/

def cIllegal : Nat := 0x01
def cPortConflict : Nat := 0x02
def cPrivilege : Nat := 0x03
def cFetchBound : Nat := 0x04
def cFetchPage : Nat := 0x05
def cLoopStack : Nat := 0x06
def cCallDepth : Nat := 0x07
def cAlign : Nat := 0x08
def cStraddle : Nat := 0x09
def cPage : Nat := 0x0A
def cProtection : Nat := 0x0B
def cPoison : Nat := 0x0C
def cSubwordPoison : Nat := 0x0D
def cSpoolConfig : Nat := 0x0E
def cSpoolBound : Nat := 0x0F
def cView : Nat := 0x10
def cLayoutReserved : Nat := 0x11
def cLayoutRange : Nat := 0x12
def cCellProg : Nat := 0x13
def cSparseMeta : Nat := 0x14
def cArrayFormat : Nat := 0x15
def cHashConfig : Nat := 0x16
def cHashOverflow : Nat := 0x17
def cFutureRewrite : Nat := 0x18
def cFutureLate : Nat := 0x19
def cSpawnWeight : Nat := 0x1A
def cQueueBind : Nat := 0x1B
def cFabricError : Nat := 0x1C
def cAtomicAlign : Nat := 0x1D
def cDivideZero : Nat := 0x1E
def cBreakpoint : Nat := 0x1F
def cSyscall : Nat := 0x20
def cBudget : Nat := 0x21
def cLaunchInvalid : Nat := 0x22

/-- A 64-bit word of a number. -/
def w64 (n : Nat) : Word := BitVec.ofNat 64 n

/-- A fault for which no rule names a TINFO value: a free value of this step (log 9). -/
def bare (s : State) (cause : Nat) : Raise := ⟨cause, w64 (Config.noInfo s.ticks cause), false⟩

/-! ### Stopping before issue -/

/-- Why an operation does not go through. -/
inductive Stop where
  /-- An issue fault (R266). -/
  | raise (r : Raise)
  /-- A fault in the answer of an access that is made only once every other operation of the bundle has passed its checks (R376). -/
  | answer (r : Raise)
  /-- A post-issue fault of a pop of a spool: the operation becomes a replay entry (R146, R266). -/
  | post (r : Raise) (spool : Nat)
  /-- The core freezes before the bundle issues (R61, R227). -/
  | freeze (w : Wait)
  /-- The core freezes, and what the operation registers meanwhile stands: an arrival, a waiter, a walk. -/
  | hold (w : Wait) (register : State → State)
  /-- A scan for freezes (R471) goes no further in the operation, and what it has noted. -/
  | over (i : Issue)

/-- An operation: the new state, or why it stops. -/
abbrev Op := StateT State (Except Stop)

/-- The place of a cause among the issue faults of one operation (R267); ILLEGAL_ENCODING stands for that of R274 and R429. DESIGN CHOICE
(log 28): SPOOL_BOUND, which R267 does not list, goes with SPOOL_CONFIG. -/
def faultRank (cause : Nat) : Nat :=
  let order := [[cPrivilege, cIllegal], [cQueueBind], [cSpoolConfig, cSpoolBound], [cView], [], [cLoopStack], [cFetchBound, cFetchPage],
    [cCallDepth], [cCellProg], [cArrayFormat], [cLayoutReserved], [cLayoutRange], [cHashConfig], [cSpawnWeight], [cLaunchInvalid],
    [cDivideZero], [cAlign, cAtomicAlign], [cPage], [cProtection], [cStraddle], [cPoison], [cSubwordPoison], [cFabricError],
    [cFutureRewrite, cFutureLate]]
  (order.findIdx? fun l => l.contains cause).getD order.length

/-- The places of a poisoned-pending or error-pending operand, and of the end-header faults of a loop (R267). -/
def pendingRank : Nat := 4
def endHeaderRank : Nat := 6

/-- A scan notes a fault with its place in the order of R267; once an operand has failed, only one that no value decides (`early`). -/
def Issue.note (i : Issue) (early : Bool) (rank : Nat) (r : Raise) : Issue :=
  if (early || !i.taint) && i.first.all (fun f => rank < f.1) then { i with first := some (rank, r) } else i

/-- Stops with an issue fault of this place in the order; a scan notes it and goes no further. -/
def failAt {α : Type} (early : Bool) (rank : Nat) (r : Raise) : Op α := fun s =>
  .error (if s.issue.mode == 3 then .over (s.issue.note early rank r) else .raise r)

/-- The fault of a cause, with the TINFO value that a rule names, or none. -/
def raiseOf (s : State) (cause : Nat) (info : Option Nat) : Raise := info.elim (bare s cause) fun n => ⟨cause, w64 n, false⟩

/-- Stops with an issue fault. -/
def raiseNow {α : Type} (r : Raise) : Op α := failAt false (faultRank r.cause) r

/-- Stops with an issue fault, with the TINFO value a rule names or none. -/
def fail {α : Type} (cause : Nat) (info : Option Nat := none) : Op α := fun s => raiseNow (raiseOf s cause info) s

/-- Stops with an issue fault that no value read decides. -/
def failForm {α : Type} (cause : Nat) (info : Option Nat := none) : Op α := fun s =>
  failAt true (faultRank cause) (raiseOf s cause info) s

/-- An issue fault that a scan notes and passes over. -/
def report (early : Bool) (rank : Nat) (r : Raise) : Op Unit := fun s =>
  if s.issue.mode == 3 then .ok ((), { s with issue := s.issue.note early rank r }) else .error (.raise r)

/-- A reading that has failed gives a scan a value that nothing may be decided from. -/
def scanned {α : Type} (dflt : α) (op : Op α) : Op α := fun s =>
  match op s with
  | .error (.over i) => .ok (dflt, { s with issue := { i with taint := true } })
  | .error (.post r n) =>
    if s.issue.mode == 3 then .ok (dflt, { s with issue := { s.issue with taint := true } }) else .error (.post r n)
  | out => out

/-- Stops with an issue fault unless the condition holds. -/
def check (c : Bool) (cause : Nat) (info : Option Nat := none) : Op Unit := fun s =>
  if c then .ok ((), s) else report false (faultRank cause) (raiseOf s cause info) s

/-- Stops with a fault in an answer that is read only once all other operations have passed their checks (R376). -/
def failAnswer {α : Type} (r : Raise) : Op α := fun s => .error (if s.issue.mode == 3 then .over s.issue else .answer r)

/-- A wait that begins only once every operation of the bundle has passed its checks (R353, R376, R400). -/
def waitLast {α : Type} (w : Wait) (register : State → State) : Op α := fun s =>
  .error (if s.issue.mode == 3 then .over s.issue else .hold w register)

/-- Whether an operation is only capturing its operands: what its data decide is left to its replay (R270). -/
def capturing : Op Bool := fun s => .ok (s.issue.mode == 1, s)

/-- Runs what follows once the operands of an operation stand; a capture stops short of it. -/
def onceRead (body : Op Unit) : Op Unit := do
  if ← capturing then pure () else body

/-- A check that no value read decides. -/
def formCheck (c : Bool) (cause : Nat) (info : Option Nat := none) : Op Unit := fun s =>
  if c then .ok ((), s) else report true (faultRank cause) (raiseOf s cause info) s

/-- A scan stands behind an operand that has failed. -/
def scanTainted (s : State) : Bool := s.issue.mode == 3 && s.issue.taint

/-- Freezes the core before issue while the condition holds. -/
def waitWhile (c : Bool) (w : Wait) : Op Unit := if c then throw (.freeze w) else pure ()

/-- Freezes the core before issue while a condition holds that operands decide. -/
def waitValue (c : Bool) (w : Wait) : Op Unit := fun s =>
  if !c || scanTainted s then .ok ((), s) else .error (.freeze w)

/-! ### The focus strand -/

/-- A context by its key 2 * core + context. -/
def State.ctx (s : State) (key : Nat) : Context := (tabGet s.ctxs key).getD (Context.init key)

/-- Changes a context. -/
def State.setCtx (s : State) (key : Nat) (c : Context) : State := { s with ctxs := tabSet s.ctxs key c }

/-- The strand of a context. -/
def State.strandAt (s : State) (key : Nat) : Option Strand := (s.ctx key).strand

/-- Puts a strand into a context. -/
def State.setStrandAt (s : State) (key : Nat) (st : Strand) : State :=
  s.setCtx key { s.ctx key with strand := some st }

/-- The strand in focus. -/
def State.strand (s : State) : Strand := (s.strandAt s.focus).getD Strand.init

/-- Changes the strand in focus. -/
def State.setStrand (s : State) (st : Strand) : State := s.setStrandAt s.focus st

/-- The focus context holds a strand that issues (R32). -/
def State.issuing (s : State) : Bool := (s.ctx s.focus).strand.isSome && (s.ctx s.focus).state == .issuing

/-- The core of a context key. -/
def keyCore (key : Nat) : Nat := key / 2
/-- The core of the focus. -/
def State.coreNo (s : State) : Nat := keyCore s.focus
/-- A supervisor core's number is 512 or more. -/
def isSupervisor (core : Nat) : Bool := 512 ≤ core
/-- The privilege that the focus strand runs at: a supervisor core runs at supervisor privilege (R17, R81). -/
def State.priv (s : State) : Bool := s.strand.sys.priv || isSupervisor s.coreNo
/-- The cluster of a core (R16). -/
def clusterOf (core : Nat) : Nat := core / 8
/-- The die of a core (R16, R265). -/
def dieOf (core : Nat) : Nat := if core < 512 then core / 64 else (core - 512) / 2

/-- Reads the focus strand in an operation. -/
def getStrand : Op Strand := fun s => .ok (s.strand, s)
/-- Changes the focus strand in an operation. -/
def modStrand (f : Strand → Strand) : Op Unit := fun s => .ok ((), s.setStrand (f s.strand))

/-- A new number. -/
def freshId : Op Nat := fun s => .ok (s.fresh, { s with fresh := s.fresh + 1 })

/-- The partition of a context: its physical start and its bytes (R73, R74). -/
def partitionOf (s : State) (key : Nat) : Nat × Nat :=
  let p := (s.ctx key).part.toNat
  (regSpaceBase (keyCore key) + bits p 6 0 * 4096, bits p 23 16 * 4096)

/-- The retrieval requests of a strand, oldest first (R213). -/
def State.probesOf (s : State) (uid : Nat) : List ProbeReq := s.cores.flatMap fun c => c.2.probes.filter fun q => q.uid == uid

/-- Takes the retrieval requests of a strand out of the queues. -/
def State.dropProbes (s : State) (uid : Nat) : State :=
  { s with cores := s.cores.map fun c => (c.1, { c.2 with probes := c.2.probes.filter fun q => q.uid != uid }) }

/-! ### Banks and registers (R67, R271, R274) -/

/-- The bank that x48-x55 and p88-p95 reach. -/
def Strand.bank (st : Strand) : RegBank :=
  if st.trapFrame.isSome then .trap else if st.sys.uih then .shadow else .main

/-- Reads a scalar register of a bank. -/
def readXAt (s : State) (key : Nat) (st : Strand) (bank : RegBank) (n : Nat) : Word :=
  if n == 0 then 0
  else if n < 48 then st.xs.getD n 0
  else match bank with
    | .main => st.xs.getD n 0
    | .trap => (s.ctx key).trapX.getD (n - 48) 0
    | .shadow => st.shadowX.getD (n - 48) 0

/-- Reads a predicate of a bank; p0 is true. -/
def readPAt (s : State) (key : Nat) (st : Strand) (bank : RegBank) (n : Nat) : Bool :=
  if n == 0 then true
  else if n < 88 then st.ps.getLsbD n
  else match bank with
    | .main => st.ps.getLsbD n
    | .trap => (s.ctx key).trapP.getLsbD (n - 88)
    | .shadow => st.shadowP.getLsbD (n - 88)

/-- Sets one bit of a bit vector. -/
def setBit {w : Nat} (v : BitVec w) (n : Nat) (b : Bool) : BitVec w :=
  if b then v ||| (BitVec.ofNat w (2 ^ n)) else v &&& ~~~(BitVec.ofNat w (2 ^ n))

/-- Writes a scalar register of a bank; a write to x0 is discarded (R67). -/
def writeXAt (s : State) (key : Nat) (bank : RegBank) (n : Nat) (v : Word) : State :=
  match s.strandAt key with
  | none => s
  | some st =>
    if n == 0 then s
    else if n < 48 then s.setStrandAt key { st with xs := st.xs.setIfInBounds n v }
    else match bank with
      | .main => s.setStrandAt key { st with xs := st.xs.setIfInBounds n v }
      | .trap => s.setCtx key { s.ctx key with trapX := (s.ctx key).trapX.setIfInBounds (n - 48) v }
      | .shadow => s.setStrandAt key { st with shadowX := st.shadowX.setIfInBounds (n - 48) v }

/-- Writes a predicate of a bank; a write to p0 is discarded (R67). -/
def writePAt (s : State) (key : Nat) (bank : RegBank) (n : Nat) (v : Bool) : State :=
  match s.strandAt key with
  | none => s
  | some st =>
    if n == 0 then s
    else if n < 88 then s.setStrandAt key { st with ps := setBit st.ps n v }
    else match bank with
      | .main => s.setStrandAt key { st with ps := setBit st.ps n v }
      | .trap => s.setCtx key { s.ctx key with trapP := setBit (s.ctx key).trapP (n - 88) v }
      | .shadow => s.setStrandAt key { st with shadowP := setBit st.shadowP (n - 88) v }

/-- Whether a far destination is this scalar register. -/
def Dest.isX (d : Dest) (bank : RegBank) (n : Nat) : Bool :=
  match d with
  | .x b k _ => k == n && (n < 48 || b == bank)
  | .pair b k => (k == n || k + 1 == n) && (n < 48 || b == bank)
  | _ => false

/-- Whether a far destination is this vector register. -/
def Dest.isV (d : Dest) (addr : Nat) : Bool :=
  match d with
  | .vec _ a => a < addr + 128 && addr < a + 128
  | _ => false

/-- The destination of a far access. -/
def FarOp.dest (f : FarOp) : Dest :=
  match f.kind with
  | .load d => d
  | .amo d _ _ _ => d
  | .acas d _ _ => d
  | _ => .none

/-- A destination pending from an earlier bundle freezes; a poisoned-pending or error-pending one faults at its first use (R60, R140,
R287), and as a source it gives no value. -/
def touchAs (source : Bool) (hits : Dest → Bool) : Op Unit := do
  let s ← get
  let st := s.strand
  if st.far.any (fun f => (s.issue.mode == 2 || f.seq < s.issue.seq) && hits f.dest) then throw (.freeze .pending)
  match st.bad.find? (fun b => hits b.dest) with
  | some b => do
    report true pendingRank b.err
    modify fun s => { s with issue := { s.issue with taint := s.issue.taint || source } }
  | none => pure ()

/-- A source register is read. -/
def touch (hits : Dest → Bool) : Op Unit := touchAs true hits

/-- A destination register is to be written: a pending one freezes the core first (R60). -/
def touchDest (hits : Dest → Bool) : Op Unit := do
  let s ← get
  if s.issue.mode != 2 then touchAs false hits

/-- Later accesses and engine requests wait for the data of an acquire (R225, R227). -/
def acquireWait : Op Unit := do
  let s ← get
  waitWhile (s.issue.mode != 2 && s.strand.far.any fun f => f.acquire && f.seq < s.issue.seq) .farOrder

/-! ### Capture and replay of operands (R270) -/

/-- Reads an operand that is always readable: supplied in a replay, recorded in a capture. -/
def operand (read : Op Nat) : Op Nat := do
  let s ← get
  match s.issue.mode with
  | 2 =>
    match s.issue.log with
    | .value v :: rest => do
      set { s with issue := { s.issue with log := rest } }
      pure v
    | _ => read
  | 1 => do
    let v ← read
    modify fun s => { s with issue := { s.issue with log := s.issue.log ++ [.value v] } }
    pure v
  | 3 => scanned 0 read
  | _ => read

/-! ### Results in flight (R12, R58) -/

/-- Puts a result among those in flight, in the order of landing: by bundle-time, then in issue order (R58). -/
def insertFlight (f : Flight) : List Flight → List Flight
  | [] => [f]
  | g :: l => if f.due < g.due || (f.due == g.due && f.seq < g.seq) then f :: g :: l else g :: insertFlight f l

/-- Sends a result out to land `lat` bundle-times after issue. -/
def emit (lat : Nat) (eff : Effect) : Op Unit := fun s =>
  if s.issue.mode == 1 then .ok ((), { s with issue := { s.issue with due := s.issue.issueBt + lat } })
  else
    let st := s.strand
    let f : Flight := ⟨s.issue.issueBt + lat, s.issue.seq * 8 + s.issue.slot, s.issue.slot, eff⟩
    let line := st.pos.line
    .ok ((), s.setStrand { st with pos := { st.pos with line := { line with flights := insertFlight f line.flights } } })

/-- Reads a scalar register at issue (x0-x55). -/
def getX (n : XReg) : Op Word := do
  let v ← operand do
    let s ← get
    if n.toNat == 0 then pure 0
    else do
      touch fun d => d.isX s.strand.bank n.toNat
      pure (readXAt s s.focus s.strand s.strand.bank n.toNat).toNat
  pure (w64 v)

/-- Reads a predicate at issue. -/
def getP (n : PReg) : Op Bool := do
  let v ← operand do
    let s ← get
    pure (bit01 (readPAt s s.focus s.strand s.strand.bank n.toNat))
  pure (v == 1)

/-- Sends a scalar result (x0-x55); a pending destination freezes first (R60). -/
def putX (lat : Nat) (n : XReg) (v : Word) : Op Unit := do
  let s ← get
  if n.toNat == 0 then pure ()
  else do
    touchDest fun d => d.isX s.strand.bank n.toNat
    emit lat (.x s.strand.bank n.toNat v)

/-- Sends a predicate result. -/
def putP (lat : Nat) (n : PReg) (v : Bool) : Op Unit := do
  let s ← get
  emit lat (.p s.strand.bank n.toNat v)

/-- The rounding mode a 3-bit field gives: DYN reads FRM at issue (R101). -/
def getRound (rm : BitVec 3) : Op Round := do
  if rm.toNat == 4 then
    let v ← operand do
      let st ← getStrand
      pure (bits st.sys.frm.toNat 1 0)
    pure (Round.ofCode v)
  else pure (Round.ofCode rm.toNat)

/-! ### Event records for the supervisor cores (R265, R283) -/

/-- The 32 bytes of an event record, TIME still zero. -/
def eventRecord (info : Word) (noframe : Bool) (cause kind ctx core seq : Nat) : Nat :=
  packFields [(64, 0), (64, info.toNat), (55, 0), (1, bit01 noframe), (8, cause), (8, kind), (30, 0), (1, ctx % 2),
    (9, core % 512), (16, seq % 65536)]

/-- Appends the records that wait, as far as the ring has room, with the TIME of their writing; each sends the interrupt of the ring's vector (R282, R283). -/
def drainRing : Nat → State → Nat → State
  | 0, s, _ => s
  | n + 1, s, die =>
    let r := s.host.rings.getD die ⟨0, 0, 0, 0, []⟩
    let l2 := bits r.word0.toNat 4 0
    match r.waiting with
    | [] => s
    | rec :: rest =>
      if (r.tail + 65536 - r.head) % 65536 + 1 ≥ 2 ^ l2 then s
      else
        let a := bits r.word0.toNat 56 12 * 4096 + 32 * (r.tail % 2 ^ l2)
        let r' := { r with tail := (r.tail + 1) % 65536, waiting := rest }
        let msix := s.host.msix.setIfInBounds die (s.host.msix.getD die 0 + 1)
        drainRing n ({ s with host := { s.host with rings := s.host.rings.setIfInBounds die r', msix := msix } }.writePhys a
          (leBytes 32 (bits rec 191 0 + 2 ^ 192 * s.time.now.toNat))) die

/-- Posts an event record to a die's ring; it waits while the ring is full (R283). -/
def postEvent (s : State) (die kind cause core ctx : Nat) (info : Word) (noframe : Bool) : State :=
  let r := s.host.rings.getD die ⟨0, 0, 0, 0, []⟩
  let rec' := eventRecord info noframe cause kind ctx (core % 512) r.seq
  let r' := { r with seq := (r.seq + 1) % 65536, waiting := r.waiting ++ [rec'] }
  drainRing (r'.waiting.length) { s with host := { s.host with rings := s.host.rings.setIfInBounds die r' } } die

/-! ### Translation (R132-R135) -/

/-- What an access needs of its page (R134). -/
inductive Need where
  | r | w | rw | x
deriving DecidableEq, Repr

/-- A mapped page: log2 of its size, its frame, its permission bits [5:2]. -/
structure PageMap where
  bits : Nat
  frame : Nat
  perms : Nat
deriving DecidableEq, Repr

/-- Whether a page-table node may lie here: in HBM or the second tier (R134). -/
def nodeOk (s : State) (a size : Nat) : Bool :=
  a % size == 0 && (s.space a == .hbm || s.space a == .tier)

/-- The levels of a walk: index bits [hi:lo], node size and alignment, whether a leaf may stand here (R133). -/
def walkLevels : List (Nat × Nat × Nat × Bool) :=
  [(56, 48, 4096, false), (47, 39, 4096, false), (38, 30, 4096, true), (29, 21, 4096, true), (20, 16, 256, true)]

/-- Descends the levels from a node (R133, R134); `none` is a PAGE fault. DESIGN CHOICE (log 54): R140 names no consumer here, so an
entry in a poisoned word is read as it stands. -/
def descend (s : State) (va : Nat) : List (Nat × Nat × Nat × Bool) → Nat → Option PageMap
  | [], _ => none
  | (hi, lo, size, leafOk) :: rest, node =>
    if !nodeOk s node size then none
    else
      let e := s.readNat (node + 8 * bits va hi lo) 8
      let addr := bits e 56 8 * 256
      if !bit e 0 || bits e 63 57 != 0 || bits e 7 6 != 0 then none
      else if bit e 1 then
        if leafOk && addr % 2 ^ lo == 0 then some ⟨lo, addr, bits e 5 2⟩ else none
      else if rest.isEmpty then none
      else descend s va rest addr

/-- The walk of an address space (R132-R134). -/
def walkTables (s : State) (asid va : Nat) : Option PageMap :=
  let e := s.readNat (bits s.host.astab.toNat 56 12 * 4096 + 8 * asid) 8
  if !bit e 0 || bits e 63 57 != 0 || bits e 11 1 != 0 then none
  else descend s va walkLevels (bits e 56 12 * 4096)

/-- The permission check of R134: bits R 0, W 1, X 2, U 3 of the entry's [5:2]. -/
def permitted (need : Need) (priv : Bool) (perms : Nat) : Bool :=
  (priv || bit perms 3) &&
    match need with
    | .r => bit perms 0
    | .w => bit perms 1
    | .rw => bit perms 0 && bit perms 1
    | .x => bit perms 2

/-- The TLBs that an agent looks in, with the entries that each holds (R18, R135): a core its own of 64 and its cluster's of 2,048, the
engines of a cluster (numbered 1024 + cluster) the cluster's alone. DESIGN CHOICE (log 8): the sixteen supervisor cores, which lie in no
cluster, share two cluster TLBs 64 and 65, eight cores each. -/
def tlbsOf (owner : Nat) : List (Nat × Nat) :=
  if owner < 1024 then [(owner, 64), (1024 + clusterOf owner, 2048)] else [(owner, 2048)]

/-- A TLB entry that maps an address for an agent (R135). -/
def tlbFind (s : State) (owner asid va : Nat) : Option PageMap :=
  (s.tlb.find? fun e => (tlbsOf owner).any (fun o => o.1 == e.owner) && e.asid == asid
    && va / 2 ^ e.bits == e.page).map fun e => ⟨e.bits, e.frame, e.perms⟩

/-- Keeps at most the newest `n` entries of a TLB. -/
def tlbTrim (owner n : Nat) (l : List TlbEntry) : List TlbEntry :=
  let mine := l.filter fun e => e.owner == owner
  (mine.drop (mine.length - n)) ++ l.filter fun e => e.owner != owner

/-- Makes an entry in every TLB of an agent (R135); the oldest entry of a full TLB gives way, which the spec leaves open. DESIGN CHOICE
(log 8): that, and the cluster TLB that a supervisor core fills (`tlbsOf`). -/
def tlbFill (s : State) (owner asid va : Nat) (m : PageMap) : State :=
  { s with tlb := (tlbsOf owner).foldl (fun l o =>
      tlbTrim o.1 o.2 (l ++ [⟨o.1, asid, va / 2 ^ m.bits, m.bits, m.frame, m.perms⟩])) s.tlb }

/-- An engine, or another agent outside the pipeline, that accesses memory: the TLB it uses (a core, or 1024 + its cluster), address
space, privilege, the path entropy captured at the request (R285), and the strand it works for, by the model's number. -/
structure Agent where
  owner : Nat
  asid : Nat
  priv : Bool
  fent : Nat
  uid : Nat
deriving DecidableEq, Repr

/-- The path entropy of a strand (R286). -/
def Strand.entropy (st : Strand) : Nat := bits st.sys.fent.toNat 15 0

/-- The agent that accesses for a strand as it stands. -/
def agentFor (key : Nat) (st : Strand) : Agent :=
  ⟨keyCore key, st.ident.asid, st.sys.priv || isSupervisor (keyCore key), st.entropy, st.ident.uid⟩

/-- The physical address of a mapped virtual address. -/
def PageMap.phys (m : PageMap) (va : Nat) : Nat := m.frame + va % 2 ^ m.bits

/-- The result of a walk that the engine event at hand has waited for. -/
def engineWalked (s : State) (g : Agent) (va : Nat) : Option (Option PageMap) :=
  (s.turn.walked.find? fun e => some e.1 == s.turn.event && e.2.1 == g.owner && e.2.2.asid == g.asid && va / 2 ^ e.2.2.bits == e.2.2.page).map fun e =>
    if e.2.2.ok then some ⟨e.2.2.bits, e.2.2.frame, e.2.2.perms⟩ else none

/-- A translation that an agent lacks is noted, but for the hub units, which keep no TLB (R135). -/
def noteMiss (s : State) (g : Agent) (va : Nat) : State :=
  if 2048 ≤ g.owner then s else { s with turn := { s.turn with misses := s.turn.misses ++ [(g.owner, g.asid, va)] } }

/-- A translation by an engine: from its TLB, from a walk that its event has waited for, or else as its walk is going to find it, with
the miss noted, for which the event is put off until the walk is complete (R135, `Boundary.engineStep`). -/
def engineMap (s : State) (g : Agent) (va : Nat) : Option PageMap × State :=
  match tlbFind s g.owner g.asid va with
  | some m => (some m, s)
  | none => match engineWalked s g va with
    | some r => (r, s)
    | none => match walkTables s g.asid va with
      | some m => (some m, tlbFill (noteMiss s g va) g.owner g.asid va m)
      | none => (none, noteMiss s g va)

/-- Where a strand's walk result for this page stands: the fault or the page it waited for. -/
def walkedFor (st : Strand) (va : Nat) : Option (Option PageMap) :=
  (st.walked.find? fun w => w.asid == st.ident.asid && va / 2 ^ w.bits == w.page).map fun w =>
    if w.ok then some ⟨w.bits, w.frame, w.perms⟩ else none

/-- The page size that a walk of an address would find; 64 KiB where it finds none. -/
def walkBits (s : State) (asid va : Nat) : Nat :=
  match walkTables s asid va with
  | some m => m.bits
  | none => 16

/-- Whether a walk in flight is one for the page of an address, which a miss may join: not one that a TLBI has cut off (R135, R424). -/
def Walk.serves (s : State) (w : Walk) (asid va : Nat) : Bool :=
  let b := walkBits s w.asid w.va
  !w.noFill && w.asid == asid && w.va / 2 ^ b == va / 2 ^ b

/-- A walk of a die for an address: one in flight for the same page is joined, else one starts as soon as fewer than the 32 that the
die's walker runs at once are under way (R18, R135). -/
def addWalk (s : State) (die asid va : Nat) (join : Walk → Walk) : State :=
  let ours (w : Walk) : Bool := w.die == die
  let same (w : Walk) : Bool := ours w && w.serves s asid va
  if s.walks.any same then { s with walks := s.walks.map fun w => if same w then join w else w }
  else if 32 ≤ (s.walks.filter ours).length then s
  else { s with fresh := s.fresh + 1, walks := s.walks ++ [join ⟨s.fresh, die, [], [], asid, va, false⟩] }

/-- A strand waits for a walk. -/
def Walk.withStrand (key : Nat) (w : Walk) : Walk := if w.waiters.contains key then w else { w with waiters := w.waiters ++ [key] }

/-- An engine event waits for a walk. -/
def Walk.withEngine (owner : Nat) (e : Instr) (w : Walk) : Walk :=
  if w.agents.contains (owner, e) then w else { w with agents := w.agents ++ [(owner, e)] }

/-- Freezes the strand on a page walk; a walk that it already waits for goes on (R135, R424). -/
def startWalk (va : Nat) : Op (Option PageMap) := fun s0 =>
  if scanTainted s0 then .error (.over s0.issue)
  else .error (.hold .walk fun s =>
    let asid := s.strand.ident.asid
    if s.walks.any fun w => w.asid == asid && w.waiters.contains s.focus && w.va / 65536 == va / 65536 then s
    else addWalk s (dieOf s.coreNo) asid va (Walk.withStrand s.focus))

/-- The die of a TLB's owner. -/
def ownerDie (owner : Nat) : Nat := if owner < 1024 then dieOf owner else (owner - 1024) / 8

/-- The walks that an engine event lacks; one that it already waits for goes on. -/
def engineWalks (s : State) (e : Instr) (misses : List (Nat × Nat × Nat)) : State :=
  misses.foldl (fun s m =>
    if s.walks.any fun w => w.asid == m.2.1 && w.agents.contains (m.1, e) && w.va / 65536 == m.2.2 / 65536 then s
    else addWalk s (ownerDie m.1) m.2.1 m.2.2 (Walk.withEngine m.1 e)) s

/-- A translation by the strand itself: a miss freezes it until the walk ends (R135). `none` is a PAGE fault. -/
def strandMap (va : Nat) : Op (Option PageMap) := do
  let s ← get
  match tlbFind s s.coreNo s.strand.ident.asid va with
  | some m => pure (some m)
  | none => match walkedFor s.strand va with
    | some r => pure r
    | none => startWalk va

/-! ### Accesses (R119, R137, R138) -/

/-- The outcome of translating one page of an access. -/
def pageCause (need : Need) (priv : Bool) (m : Option PageMap) : Option Nat :=
  match m with
  | none => some cPage
  | some m => if permitted need priv m.perms then none else some cProtection

/-- The physical pieces of an access whose pages are mapped: at most two (R137). -/
def piecesOf (va n : Nat) (m1 : PageMap) (m2 : Option PageMap) : List (Nat × Nat) :=
  let room := 2 ^ m1.bits - va % 2 ^ m1.bits
  match m2 with
  | none => [(m1.phys va, n)]
  | some m2 => [(m1.phys va, room), (m2.phys (va + room), n - room)]

/-- The spaces an access touches decide PROTECTION, STRADDLE or the one space it lies in (R138). -/
def spaceCheck (s : State) (ps : List (Nat × Nat)) : Except Nat Space :=
  let sp := ps.flatMap fun p => [s.space p.1, s.space (p.1 + p.2 - 1)]
  match sp with
  | [] => .error cProtection
  | x :: _ =>
    if sp.all (· == .hole) then .error cProtection
    else if sp.all (· == x) then .ok x
    else .error cStraddle

/-- Where the bytes of a piece are served: the package's own identifier in the fabric window is its package space (R120). -/
def homePiece (s : State) (p : Nat × Nat) : Nat × Nat :=
  match s.space p.1 with
  | .fabric j => if s.isOwn j then ((p.1 - 2 ^ 54) % 2 ^ 44, p.2) else p
  | _ => p

/-- An access that touches a counter or RAS block must be one aligned 8-byte piece of an LD, ST, LDA or STL (`word`) (R127); ALIGN comes
before the faults of translation's end (R267). -/
def blockMisaligned (s : State) (word : Bool) (ps : List (Nat × Nat)) : Bool :=
  (ps.map (homePiece s)).any fun p => [p.1, p.1 + p.2 - 1].any fun a =>
    match s.space a with
    | .counter _ | .ras _ => !word || ps.length != 1 || p.2 != 8 || p.1 % 8 != 0
    | _ => false

/-- An access in its physical pieces. -/
structure Access where
  va : Nat
  pieces : List (Nat × Nat)
  space : Space
deriving DecidableEq, Repr

/-- Puts together an access from the maps of its pages, or its fault (R134, R137, R138). -/
def formAccess (s : State) (va n : Nat) (need : Need) (word priv : Bool) (m1 : Option PageMap) (second : Nat)
    (m2 : Option (Option PageMap)) : Except Raise Access :=
  let c1 := pageCause need priv m1
  let c2 := match m2 with
    | none => none
    | some m => pageCause need priv m
  let info := if c1.isSome then va else second
  let pieces := match m1, m2 with
    | some m, none => piecesOf va n m none
    | some m, some (some m') => piecesOf va n m (some m')
    | _, _ => []
  if blockMisaligned s word pieces then .error ⟨cAlign, w64 va, false⟩
  else match c1, c2 with
  | none, none =>
    match spaceCheck s pieces with
    | .error c => .error ⟨c, w64 va, false⟩
    | .ok sp => .ok ⟨va, pieces, sp⟩
  | _, _ => .error ⟨if c1 == some cPage || c2 == some cPage then cPage else cProtection, w64 info, false⟩

/-- The second page of an access of `n` bytes when the first page is this one. -/
def crossing (va n : Nat) (m1 : Option PageMap) : Option Nat :=
  match m1 with
  | none => none
  | some m =>
    let second := (va / 2 ^ m.bits + 1) * 2 ^ m.bits
    if second < va + n then some second else none

/-- An access by the strand itself; `word`: it is an LD, ST, LDA or STL (R119, R127, R134-R138). -/
def strandAccess (va n : Nat) (need : Need) (word : Bool) : Op Access := do
  if 2 ^ 57 ≤ va then fail cPage va
  let m1 ← strandMap va
  let second := crossing va n m1
  let m2 ← match second with
    | none => pure none
    | some a => if a < 2 ^ 57 then do pure (some (← strandMap a)) else pure (some none)
  let s ← get
  match formAccess s va n need word s.priv m1 (second.getD 0) m2 with
  | .ok a => pure a
  | .error r => raiseNow r

/-- An access by an engine; a counter or RAS block takes none (R127). -/
def engineAccess (s : State) (g : Agent) (va n : Nat) (need : Need) : Except Raise Access × State :=
  if 2 ^ 57 ≤ va then (.error ⟨cPage, w64 va, false⟩, s)
  else
    let (m1, s1) := engineMap s g va
    match crossing va n m1 with
    | none => (formAccess s1 va n need false g.priv m1 0 none, s1)
    | some a =>
      let (m2, s2) := if a < 2 ^ 57 then engineMap s1 g a else (none, s1)
      (formAccess s2 va n need false g.priv m1 a (some m2), s2)

/-- The one space that an access through the own identifier reaches; a hole or a crossing refuses it (R287). -/
def homeSpace (s : State) (ps : List (Nat × Nat)) : Option Space := (spaceCheck s ps).toOption

/-- The first poisoned word of an access. -/
def Access.poison (s : State) (a : Access) : Option Nat :=
  a.pieces.findSome? fun p => let q := homePiece s p; s.poisoned q.1 q.2

/-- The virtual address of an ECC word that an access touches, found from the piece that meets it (R140). -/
def Access.vaOf (a : Access) (unit pa : Nat) : Nat :=
  let rec go (off : Nat) : List (Nat × Nat) → Nat
    | [] => a.va
    | (p, n) :: rest => if p < pa + unit && pa < p + n then a.va + off + pa - p else go (off + n) rest
  go 0 a.pieces

/-- The path of a pipeline access by its space (R219). -/
def pathOfSpace (sp : Space) : Nat :=
  match sp with
  | .host => 6
  | .fabric _ => 5
  | _ => 0

/-- The station that an access takes, when any is live: from the entropy and the offset in the target's package space (R285). -/
def stationOf (s : State) (ent o : Nat) : Option Nat :=
  let h := (bits o 21 6 ^^^ bits o 37 22) ^^^ bits o 43 38
  ((List.range 96).map fun i => (ent + h + i) % 96).find? fun n => !s.stationsDown.contains n

/-- Changes a strand wherever it stands, on a core or saved, by the model's number. -/
def State.modByUid (s : State) (uid : Nat) (f : Strand → Strand) : State :=
  let own (st : Strand) : Strand := if st.ident.uid == uid then f st else st
  { s with
    ctxs := s.ctxs.map fun e => (e.1, { e.2 with strand := e.2.strand.map own })
    saved := s.saved.map fun v => { v with strand := own v.strand } }

/-- A response of package `j` to an engine; a congestion mark on it rotates the FENT of the engine's strand at that strand's next
bundle boundary (R286). -/
def engineAnswer (s : State) (g : Agent) (j : Nat) : State :=
  if g.uid != 0 && Config.foreignMark s.ticks j then s.modByUid g.uid fun st => { st with rotate := true } else s

/-- An engine's read: its bytes or its fault, poison included (R140). -/
def engineRead (s : State) (g : Agent) (va n : Nat) : Except Raise (List Byte) × State :=
  match engineAccess s g va n .r with
  | (.error r, s') => (.error r, s')
  | (.ok a, s') =>
    match a.space with
    | .fabric j =>
      let off := (a.pieces.headD (0, 0)).1 % 2 ^ 44
      if !s'.inFabric then (.error ⟨cFabricError, w64 va, false⟩, s')
      else if !s'.isOwn j then
        match stationOf s' g.fent off with
        | none => (.error ⟨cFabricError, w64 va, false⟩, s')
        | some st =>
          let (code, data) := Config.foreignRead s'.ticks j st off n
          (if code == 0 then .ok (leBytes n (leNat data))
           else .error ⟨if code == 1 then cPoison else cFabricError, w64 va, false⟩, engineAnswer s' g j)
      else
        let ps := a.pieces.map (homePiece s')
        match homeSpace s' ps, a.poison s' with
        | none, _ => (.error ⟨cFabricError, w64 va, false⟩, s')
        | some _, some w => (.error ⟨cPoison, w64 (({ a with pieces := ps } : Access).vaOf (s'.eccUnit w) w), false⟩, s')
        | some _, none => (.ok (s'.readPieces ps), s')
    | _ =>
      match a.poison s' with
      | some w => (.error ⟨cPoison, w64 (a.vaOf (s'.eccUnit w) w), false⟩, s')
      | none => (.ok (s'.readPieces a.pieces), s')

/-- An engine's write: the state after it, or its fault (R141 for a partly covered poisoned word). -/
def engineWrite (s : State) (g : Agent) (va : Nat) (data : List Byte) : Option Raise × State :=
  match engineAccess s g va data.length .w with
  | (.error r, s') => (some r, s')
  | (.ok a, s') =>
    match a.space with
    | .fabric j =>
      let off := (a.pieces.headD (0, 0)).1 % 2 ^ 44
      if !s'.inFabric then (some ⟨cFabricError, w64 va, false⟩, s')
      else if !s'.isOwn j then
        match stationOf s' g.fent off with
        | none => (some ⟨cFabricError, w64 va, false⟩, s')
        | some st =>
          (if Config.foreignWrite s'.ticks j st off data then none else some ⟨cFabricError, w64 va, false⟩, engineAnswer s' g j)
      else
        let ps := a.pieces.map (homePiece s')
        match homeSpace s' ps with
        | none => (some ⟨cFabricError, w64 va, false⟩, s')
        | some _ =>
          match ps.findSome? fun p => s'.partialPoison p.1 p.2 with
          | some w => (some ⟨cSubwordPoison, w64 (({ a with pieces := ps } : Access).vaOf (s'.eccUnit w) w), false⟩, s')
          | none => (none, s'.writePieces ps data)
    | _ =>
      match a.pieces.findSome? fun p => s'.partialPoison p.1 p.2 with
      | some w => (some ⟨cSubwordPoison, w64 (a.vaOf (s'.eccUnit w) w), false⟩, s')
      | none => (none, s'.writePieces a.pieces data)

/-- The work of an engine, access by access: its first fault ends it, and what it has done by then stays done. -/
abbrev Eng (α : Type) := ExceptT Raise (StateM State) α

/-- Runs the work of an engine. -/
def Eng.on {α : Type} (e : Eng α) (s : State) : Except Raise α × State := (ExceptT.run e).run s

/-- A step of an engine's work, from what it answers in a state. -/
def Eng.of {α : Type} (f : State → Except Raise α × State) : Eng α := ExceptT.mk f

/-- A read of an engine. -/
def Agent.read (g : Agent) (va n : Nat) : Eng Nat := .of fun s =>
  match engineRead s g va n with
  | (.ok b, s') => (.ok (leNat b), s')
  | (.error r, s') => (.error r, s')

/-- A write of an engine. -/
def Agent.write (g : Agent) (va : Nat) (data : List Byte) : Eng Unit := .of fun s =>
  match engineWrite s g va data with
  | (none, s') => (.ok (), s')
  | (some r, s') => (.error r, s')

/-- A read of an area of any length in pieces of 64 bytes. -/
def Agent.readLong (g : Agent) : Nat → Nat → Nat → Eng (List Byte)
  | 0, _, _ => pure []
  | n + 1, va, len =>
    if len == 0 then pure []
    else do
      let b ← g.read va (min 64 len)
      let rest ← g.readLong n (va + 64) (len - min 64 len)
      pure (leBytes (min 64 len) b ++ rest)

/-- A write of an area of any length in pieces of 64 bytes. -/
def Agent.writeLong (g : Agent) : Nat → Nat → List Byte → Eng Unit
  | 0, _, _ => pure ()
  | n + 1, va, data =>
    if data.isEmpty then pure ()
    else do
      g.write va (data.take 64)
      g.writeLong n (va + 64) (data.drop 64)

/-- The state after a step of an engine that failed and has written nothing: its translations and the marks on its answers stay. -/
def unwrittenState (s s' : State) : State := { s' with mem := s.mem, poison := s.poison, cores := s.cores }

/-! ### STATUS and taking a trap (R81, R269-R271) -/

/-- STATUS of a strand in a context (R81, R265). -/
def statusWord (key : Nat) (st : Strand) : Word :=
  let core := keyCore key
  w64 (packFields [(9, if core < 512 then core else core - 512), (5, st.pos.rets.length), (3, st.pos.loops.length), (3, 0),
    (1, key % 2), (1, bit01 st.sys.uih), (1, bit01 st.sys.uie), (1, 0), (1, bit01 (st.sys.priv || isSupervisor core))])

/-- TCAUSE (R269). -/
def tcauseWord (cause nrepl : Nat) (deferred phys : Bool) : Word :=
  w64 (cause + nrepl * 2 ^ 8 + bit01 deferred * 2 ^ 14 + bit01 phys * 2 ^ 15)

/-- The 32 bytes of a replay entry in the frame (R270); `b` is the trap point. -/
def entryBytes (b : Nat) (e : Replay) : List Byte :=
  leBytes 32 (packFields [(64, e.info.toNat), (32, e.prog), (16, e.due - b), (8, e.cause), (3, e.slot), (4, 0), (1, 0), (72, 0),
    (56, e.sword)])

/-- The bytes of a frame (R270). -/
def frameBytes (tcause tinfo : Word) (resume : Nat) (status : Word) (b : Nat) (es : List Replay) : List Byte :=
  leBytes 8 tcause.toNat ++ leBytes 8 resume ++ leBytes 8 tinfo.toNat ++ leBytes 8 status.toNat ++ List.replicate 32 0
    ++ es.flatMap (entryBytes b)

/-- The virtual address of the trap area of a core (R269). -/
def trapArea (c : Core) : Nat := bits c.tvec.toNat 56 12 * 4096

/-- Freezes a strand for a double fault and posts its record (R271). -/
def doubleFault (s : State) (key : Nat) (r : Raise) (frame : Option Nat) : State :=
  match s.strandAt key with
  | none => s
  | some st =>
    let sys := { st.sys with tcause := tcauseWord r.cause 0 false r.phys, tinfo := r.info }
    let s := s.setStrandAt key { st with dead := true, sys := sys }
    let core := keyCore key
    postEvent s (dieOf core) 3 r.cause core (key % 2) (match frame with | some a => w64 a | none => r.info) frame.isNone

/-- TAKING A TRAP, the one operation of every synchronous fault (R266-R271): the strand of a context is suspended at its
present bundle-time B, its frame is written, the mode becomes trap mode at supervisor privilege and fetch goes to the handler.
In trap mode, or with TVEC.EN = 0, or when the frame cannot be written, it is a double fault. -/
def takeTrap (s : State) (key : Nat) (r : Raise) (deferred : Bool) (es : List Replay) (resume : Nat) : State :=
  match s.strandAt key with
  | none => s
  | some st =>
    let core := keyCore key
    let c := s.core core
    if st.trapFrame.isSome then doubleFault s key r st.trapFrame
    else if !bit c.tvec.toNat 0 then doubleFault s key r none
    else
      let tcause := tcauseWord r.cause es.length deferred r.phys
      let frame := trapArea c + (key % 2) * 2048
      let data := frameBytes tcause r.info resume (statusWord key st) st.pos.line.bt es
      match engineWrite s { agentFor key st with priv := true } frame data with
      | (some r', s1) => doubleFault s1 key r' none
      | (none, s1) =>
        let st := { st with
          sys := { st.sys with tcause := tcause, tinfo := r.info, priv := true }
          trapFrame := some frame, replay := es, faults := [], call := none, waits := WaitState.none, frozen := none, walked := []
          pos := { st.pos with pc := trapArea c + 4096
                               susp := ⟨.trap, st.pos.line, st.pos.loopQuiet, st.pos.backEdge, st.call, st.waits, st.pos.seq⟩ :: st.pos.susp
                               line := ⟨0, 0, []⟩, loopQuiet := false, backEdge := false } }
        s1.setStrandAt key st

/-- THE RETURN FROM A TRAP (R272), once the handler's operations have landed: privilege from the frame, the suspended time
line goes on and fetch resumes at the frame's RESUME. The entries that are not dropped are left in `replay` for
re-injection, which the caller makes. -/
def leaveTrap (s : State) (key : Nat) (status resume : Nat) (kept : List Replay) : State :=
  match s.strandAt key with
  | none => s
  | some st =>
    match st.pos.susp with
    | [] => s
    | top :: rest =>
      s.setStrandAt key { st with
        sys := { st.sys with priv := bit status 0 }
        trapFrame := none, replay := kept, walked := [], call := top.call, waits := top.waits
        pos := { st.pos with pc := resume, susp := rest, line := top.line, loopQuiet := top.loopQuiet, backEdge := top.backEdge } }

end Sys2Proof.Machine
end

