-- ==== Sys2Proof/Machine/Descriptors.lean ====
section
/-!
DEFINITION. The descriptors that the copy, merge and fabric engines work from: the fields of layout records (R152-R155), merge descriptors
(R162) and collective descriptors (R290), and the elements of a record.
-/
namespace Sys2Proof.Machine

open Sys2Proof

/-! ### Layout records (R152) -/

def tlBase (r : Nat) : Nat := bits r 56 0
def tlFmt (r : Nat) : Nat := bits r 67 64
def tlSat (r : Nat) : Bool := bit r 68
def tlFillm (r : Nat) : Nat := bits r 70 69
def tlPerm (r k : Nat) : Nat := bits r (73 + 2 * k) (72 + 2 * k)
def tlBmask (r : Nat) : Nat := bits r 95 80
def tlGran (r : Nat) : Nat := bits r 99 96
def tlFill (r : Nat) : Nat := bits r 159 128
def tlExt (r k : Nat) : Nat := bits r (183 + 24 * k) (160 + 24 * k)
def tlStride (r k : Nat) : Int := signedOf 40 (bits r (295 + 40 * k) (256 + 40 * k))
def tlOrg (r k : Nat) : Int := signedOf 24 (bits r (439 + 24 * k) (416 + 24 * k))
def tlWsz (r k : Nat) : Nat := bits r (535 + 24 * k) (512 + 24 * k)

/-- The lowest nonzero reserved bit of a record. -/
def tlReserved (r : Nat) : Option Nat :=
  (List.range 768).find? fun i => bit r i && (608 ≤ i || (100 ≤ i && i ≤ 127) || i == 71 || (57 ≤ i && i ≤ 63))

/-- The extent of iteration dimension m (R153). -/
def tlExtent (r m : Nat) : Nat :=
  match (List.range 4).find? fun k => tlPerm r k == m with
  | some k => tlWsz r k + 1
  | none => 1

/-- The points of a copy. -/
def tlPoints (r : Nat) : Nat := tlExtent r 0 * tlExtent r 1 * tlExtent r 2 * tlExtent r 3

/-- The bank offset of an element at offset `o` of an interleaved record (R155). -/
def tlBankOff (r o : Nat) : Nat :=
  let g := 2 ^ (tlGran r + 6)
  bits (tlBase r) 17 0 + o / g / (bitSet 16 (tlBmask r)).length * g + o % g

/-- The address and the edge test of an element (R154, R155). -/
def tlElem (r : Nat) (i : List Nat) : Bool × Nat :=
  let c (k : Nat) : Int := tlOrg r k + i.getD (tlPerm r k) 0
  let inside := (List.range 4).all fun k => 0 ≤ c k && c k ≤ tlExt r k
  let o := ((List.range 4).map fun k => c k * tlStride r k).sum
  let banks := bitSet 16 (tlBmask r)
  if tlBmask r == 0 then (inside, wrap 64 (tlBase r + o))
  else
    let on := o.toNat
    let g := 2 ^ (tlGran r + 6)
    (inside, tlBase r / 2 ^ 22 * 2 ^ 22 + banks.getD (on / g % banks.length) 0 * 0x40000 + tlBankOff r on)

/-- The iteration point number n, i0 running fastest (R154). -/
def tlPoint (r n : Nat) : List Nat :=
  let n0 := tlExtent r 0
  let n1 := tlExtent r 1
  let n2 := tlExtent r 2
  [n % n0, n / n0 % n1, n / n0 / n1 % n2, n / n0 / n1 / n2]

/-! ### The merge descriptor (R162) -/

def mdOp (d : Nat) : Nat := bits d 3 0
def mdVfmt (d : Nat) : Nat := bits d 11 8
def mdNf (d : Nat) : Nat := bits d 22 16
def mdMinocc (d : Nat) : Nat := bits d 29 24
def mdCap (d : Nat) : Nat := bits d 95 64
def mdFibt (d : Nat) : Nat := bits d 184 128
def mdOutb (d : Nat) : Nat := bits d 248 192

/-- The merge engine of a cluster at work for a merge. -/
def MergeJob.agent (j : MergeJob) : Agent := ⟨1024 + j.cluster, j.asid, j.priv, j.fent, j.uid⟩

/-! ### The collective descriptor (R290) -/

def cdSrc (d : Nat) : Nat := bits d 56 0
def cdDst (d : Nat) : Nat := bits d 120 64
def cdPart (d : Nat) : Nat := bits d 184 128
def cdCmpl (d : Nat) : Nat := bits d 248 192
def cdCount (d : Nat) : Nat := bits d 287 256
def cdCid (d : Nat) : Nat := bits d 303 288
def cdFmt (d : Nat) : Nat := bits d 307 304
def cdOp (d : Nat) : Nat := bits d 310 308

end Sys2Proof.Machine
end

