-- ==== Sys2Proof/Decode.lean ====
section
/-!
DEFINITION. From bytes to bundles and back: the formats and opcode maps of R305-R320, the bundle header of R51-R52, and
after them the encoder written from the same tables. Decoding is total and refuses by `none` or `FetchResult.illegal`.
-/
namespace Sys2Proof

/-- The C-slot map (R308, R309), opcode by opcode. -/
def decodeC (opc ops : Nat) : Option Instr :=
  match opc with
  | 0x01 => match splitFields [16, 32] ops with
    | [0, off] => some (.brLabel (.ofNat _ off))
    | _ => none
  | 0x02 => match splitFields [45, 3] ops with
    | [0, b] => some (.brReg (.ofNat _ b))
    | _ => none
  | 0x03 => match splitFields [4, 7, 1, 3, 7, 1, 3, 7, 1, 3, 7, 1, 3] ops with
    | [0, p3, y3, b3, p2, y2, b2, p1, y1, b1, p0, y0, b0] => some (.btree ⟨.ofNat _ p0, .ofNat _ y0, .ofNat _ b0⟩ ⟨.ofNat _ p1, .ofNat _ y1, .ofNat _ b1⟩ ⟨.ofNat _ p2, .ofNat _ y2, .ofNat _ b2⟩ ⟨.ofNat _ p3, .ofNat _ y3, .ofNat _ b3⟩)
    | _ => none
  | 0x04 => match splitFields [16, 32] ops with
    | [0, off] => some (.callLabel (.ofNat _ off))
    | _ => none
  | 0x05 => match splitFields [45, 3] ops with
    | [0, b] => some (.callReg (.ofNat _ b))
    | _ => none
  | 0x06 => match splitFields [48] ops with
    | [0] => some (.ret)
    | _ => none
  | 0x07 => match splitFields [1, 3, 6, 6, 32] ops with
    | [xf, bd, xa, 0, off] => some (.movb (.ofNat _ xf) (.ofNat _ bd) (.ofNat _ xa) (.ofNat _ off))
    | _ => none
  | 0x08 => match splitFields [20, 28] ops with
    | [endOff, count] => some (.loopImm (.ofNat _ endOff) (.ofNat _ count))
    | _ => none
  | 0x09 => match splitFields [20, 22, 6] ops with
    | [endOff, 0, xa] => some (.loopX (.ofNat _ endOff) (.ofNat _ xa))
    | _ => none
  | 0x0A => match splitFields [20, 24, 4] ops with
    | [endOff, 0, s] => some (.loopSpool (.ofNat _ endOff) (.ofNat _ s))
    | _ => none
  | 0x0B => match splitFields [20, 3, 7, 1, 17] ops with
    | [endOff, sm1, pk, xf, count] => some (.loops (.ofNat _ endOff) (.ofNat _ sm1) (.ofNat _ pk) (.ofNat _ xf) (.ofNat _ count))
    | _ => none
  | 0x0C => match splitFields [45, 3] ops with
    | [0, n] => some (.leave (.ofNat _ n))
    | _ => none
  | 0x10 => match splitFields [25, 1, 1, 7, 7, 7] ops with
    | [0, na, nb, pd, pa, pb] => some (.pand (.ofNat _ na) (.ofNat _ nb) (.ofNat _ pd) (.ofNat _ pa) (.ofNat _ pb))
    | _ => none
  | 0x11 => match splitFields [25, 1, 1, 7, 7, 7] ops with
    | [0, na, nb, pd, pa, pb] => some (.por (.ofNat _ na) (.ofNat _ nb) (.ofNat _ pd) (.ofNat _ pa) (.ofNat _ pb))
    | _ => none
  | 0x12 => match splitFields [25, 1, 1, 7, 7, 7] ops with
    | [0, na, nb, pd, pa, pb] => some (.pxor (.ofNat _ na) (.ofNat _ nb) (.ofNat _ pd) (.ofNat _ pa) (.ofNat _ pb))
    | _ => none
  | 0x13 => match splitFields [27, 7, 7, 7] ops with
    | [0, pd, pa, 0] => some (.pnot (.ofNat _ pd) (.ofNat _ pa))
    | _ => none
  | 0x14 => match splitFields [25, 1, 1, 7, 7, 7] ops with
    | [0, na, 0, pd, pa, 0] => some (.pmov (.ofNat _ na) (.ofNat _ pd) (.ofNat _ pa))
    | _ => none
  | 0x18 => match splitFields [48] ops with
    | [0] => some (.done)
    | _ => none
  | 0x19 => match splitFields [48] ops with
    | [0] => some (.yield)
    | _ => none
  | 0x1A => match splitFields [42, 6] ops with
    | [0, xa] => some (.waitt (.ofNat _ xa))
    | _ => none
  | 0x1B => match splitFields [40, 1, 7] ops with
    | [0, o, paths] => some (.bar (.ofNat _ o) (.ofNat _ paths))
    | _ => none
  | 0x1C => match splitFields [48] ops with
    | [0] => some (.trig)
    | _ => none
  | 0x20 => match splitFields [32, 16] ops with
    | [0, code] => some (.sysc (.ofNat _ code))
    | _ => none
  | 0x21 => match splitFields [32, 16] ops with
    | [0, code] => some (.brk (.ofNat _ code))
    | _ => none
  | 0x22 => match splitFields [48] ops with
    | [0] => some (.rft)
    | _ => none
  | 0x23 => match splitFields [48] ops with
    | [0] => some (.uret)
    | _ => none
  | 0x24 => match splitFields [30, 6, 12] ops with
    | [0, xd, srn] => some (.mfs (.ofNat _ xd) (.ofNat _ srn))
    | _ => none
  | 0x25 => match splitFields [30, 6, 12] ops with
    | [0, xa, srn] => some (.mts (.ofNat _ xa) (.ofNat _ srn))
    | _ => none
  | _ => none

/-- The map of the A and B slots (R310-R312). -/
def decodeScalar (t : Tag) (opc ops : Nat) : Option Instr :=
  match opc with
  | 0x01 => match splitFields [6, 6, 6, 2, 17] ops with
    | [xd, xa, xb, mode, 0] => some (.add t (.ofNat _ xd) (.ofNat _ xa) (.ofNat _ xb) (.ofNat _ mode))
    | _ => none
  | 0x02 => match splitFields [6, 6, 25] ops with
    | [xd, xa, imm] => some (.addi t (.ofNat _ xd) (.ofNat _ xa) (.ofNat _ imm))
    | _ => none
  | 0x03 => match splitFields [6, 6, 6, 2, 17] ops with
    | [xd, xa, xb, mode, 0] => some (.sub t (.ofNat _ xd) (.ofNat _ xa) (.ofNat _ xb) (.ofNat _ mode))
    | _ => none
  | 0x04 => match splitFields [6, 6, 6, 19] ops with
    | [xd, xa, xb, 0] => some (.mul t (.ofNat _ xd) (.ofNat _ xa) (.ofNat _ xb))
    | _ => none
  | 0x05 => match splitFields [6, 6, 6, 19] ops with
    | [xd, xa, xb, 0] => some (.mulh t (.ofNat _ xd) (.ofNat _ xa) (.ofNat _ xb))
    | _ => none
  | 0x06 => match splitFields [6, 6, 6, 19] ops with
    | [xd, xa, xb, 0] => some (.mulhn t (.ofNat _ xd) (.ofNat _ xa) (.ofNat _ xb))
    | _ => none
  | 0x07 => match splitFields [6, 6, 6, 19] ops with
    | [xd, xa, xb, 0] => some (.div t (.ofNat _ xd) (.ofNat _ xa) (.ofNat _ xb))
    | _ => none
  | 0x08 => match splitFields [6, 6, 6, 19] ops with
    | [xd, xa, xb, 0] => some (.divn t (.ofNat _ xd) (.ofNat _ xa) (.ofNat _ xb))
    | _ => none
  | 0x09 => match splitFields [6, 6, 6, 19] ops with
    | [xd, xa, xb, 0] => some (.rem t (.ofNat _ xd) (.ofNat _ xa) (.ofNat _ xb))
    | _ => none
  | 0x0A => match splitFields [6, 6, 6, 19] ops with
    | [xd, xa, xb, 0] => some (.remn t (.ofNat _ xd) (.ofNat _ xa) (.ofNat _ xb))
    | _ => none
  | 0x10 => match splitFields [6, 6, 6, 19] ops with
    | [xd, xa, xb, 0] => some (.and t (.ofNat _ xd) (.ofNat _ xa) (.ofNat _ xb))
    | _ => none
  | 0x11 => match splitFields [6, 6, 25] ops with
    | [xd, xa, imm] => some (.andi t (.ofNat _ xd) (.ofNat _ xa) (.ofNat _ imm))
    | _ => none
  | 0x12 => match splitFields [6, 6, 6, 19] ops with
    | [xd, xa, xb, 0] => some (.or t (.ofNat _ xd) (.ofNat _ xa) (.ofNat _ xb))
    | _ => none
  | 0x13 => match splitFields [6, 6, 25] ops with
    | [xd, xa, imm] => some (.ori t (.ofNat _ xd) (.ofNat _ xa) (.ofNat _ imm))
    | _ => none
  | 0x14 => match splitFields [6, 6, 6, 19] ops with
    | [xd, xa, xb, 0] => some (.xor t (.ofNat _ xd) (.ofNat _ xa) (.ofNat _ xb))
    | _ => none
  | 0x15 => match splitFields [6, 6, 25] ops with
    | [xd, xa, imm] => some (.xori t (.ofNat _ xd) (.ofNat _ xa) (.ofNat _ imm))
    | _ => none
  | 0x16 => match splitFields [6, 6, 6, 19] ops with
    | [xd, xa, xb, 0] => some (.shl t (.ofNat _ xd) (.ofNat _ xa) (.ofNat _ xb))
    | _ => none
  | 0x17 => match splitFields [6, 6, 19, 6] ops with
    | [xd, xa, 0, amount] => some (.shli t (.ofNat _ xd) (.ofNat _ xa) (.ofNat _ amount))
    | _ => none
  | 0x18 => match splitFields [6, 6, 6, 19] ops with
    | [xd, xa, xb, 0] => some (.shr t (.ofNat _ xd) (.ofNat _ xa) (.ofNat _ xb))
    | _ => none
  | 0x19 => match splitFields [6, 6, 19, 6] ops with
    | [xd, xa, 0, amount] => some (.shri t (.ofNat _ xd) (.ofNat _ xa) (.ofNat _ amount))
    | _ => none
  | 0x1A => match splitFields [6, 6, 6, 19] ops with
    | [xd, xa, xb, 0] => some (.sar t (.ofNat _ xd) (.ofNat _ xa) (.ofNat _ xb))
    | _ => none
  | 0x1B => match splitFields [6, 6, 19, 6] ops with
    | [xd, xa, 0, amount] => some (.sari t (.ofNat _ xd) (.ofNat _ xa) (.ofNat _ amount))
    | _ => none
  | 0x20 => match splitFields [6, 6, 6, 19] ops with
    | [xd, xa, xb, 0] => some (.min t (.ofNat _ xd) (.ofNat _ xa) (.ofNat _ xb))
    | _ => none
  | 0x21 => match splitFields [6, 6, 6, 19] ops with
    | [xd, xa, xb, 0] => some (.max t (.ofNat _ xd) (.ofNat _ xa) (.ofNat _ xb))
    | _ => none
  | 0x22 => match splitFields [6, 6, 6, 19] ops with
    | [xd, xa, xb, 0] => some (.minn t (.ofNat _ xd) (.ofNat _ xa) (.ofNat _ xb))
    | _ => none
  | 0x23 => match splitFields [6, 6, 6, 19] ops with
    | [xd, xa, xb, 0] => some (.maxn t (.ofNat _ xd) (.ofNat _ xa) (.ofNat _ xb))
    | _ => none
  | 0x24 => match splitFields [7, 6, 6, 4, 4, 10] ops with
    | [pd, xa, xb, cc, fmt, 0] => some (.cmp t (.ofNat _ pd) (.ofNat _ xa) (.ofNat _ xb) (.ofNat _ cc) (.ofNat _ fmt))
    | _ => none
  | 0x25 => match splitFields [7, 6, 4, 20] ops with
    | [pd, xa, cc, imm] => some (.cmpi t (.ofNat _ pd) (.ofNat _ xa) (.ofNat _ cc) (.ofNat _ imm))
    | _ => none
  | 0x26 => match splitFields [6, 6, 6, 7, 12] ops with
    | [xd, xa, xb, ps, 0] => some (.sel t (.ofNat _ xd) (.ofNat _ xa) (.ofNat _ xb) (.ofNat _ ps))
    | _ => none
  | 0x27 => match splitFields [6, 6, 6, 2, 17] ops with
    | [xd, xa, xb, sh, imm] => some (.lea t (.ofNat _ xd) (.ofNat _ xa) (.ofNat _ xb) (.ofNat _ sh) (.ofNat _ imm))
    | _ => none
  | 0x28 => match splitFields [6, 31] ops with
    | [xd, imm] => some (.li t (.ofNat _ xd) (.ofNat _ imm))
    | _ => none
  | 0x29 => match splitFields [6, 31] ops with
    | [xd, imm] => some (.lih t (.ofNat _ xd) (.ofNat _ imm))
    | _ => none
  | 0x2A => match splitFields [6, 6, 25] ops with
    | [xd, xa, 0] => some (.clz t (.ofNat _ xd) (.ofNat _ xa))
    | _ => none
  | 0x2B => match splitFields [6, 6, 25] ops with
    | [xd, xa, 0] => some (.ctz t (.ofNat _ xd) (.ofNat _ xa))
    | _ => none
  | 0x2C => match splitFields [6, 6, 25] ops with
    | [xd, xa, 0] => some (.popc t (.ofNat _ xd) (.ofNat _ xa))
    | _ => none
  | 0x2D => match splitFields [6, 6, 6, 6, 1, 12] ops with
    | [xd, xa, pos, lm1, sx, 0] => some (.bfx t (.ofNat _ xd) (.ofNat _ xa) (.ofNat _ pos) (.ofNat _ lm1) (.ofNat _ sx))
    | _ => none
  | 0x2E => match splitFields [6, 6, 6, 6, 13] ops with
    | [xd, xa, pos, lm1, 0] => some (.bfi t (.ofNat _ xd) (.ofNat _ xa) (.ofNat _ pos) (.ofNat _ lm1))
    | _ => none
  | 0x30 => match splitFields [6, 6, 6, 6, 4, 3, 6] ops with
    | [xd, xa, xb, 0, fmt, rm, 0] => some (.fadd t (.ofNat _ xd) (.ofNat _ xa) (.ofNat _ xb) (.ofNat _ fmt) (.ofNat _ rm))
    | _ => none
  | 0x31 => match splitFields [6, 6, 6, 6, 4, 3, 6] ops with
    | [xd, xa, xb, 0, fmt, rm, 0] => some (.fsub t (.ofNat _ xd) (.ofNat _ xa) (.ofNat _ xb) (.ofNat _ fmt) (.ofNat _ rm))
    | _ => none
  | 0x32 => match splitFields [6, 6, 6, 6, 4, 3, 6] ops with
    | [xd, xa, xb, 0, fmt, rm, 0] => some (.fmul t (.ofNat _ xd) (.ofNat _ xa) (.ofNat _ xb) (.ofNat _ fmt) (.ofNat _ rm))
    | _ => none
  | 0x33 => match splitFields [6, 6, 6, 6, 4, 3, 6] ops with
    | [xd, xa, xb, xc, fmt, rm, 0] => some (.ffma t (.ofNat _ xd) (.ofNat _ xa) (.ofNat _ xb) (.ofNat _ xc) (.ofNat _ fmt) (.ofNat _ rm))
    | _ => none
  | 0x34 => match splitFields [6, 6, 6, 6, 4, 9] ops with
    | [xd, xa, xb, 0, fmt, 0] => some (.fmin t (.ofNat _ xd) (.ofNat _ xa) (.ofNat _ xb) (.ofNat _ fmt))
    | _ => none
  | 0x35 => match splitFields [6, 6, 6, 6, 4, 9] ops with
    | [xd, xa, xb, 0, fmt, 0] => some (.fmax t (.ofNat _ xd) (.ofNat _ xa) (.ofNat _ xb) (.ofNat _ fmt))
    | _ => none
  | 0x36 => match splitFields [7, 6, 6, 4, 4, 10] ops with
    | [pd, xa, xb, cc, fmt, 0] => some (.fcmp t (.ofNat _ pd) (.ofNat _ xa) (.ofNat _ xb) (.ofNat _ cc) (.ofNat _ fmt))
    | _ => none
  | 0x37 => match splitFields [6, 6, 4, 4, 3, 1, 13] ops with
    | [xd, xa, fd, fs, rm, sat, 0] => some (.fcvt t (.ofNat _ xd) (.ofNat _ xa) (.ofNat _ fd) (.ofNat _ fs) (.ofNat _ rm) (.ofNat _ sat))
    | _ => none
  | _ => none

/-- The map of the V and W slots (R313-R315). -/
def decodeVector (t : Tag) (opc ops : Nat) : Option Instr :=
  match opc with
  | 0x01 => match splitFields [9, 9, 2, 9, 2, 5, 1] ops with
    | [vd, va, pa, vb, pb, et, sx] => some (.vadd t (.ofNat _ vd) (.ofNat _ va) (.ofNat _ pa) (.ofNat _ vb) (.ofNat _ pb) (.ofNat _ et) (.ofNat _ sx))
    | _ => none
  | 0x02 => match splitFields [9, 9, 2, 9, 2, 5, 1] ops with
    | [vd, va, pa, vb, pb, et, sx] => some (.vsub t (.ofNat _ vd) (.ofNat _ va) (.ofNat _ pa) (.ofNat _ vb) (.ofNat _ pb) (.ofNat _ et) (.ofNat _ sx))
    | _ => none
  | 0x03 => match splitFields [9, 9, 2, 9, 2, 5, 1] ops with
    | [vd, va, pa, vb, pb, et, 0] => some (.vmul t (.ofNat _ vd) (.ofNat _ va) (.ofNat _ pa) (.ofNat _ vb) (.ofNat _ pb) (.ofNat _ et))
    | _ => none
  | 0x04 => match splitFields [8, 2, 9, 2, 9, 2, 5] ops with
    | [vd, pd, va, pa, vb, pb, et] => some (.vfma t (.ofNat _ vd) (.ofNat _ pd) (.ofNat _ va) (.ofNat _ pa) (.ofNat _ vb) (.ofNat _ pb) (.ofNat _ et))
    | _ => none
  | 0x05 => match splitFields [9, 9, 2, 9, 2, 5, 1] ops with
    | [vd, va, pa, vb, pb, et, 0] => some (.vmin t (.ofNat _ vd) (.ofNat _ va) (.ofNat _ pa) (.ofNat _ vb) (.ofNat _ pb) (.ofNat _ et))
    | _ => none
  | 0x06 => match splitFields [9, 9, 2, 9, 2, 5, 1] ops with
    | [vd, va, pa, vb, pb, et, 0] => some (.vmax t (.ofNat _ vd) (.ofNat _ va) (.ofNat _ pa) (.ofNat _ vb) (.ofNat _ pb) (.ofNat _ et))
    | _ => none
  | 0x07 => match splitFields [9, 9, 2, 11, 5, 1] ops with
    | [vd, va, pa, 0, et, 0] => some (.vabs t (.ofNat _ vd) (.ofNat _ va) (.ofNat _ pa) (.ofNat _ et))
    | _ => none
  | 0x08 => match splitFields [9, 9, 2, 11, 5, 1] ops with
    | [vd, va, pa, 0, et, 0] => some (.vneg t (.ofNat _ vd) (.ofNat _ va) (.ofNat _ pa) (.ofNat _ et))
    | _ => none
  | 0x10 => match splitFields [9, 9, 2, 9, 2, 5, 1] ops with
    | [vd, va, pa, vb, pb, et, 0] => some (.vand t (.ofNat _ vd) (.ofNat _ va) (.ofNat _ pa) (.ofNat _ vb) (.ofNat _ pb) (.ofNat _ et))
    | _ => none
  | 0x11 => match splitFields [9, 9, 2, 9, 2, 5, 1] ops with
    | [vd, va, pa, vb, pb, et, 0] => some (.vor t (.ofNat _ vd) (.ofNat _ va) (.ofNat _ pa) (.ofNat _ vb) (.ofNat _ pb) (.ofNat _ et))
    | _ => none
  | 0x12 => match splitFields [9, 9, 2, 9, 2, 5, 1] ops with
    | [vd, va, pa, vb, pb, et, 0] => some (.vxor t (.ofNat _ vd) (.ofNat _ va) (.ofNat _ pa) (.ofNat _ vb) (.ofNat _ pb) (.ofNat _ et))
    | _ => none
  | 0x13 => match splitFields [9, 9, 2, 11, 5, 1] ops with
    | [vd, va, pa, 0, et, 0] => some (.vnot t (.ofNat _ vd) (.ofNat _ va) (.ofNat _ pa) (.ofNat _ et))
    | _ => none
  | 0x14 => match splitFields [9, 9, 2, 9, 2, 5, 1] ops with
    | [vd, va, pa, vb, pb, et, 0] => some (.vshl t (.ofNat _ vd) (.ofNat _ va) (.ofNat _ pa) (.ofNat _ vb) (.ofNat _ pb) (.ofNat _ et))
    | _ => none
  | 0x15 => match splitFields [9, 9, 2, 9, 2, 5, 1] ops with
    | [vd, va, pa, vb, pb, et, 0] => some (.vshr t (.ofNat _ vd) (.ofNat _ va) (.ofNat _ pa) (.ofNat _ vb) (.ofNat _ pb) (.ofNat _ et))
    | _ => none
  | 0x16 => match splitFields [9, 9, 2, 9, 2, 5, 1] ops with
    | [vd, va, pa, vb, pb, et, 0] => some (.vsar t (.ofNat _ vd) (.ofNat _ va) (.ofNat _ pa) (.ofNat _ vb) (.ofNat _ pb) (.ofNat _ et))
    | _ => none
  | 0x18 => match splitFields [8, 9, 2, 9, 2, 4, 3] ops with
    | [vd, va, pa, vb, pb, fmt, cc] => some (.vcmp t (.ofNat _ vd) (.ofNat _ va) (.ofNat _ pa) (.ofNat _ vb) (.ofNat _ pb) (.ofNat _ fmt) (.ofNat _ cc))
    | _ => none
  | 0x19 => match splitFields [8, 2, 9, 2, 9, 2, 5] ops with
    | [vd, pd, va, pa, vb, pb, et] => some (.vsel t (.ofNat _ vd) (.ofNat _ pd) (.ofNat _ va) (.ofNat _ pa) (.ofNat _ vb) (.ofNat _ pb) (.ofNat _ et))
    | _ => none
  | 0x1A => match splitFields [9, 9, 2, 4, 4, 3, 1, 2, 3] ops with
    | [vd, va, pa, fd, fs, rm, sat, part, 0] => some (.vcvt t (.ofNat _ vd) (.ofNat _ va) (.ofNat _ pa) (.ofNat _ fd) (.ofNat _ fs) (.ofNat _ rm) (.ofNat _ sat) (.ofNat _ part))
    | _ => none
  | 0x1B => match splitFields [9, 6, 5, 17] ops with
    | [vd, xa, et, 0] => some (.vbcst t (.ofNat _ vd) (.ofNat _ xa) (.ofNat _ et))
    | _ => none
  | 0x1C => match splitFields [9, 9, 2, 9, 2, 5, 1] ops with
    | [vd, va, pa, vb, pb, et, 0] => some (.vperm t (.ofNat _ vd) (.ofNat _ va) (.ofNat _ pa) (.ofNat _ vb) (.ofNat _ pb) (.ofNat _ et))
    | _ => none
  | 0x1D => match splitFields [9, 2, 6, 2, 7, 11] ops with
    | [vd, pd, xa, ew, idx, 0] => some (.vins t (.ofNat _ vd) (.ofNat _ pd) (.ofNat _ xa) (.ofNat _ ew) (.ofNat _ idx))
    | _ => none
  | 0x1E => match splitFields [6, 9, 2, 5, 3, 7, 5] ops with
    | [xd, va, pa, et, 0, idx, 0] => some (.vext t (.ofNat _ xd) (.ofNat _ va) (.ofNat _ pa) (.ofNat _ et) (.ofNat _ idx))
    | _ => none
  | 0x20 => match splitFields [6, 9, 2, 5, 3, 12] ops with
    | [xd, va, pa, et, op, 0] => some (.vred t (.ofNat _ xd) (.ofNat _ va) (.ofNat _ pa) (.ofNat _ et) (.ofNat _ op))
    | _ => none
  | 0x21 => match splitFields [6, 9, 2, 5, 15] ops with
    | [xd, va, pa, et, 0] => some (.vamax t (.ofNat _ xd) (.ofNat _ va) (.ofNat _ pa) (.ofNat _ et))
    | _ => none
  | 0x22 => match splitFields [6, 9, 2, 5, 15] ops with
    | [xd, va, pa, et, 0] => some (.vargmx t (.ofNat _ xd) (.ofNat _ va) (.ofNat _ pa) (.ofNat _ et))
    | _ => none
  | 0x28 => match splitFields [9, 9, 2, 11, 5, 1] ops with
    | [vd, va, pa, 0, et, 0] => some (.vexp2 t (.ofNat _ vd) (.ofNat _ va) (.ofNat _ pa) (.ofNat _ et))
    | _ => none
  | 0x29 => match splitFields [9, 9, 2, 11, 5, 1] ops with
    | [vd, va, pa, 0, et, 0] => some (.vlog2 t (.ofNat _ vd) (.ofNat _ va) (.ofNat _ pa) (.ofNat _ et))
    | _ => none
  | 0x2A => match splitFields [9, 9, 2, 11, 5, 1] ops with
    | [vd, va, pa, 0, et, 0] => some (.vrcp t (.ofNat _ vd) (.ofNat _ va) (.ofNat _ pa) (.ofNat _ et))
    | _ => none
  | 0x2B => match splitFields [9, 9, 2, 11, 5, 1] ops with
    | [vd, va, pa, 0, et, 0] => some (.vrsq t (.ofNat _ vd) (.ofNat _ va) (.ofNat _ pa) (.ofNat _ et))
    | _ => none
  | 0x30 => match splitFields [9, 9, 2, 9, 2, 5, 1] ops with
    | [vd, va, pa, vb, pb, et, 0] => some (.vmask t (.ofNat _ vd) (.ofNat _ va) (.ofNat _ pa) (.ofNat _ vb) (.ofNat _ pb) (.ofNat _ et))
    | _ => none
  | 0x31 => match splitFields [9, 9, 2, 4, 13] ops with
    | [vd, va, pa, fmt, 0] => some (.vsprs t (.ofNat _ vd) (.ofNat _ va) (.ofNat _ pa) (.ofNat _ fmt))
    | _ => none
  | _ => none

/-- The map of the M slot (R316-R318). -/
def decodeM (t : Tag) (opc ops : Nat) : Option Instr :=
  match opc with
  | 0x01 => match splitFields [6, 6, 3, 22] ops with
    | [xv, xa, sz, imm] => some (.ld t (.ofNat _ xv) (.ofNat _ xa) (.ofNat _ sz) (.ofNat _ imm))
    | _ => none
  | 0x02 => match splitFields [6, 6, 3, 22] ops with
    | [xv, xa, sz, imm] => some (.st t (.ofNat _ xv) (.ofNat _ xa) (.ofNat _ sz) (.ofNat _ imm))
    | _ => none
  | 0x03 => match splitFields [6, 6, 3, 4, 18] ops with
    | [xv, xa, sz, scope, imm] => some (.lda t (.ofNat _ xv) (.ofNat _ xa) (.ofNat _ sz) (.ofNat _ scope) (.ofNat _ imm))
    | _ => none
  | 0x04 => match splitFields [6, 6, 3, 4, 18] ops with
    | [xv, xa, sz, scope, imm] => some (.stl t (.ofNat _ xv) (.ofNat _ xa) (.ofNat _ sz) (.ofNat _ scope) (.ofNat _ imm))
    | _ => none
  | 0x05 => match splitFields [9, 2, 6, 20] ops with
    | [vv, 0, xa, imm] => some (.vld t (.ofNat _ vv) (.ofNat _ xa) (.ofNat _ imm))
    | _ => none
  | 0x06 => match splitFields [9, 2, 6, 20] ops with
    | [vv, pv, xa, imm] => some (.vst t (.ofNat _ vv) (.ofNat _ pv) (.ofNat _ xa) (.ofNat _ imm))
    | _ => none
  | 0x07 => match splitFields [6, 6, 6, 4, 1, 2, 4, 8] ops with
    | [xd, xa, xb, op, w, ord, scope, 0] => some (.amo t (.ofNat _ xd) (.ofNat _ xa) (.ofNat _ xb) (.ofNat _ op) (.ofNat _ w) (.ofNat _ ord) (.ofNat _ scope))
    | _ => none
  | 0x08 => match splitFields [6, 6, 6, 6, 2, 4, 7] ops with
    | [xd, xa, xb, xc, ord, scope, 0] => some (.acas t (.ofNat _ xd) (.ofNat _ xa) (.ofNat _ xb) (.ofNat _ xc) (.ofNat _ ord) (.ofNat _ scope))
    | _ => none
  | 0x0C => match splitFields [4, 7, 7, 19] ops with
    | [scope, src, dst, 0] => some (.fence t (.ofNat _ scope) (.ofNat _ src) (.ofNat _ dst))
    | _ => none
  | 0x0D => match splitFields [7, 30] ops with
    | [paths, 0] => some (.drain t (.ofNat _ paths))
    | _ => none
  | 0x10 => match splitFields [6, 9, 2, 4, 16] ops with
    | [0, va, pa, sd, 0] => some (.scfg t (.ofNat _ va) (.ofNat _ pa) (.ofNat _ sd))
    | _ => none
  | 0x11 => match splitFields [17, 4, 16] ops with
    | [0, sd, 0] => some (.srel t (.ofNat _ sd))
    | _ => none
  | 0x14 => match splitFields [4, 9, 2, 9, 2, 11] ops with
    | [tag, vs, ps, vd, pd, 0] => some (.dcp t (.ofNat _ tag) (.ofNat _ vs) (.ofNat _ ps) (.ofNat _ vd) (.ofNat _ pd))
    | _ => none
  | 0x15 => match splitFields [6, 18, 4, 9] ops with
    | [xd, 0, tag, 0] => some (.dstat t (.ofNat _ xd) (.ofNat _ tag))
    | _ => none
  | 0x18 => match splitFields [6, 6, 25] ops with
    | [xd, xa, 0] => some (.frd t (.ofNat _ xd) (.ofNat _ xa))
    | _ => none
  | 0x19 => match splitFields [6, 6, 6, 19] ops with
    | [0, xa, xb, 0] => some (.fwr t (.ofNat _ xa) (.ofNat _ xb))
    | _ => none
  | 0x1A => match splitFields [6, 6, 25] ops with
    | [0, xa, 0] => some (.fclr t (.ofNat _ xa))
    | _ => none
  | 0x1B => match splitFields [6, 6, 6, 6, 13] ops with
    | [xe, xa, xb, xc, 0] => some (.spawn t (.ofNat _ xe) (.ofNat _ xa) (.ofNat _ xb) (.ofNat _ xc))
    | _ => none
  | 0x1C => match splitFields [6, 9, 2, 4, 16] ops with
    | [xa, va, pa, 0, 0] => some (.lnch t (.ofNat _ xa) (.ofNat _ va) (.ofNat _ pa))
    | _ => none
  | 0x20 => match splitFields [6, 9, 2, 4, 16] ops with
    | [0, va, pa, f, 0] => some (.hfam t (.ofNat _ va) (.ofNat _ pa) (.ofNat _ f))
    | _ => none
  | 0x21 => match splitFields [4, 6, 6, 6, 1, 4, 2, 8] ops with
    | [sd, xt, xo, xc, qs, qn, pq, 0] => some (.hprb t (.ofNat _ sd) (.ofNat _ xt) (.ofNat _ xo) (.ofNat _ xc) (.ofNat _ qs) (.ofNat _ qn) (.ofNat _ pq))
    | _ => none
  | 0x22 => match splitFields [6, 6, 6, 19] ops with
    | [0, xt, xi, 0] => some (.hins t (.ofNat _ xt) (.ofNat _ xi))
    | _ => none
  | 0x23 => match splitFields [6, 6, 6, 19] ops with
    | [0, xt, xi, 0] => some (.hdel t (.ofNat _ xt) (.ofNat _ xi))
    | _ => none
  | 0x24 => match splitFields [6, 6, 6, 19] ops with
    | [0, xt, xn, 0] => some (.hreh t (.ofNat _ xt) (.ofNat _ xn))
    | _ => none
  | 0x25 => match splitFields [6, 9, 2, 4, 16] ops with
    | [xa, va, pa, 0, 0] => some (.hacc t (.ofNat _ xa) (.ofNat _ va) (.ofNat _ pa))
    | _ => none
  | 0x28 => match splitFields [6, 6, 12, 4, 9] ops with
    | [0, xa, 0, sd, 0] => some (.merge t (.ofNat _ xa) (.ofNat _ sd))
    | _ => none
  | 0x29 => match splitFields [6, 6, 25] ops with
    | [0, xa, 0] => some (.cred t (.ofNat _ xa))
    | _ => none
  | 0x31 => match splitFields [6, 6, 6, 19] ops with
    | [0, xa, xb, 0] => some (.lvs t (.ofNat _ xa) (.ofNat _ xb))
    | _ => none
  | 0x32 => match splitFields [6, 6, 6, 19] ops with
    | [0, xa, xb, 0] => some (.lvr t (.ofNat _ xa) (.ofNat _ xb))
    | _ => none
  | 0x30 => match splitFields [6, 6, 6, 6, 4, 9] ops with
    | [0, 0, 0, 0, 0, 0] => some (.tlbiAll t)
    | [0, 0, xb, 0, 1, 0] => some (.tlbiAs t (.ofNat _ xb))
    | [0, xa, xb, 0, 2, 0] => some (.tlbiPage t (.ofNat _ xa) (.ofNat _ xb))
    | _ => none
  | _ => none

/-- The map of the X slot (R319, R320). -/
def decodeX (t : Tag) (opc ops : Nat) : Option Instr :=
  match opc with
  | 0x01 => match splitFields [2, 9, 2, 24] ops with
    | [pg, va, pa, 0] => some (.cprog t (.ofNat _ pg) (.ofNat _ va) (.ofNat _ pa))
    | _ => none
  | 0x02 => match splitFields [2, 35] ops with
    | [pg, 0] => some (.csel t (.ofNat _ pg))
    | _ => none
  | 0x03 => match splitFields [6, 31] ops with
    | [xa, 0] => some (.aflow t (.ofNat _ xa))
    | _ => none
  | 0x05 => match splitFields [3, 1, 4, 2, 1, 4, 2, 12, 8] ops with
    | [av, asp, an, pan, bsp, bn, pbn, mm1, 0] => some (.arun t (.ofNat _ av) (.ofNat _ asp) (.ofNat _ an) (.ofNat _ pan) (.ofNat _ bsp) (.ofNat _ bn) (.ofNat _ pbn) (.ofNat _ mm1))
    | _ => none
  | 0x06 => match splitFields [3, 1, 4, 2, 4, 2, 12, 9] ops with
    | [av, asp, an, pan, mv, pmv, mm1, 0] => some (.aruns t (.ofNat _ av) (.ofNat _ asp) (.ofNat _ an) (.ofNat _ pan) (.ofNat _ mv) (.ofNat _ pmv) (.ofNat _ mm1))
    | _ => none
  | 0x07 => match splitFields [2, 4, 2, 4, 25] ops with
    | [am, ta, bm, tb, 0] => some (.ascl t (.ofNat _ am) (.ofNat _ ta) (.ofNat _ bm) (.ofNat _ tb))
    | _ => none
  | 0x09 => match splitFields [4, 2, 3, 2, 1, 25] ops with
    | [td, sk, av, pav, sat, 0] => some (.adrn t (.ofNat _ td) (.ofNat _ sk) (.ofNat _ av) (.ofNat _ pav) (.ofNat _ sat))
    | _ => none
  | 0x04 => match splitFields [1, 36] ops with
    | [0, r] => match splitFields [4, 2, 30] r with
      | [tv, pt, 0] => some (.aldbLocal t (.ofNat _ tv) (.ofNat _ pt))
      | _ => none
    | [1, r] => match splitFields [6, 6, 24] r with
      | [xa, xb, 0] => some (.aldbCluster t (.ofNat _ xa) (.ofNat _ xb))
      | _ => none
    | _ => none
  | 0x08 => match splitFields [1, 3, 33] ops with
    | [0, av, 0] => some (.aclrView t (.ofNat _ av))
    | [1, 0, 0] => some (.aclrArray t)
    | _ => none
  | _ => none

/-- The map of the T slot (R319, R320). -/
def decodeT (t : Tag) (opc ops : Nat) : Option Instr :=
  match opc with
  | 0x01 => match splitFields [9, 2, 7, 19] ops with
    | [va, pa, row, 0] => some (.txin t (.ofNat _ va) (.ofNat _ pa) (.ofNat _ row))
    | _ => none
  | 0x02 => match splitFields [9, 7, 2, 2, 17] ops with
    | [vd, ci, h, wl, 0] => some (.txout t (.ofNat _ vd) (.ofNat _ ci) (.ofNat _ h) (.ofNat _ wl))
    | _ => none
  | 0x03 => match splitFields [37] ops with
    | [0] => some (.txclr t)
    | _ => none
  | _ => none

/-- The fields [55:48] OPC, [47:45] PATH, [44:38] GP, [37] GN and the operands of a slot other than C (R53). -/
def tagWidths : List Nat := [8, 3, 7, 1, 37]

/-- Decodes one 56-bit slot of the kind named, and refuses what R305 refuses. -/
def decodeSlot (k : SlotKind) (w : Nat) : Option Instr :=
  let raw : Option Instr :=
    match k with
    | .c => match splitFields [8, 48] w with
      | [opc, ops] => decodeC opc ops
      | _ => none
    | _ => match splitFields tagWidths w with
      | [opc, path, gp, gn, ops] =>
        let t (second : Bool) : Tag := ⟨second, .ofNat _ path, .ofNat _ gp, .ofNat _ gn⟩
        match k with
        | .a => decodeScalar (t false) opc ops
        | .b => decodeScalar (t true) opc ops
        | .v => decodeVector (t false) opc ops
        | .w => decodeVector (t true) opc ops
        | .m => decodeM (t false) opc ops
        | .x => decodeX (t false) opc ops
        | _ => decodeT (t false) opc ops
      | _ => none
  match raw with
  | some i => if wellFormed i then some i else none
  | none => none

/-- The slots whose mask bits are set, in ascending mask-bit order (R51). -/
def slotsOfMask (mask : Nat) : List SlotKind :=
  [SlotKind.c, .a, .b, .v, .w, .m, .x, .t].zipIdx.filterMap fun (k, i) => if mask.testBit i then some k else none

/-- A decoded bundle: its header fields, its length in bytes and its operations in slot order (R51). -/
structure Bundle where
  idle : Nat
  quiescent : Bool
  length : Nat
  ops : List Instr
deriving DecidableEq, Repr

/-- What stands at a fetch address (R52). -/
inductive FetchResult where
  /-- Header 0x0000, or fewer than two bytes left: fetch goes on at the next line. -/
  | endOfLine
  /-- An idle bundle of `k` bundle-times. -/
  | idle (k : Nat) (quiescent : Bool)
  | bundle (b : Bundle)
  /-- ILLEGAL_ENCODING. -/
  | illegal
deriving DecidableEq, Repr

/-- The operand tags of an operation outside the C slot. -/
def Instr.tag? : Instr → Option Tag
  | .add t _ _ _ _ | .addi t _ _ _ | .sub t _ _ _ _ | .mul t _ _ _ | .mulh t _ _ _ | .mulhn t _ _ _
  | .div t _ _ _ | .divn t _ _ _ | .rem t _ _ _ | .remn t _ _ _ | .and t _ _ _ | .or t _ _ _ | .xor t _ _ _
  | .shl t _ _ _ | .shr t _ _ _ | .sar t _ _ _ | .min t _ _ _ | .max t _ _ _ | .minn t _ _ _ | .maxn t _ _ _
  | .andi t _ _ _ | .ori t _ _ _ | .xori t _ _ _ | .shli t _ _ _ | .shri t _ _ _ | .sari t _ _ _
  | .cmp t _ _ _ _ _ | .cmpi t _ _ _ _ | .sel t _ _ _ _ | .lea t _ _ _ _ _ | .li t _ _ | .lih t _ _
  | .clz t _ _ | .ctz t _ _ | .popc t _ _ | .bfx t _ _ _ _ _ | .bfi t _ _ _ _ | .fadd t _ _ _ _ _
  | .fsub t _ _ _ _ _ | .fmul t _ _ _ _ _ | .ffma t _ _ _ _ _ _ | .fmin t _ _ _ _ | .fmax t _ _ _ _
  | .fcmp t _ _ _ _ _ | .fcvt t _ _ _ _ _ _ | .vadd t _ _ _ _ _ _ _ | .vsub t _ _ _ _ _ _ _
  | .vmul t _ _ _ _ _ _ | .vfma t _ _ _ _ _ _ _ | .vmin t _ _ _ _ _ _ | .vmax t _ _ _ _ _ _ | .vabs t _ _ _ _
  | .vneg t _ _ _ _ | .vand t _ _ _ _ _ _ | .vor t _ _ _ _ _ _ | .vxor t _ _ _ _ _ _ | .vnot t _ _ _ _
  | .vshl t _ _ _ _ _ _ | .vshr t _ _ _ _ _ _ | .vsar t _ _ _ _ _ _ | .vcmp t _ _ _ _ _ _ _
  | .vsel t _ _ _ _ _ _ _ | .vcvt t _ _ _ _ _ _ _ _ | .vbcst t _ _ _ | .vperm t _ _ _ _ _ _ | .vins t _ _ _ _ _
  | .vext t _ _ _ _ _ | .vred t _ _ _ _ _ | .vamax t _ _ _ _ | .vargmx t _ _ _ _ | .vexp2 t _ _ _ _
  | .vlog2 t _ _ _ _ | .vrcp t _ _ _ _ | .vrsq t _ _ _ _ | .vmask t _ _ _ _ _ _ | .vsprs t _ _ _ _
  | .ld t _ _ _ _ | .st t _ _ _ _ | .lda t _ _ _ _ _ | .stl t _ _ _ _ _ | .vld t _ _ _ | .vst t _ _ _ _
  | .amo t _ _ _ _ _ _ _ | .acas t _ _ _ _ _ _ | .fence t _ _ _ | .drain t _ | .scfg t _ _ _ | .srel t _
  | .dcp t _ _ _ _ _ | .dstat t _ _ | .frd t _ _ | .fwr t _ _ | .fclr t _ | .spawn t _ _ _ _ | .lnch t _ _ _
  | .hfam t _ _ _ | .hprb t _ _ _ _ _ _ _ | .hins t _ _ | .hdel t _ _ | .hreh t _ _ | .hacc t _ _ _
  | .merge t _ _ | .cred t _ | .lvs t _ _ | .lvr t _ _ | .cprog t _ _ _ | .csel t _ | .aflow t _
  | .arun t _ _ _ _ _ _ _ _ | .aruns t _ _ _ _ _ _ _ | .ascl t _ _ _ _ | .adrn t _ _ _ _ _ | .txin t _ _ _
  | .txout t _ _ _ _ | .txclr t | .tlbiAll t | .tlbiAs t _ | .tlbiPage t _ _ | .aldbLocal t _ _
  | .aldbCluster t _ _ | .aclrView t _ | .aclrArray t => some t
  | .brLabel .. | .brReg .. | .btree .. | .callLabel .. | .callReg .. | .ret | .movb .. | .loopImm ..
  | .loopX .. | .loopSpool .. | .loops .. | .leave .. | .pand .. | .por .. | .pxor .. | .pnot .. | .pmov ..
  | .done | .yield | .trig | .rft | .uret | .waitt .. | .bar .. | .sysc .. | .brk .. | .mfs .. | .mts ..
  | .idleBundle .. | .resultLanding .. | .farLoadLanding .. | .farStorePerform .. | .windowWrite ..
  | .windowRead .. | .eccCorrection .. | .uncorrectableError .. | .walkComplete .. | .trapEntry ..
  | .userInterrupt .. | .budgetExpiry .. | .hung .. | .preemption .. | .timeSliceSwitch .. | .strandSwitch ..
  | .contextSaveComplete .. | .strandResume .. | .contextSwitch .. | .skeinBind .. | .pointFire ..
  | .pointCompletion .. | .launchAdmission .. | .doorbell .. | .taskPacketArrival .. | .taskBind ..
  | .spoolElementFetch .. | .storeSpoolWrite .. | .copyElement .. | .copyCompletion .. | .mergeStart ..
  | .mergeEnd .. | .probeStart .. | .probeEnd .. | .updateStart .. | .updateEnd .. | .arrayStart ..
  | .arrayElement .. | .arrayCompletion .. | .multicastRowRead .. | .collectiveStart .. | .sluiceArrival ..
  | .fabricAccess .. | .fabricResponse .. | .fabricTimeout .. | .hostAccess .. | .syncMessage .. | .syncTimeout
  | .waittExpiry .. | .powerOnBoot | .quote .. | .securityVersionRaise .. | .identityRead .. | .devctl ..
  | .svpoolAppend .. | .ptpcfg .. | .hostRegisterWrite .. | .halt | .debugResume | .step | .debuggerHalt ..
  | .dbgdata .. | .go | .abort | .recv | .evacStopComplete | .evacStreamComplete | .evacDrainComplete
  | .evacTimeout | .adopted .. | .throttle .. | .thermalShutdown .. | .powerOff | .stationDown ..
  | .loadComplete .. | .collectiveEnd .. => none

/-- DONE, RFT and URET stand alone in their bundle (R371, R413, R429). -/
def Instr.standsAlone : Instr → Bool
  | .done | .rft | .uret => true
  | _ => false

/-- The least ENDOFF a loop may carry is the length of its own bundle (R307). -/
def Instr.endOffOk (length : Nat) : Instr → Bool
  | .loopImm e _ | .loopX e _ | .loopSpool e _ | .loops e _ _ _ _ => length ≤ e.toNat
  | _ => true

/-- Whether an operation carries a nonzero PATH. -/
def Instr.pathTagged (i : Instr) : Bool :=
  match i.tag? with
  | some t => t.path != 0
  | none => false

/-- Whether the operation is a BTREE. -/
def Instr.isBtree : Instr → Bool
  | .btree .. => true
  | _ => false

/-- Whether an instruction names a spool operand or is one of those that R17 excludes on a supervisor core. -/
def Instr.supervisorExcluded : Instr → Bool
  | .cprog .. | .csel .. | .aflow .. | .aldbLocal .. | .aldbCluster .. | .arun .. | .aruns .. | .ascl .. | .aclrView ..
  | .aclrArray .. | .adrn .. | .txin .. | .txout .. | .txclr .. => true
  | .scfg .. | .srel .. | .merge .. | .dcp .. | .dstat .. | .hfam .. | .hprb .. | .hins .. | .hdel .. | .hreh ..
  | .hacc .. | .loopSpool .. => true
  | .mfs _ n | .mts _ n => 0x060 ≤ n.toNat
  | .vadd _ d a _ b _ _ _ | .vsub _ d a _ b _ _ _ => d.isSpool || a.isSpool || b.isSpool
  | .vmul _ d a _ b _ _ | .vmin _ d a _ b _ _ | .vmax _ d a _ b _ _ | .vand _ d a _ b _ _ | .vor _ d a _ b _ _
  | .vxor _ d a _ b _ _ | .vshl _ d a _ b _ _ | .vshr _ d a _ b _ _ | .vsar _ d a _ b _ _ | .vperm _ d a _ b _ _
  | .vmask _ d a _ b _ _ => d.isSpool || a.isSpool || b.isSpool
  | .vfma _ _ _ a _ b _ _ | .vsel _ _ _ a _ b _ _ | .vcmp _ _ a _ b _ _ _ => a.isSpool || b.isSpool
  | .vabs _ d a _ _ | .vneg _ d a _ _ | .vnot _ d a _ _ | .vexp2 _ d a _ _ | .vlog2 _ d a _ _ | .vrcp _ d a _ _
  | .vrsq _ d a _ _ | .vsprs _ d a _ _ => d.isSpool || a.isSpool
  | .vcvt _ d a _ _ _ _ _ _ => d.isSpool || a.isSpool
  | .vbcst _ d _ _ | .vins _ d _ _ _ _ => d.isSpool
  | .vext _ _ a _ _ _ | .vred _ _ a _ _ _ | .vamax _ _ a _ _ | .vargmx _ _ a _ _ => a.isSpool
  | .vst _ v _ _ _ => v.isSpool
  | .lnch _ _ v _ => v.isSpool
  | _ => false

/-- Decodes the slots of a bundle one after another from the byte after the header. -/
def decodeSlots : List SlotKind → List Byte → Option (List Instr)
  | [], _ => some []
  | k :: ks, bytes => do
    let i ← decodeSlot k (leNat (bytes.take 7))
    let rest ← decodeSlots ks (bytes.drop 7)
    pure (i :: rest)

/-- Decodes what stands at a fetch address, given the bytes from there to the end of its line (R52, R305). `supervisor`
says whether the core is a supervisor core, which excludes more (R17). -/
def decodeBundle (supervisor : Bool) (bytes : List Byte) : FetchResult :=
  if bytes.length < 2 then .endOfLine
  else
    let header := leNat (bytes.take 2)
    let mask := bits header 7 0
    let idle := bits header 11 9
    let q := bit header 8
    if header == 0 then .endOfLine
    else if bits header 15 12 != 0 then .illegal
    else if mask == 0 then (if idle == 0 then .illegal else .idle idle q)
    else
      let kinds := slotsOfMask mask
      let length := 2 + 7 * kinds.length
      if bytes.length < length then .illegal
      else
        match decodeSlots kinds (bytes.drop 2) with
        | none => .illegal
        | some ops =>
          if (ops.any Instr.standsAlone && ops.length != 1) || !ops.all (Instr.endOffOk length)
              || (ops.any Instr.pathTagged && !ops.any Instr.isBtree)
              || (supervisor && ops.any Instr.supervisorExcluded)
          then .illegal
          else .bundle ⟨idle, q, length, ops⟩

/-- The instruction whose bundle, alone in it, has these bits (the bytes above `nbits` are zero). -/
def decodeTableWord (nbits w : Nat) : Option Instr :=
  match decodeBundle false (leBytes 64 (w % 2 ^ nbits)) with
  | .bundle b => match b.ops with
    | [i] => some i
    | _ => none
  | .idle k q => some (.idleBundle (.ofNat _ k) (.ofBool q))
  | _ => none

/-! ### The encoder -/

/-- A C slot: the opcode and 48 operand bits (R53). -/
def encC (opc ops : Nat) : Nat := packFields [(8, opc), (48, ops)]

/-- A slot other than C: opcode, PATH, GP, GN and 37 operand bits (R53). -/
def encTagged (opc : Nat) (t : Tag) (ops : Nat) : Nat :=
  packFields [(8, opc), (3, t.path.toNat), (7, t.gp.toNat), (1, t.gn.toNat), (37, ops)]

/-- A or B. -/
def scalarSlot (t : Tag) : SlotKind := if t.second then .b else .a
/-- V or W. -/
def vectorSlot (t : Tag) : SlotKind := if t.second then .w else .v

/-- The slot an instruction stands in and its 56 bits there; none for an event, which has no encoding. -/
def encodeSlot : Instr → Option (SlotKind × Nat)
  | .brLabel off => some (.c, encC 0x01 (packFields [(16, 0), (32, off.toNat)]))
  | .brReg b => some (.c, encC 0x02 (packFields [(45, 0), (3, b.toNat)]))
  | .btree t0 t1 t2 t3 => some (.c, encC 0x03 (packFields [(4, 0), (7, t3.pred.toNat), (1, t3.polarity.toNat), (3, t3.target.toNat), (7, t2.pred.toNat), (1, t2.polarity.toNat), (3, t2.target.toNat), (7, t1.pred.toNat), (1, t1.polarity.toNat), (3, t1.target.toNat), (7, t0.pred.toNat), (1, t0.polarity.toNat), (3, t0.target.toNat)]))
  | .callLabel off => some (.c, encC 0x04 (packFields [(16, 0), (32, off.toNat)]))
  | .callReg b => some (.c, encC 0x05 (packFields [(45, 0), (3, b.toNat)]))
  | .ret => some (.c, encC 0x06 (0))
  | .movb xf bd xa off => some (.c, encC 0x07 (packFields [(1, xf.toNat), (3, bd.toNat), (6, xa.toNat), (6, 0), (32, off.toNat)]))
  | .loopImm endOff count => some (.c, encC 0x08 (packFields [(20, endOff.toNat), (28, count.toNat)]))
  | .loopX endOff xa => some (.c, encC 0x09 (packFields [(20, endOff.toNat), (22, 0), (6, xa.toNat)]))
  | .loopSpool endOff s => some (.c, encC 0x0A (packFields [(20, endOff.toNat), (24, 0), (4, s.toNat)]))
  | .loops endOff sm1 pk xf count => some (.c, encC 0x0B (packFields [(20, endOff.toNat), (3, sm1.toNat), (7, pk.toNat), (1, xf.toNat), (17, count.toNat)]))
  | .leave n => some (.c, encC 0x0C (packFields [(45, 0), (3, n.toNat)]))
  | .pand na nb pd pa pb => some (.c, encC 0x10 (packFields [(25, 0), (1, na.toNat), (1, nb.toNat), (7, pd.toNat), (7, pa.toNat), (7, pb.toNat)]))
  | .por na nb pd pa pb => some (.c, encC 0x11 (packFields [(25, 0), (1, na.toNat), (1, nb.toNat), (7, pd.toNat), (7, pa.toNat), (7, pb.toNat)]))
  | .pxor na nb pd pa pb => some (.c, encC 0x12 (packFields [(25, 0), (1, na.toNat), (1, nb.toNat), (7, pd.toNat), (7, pa.toNat), (7, pb.toNat)]))
  | .pnot pd pa => some (.c, encC 0x13 (packFields [(27, 0), (7, pd.toNat), (7, pa.toNat), (7, 0)]))
  | .pmov na pd pa => some (.c, encC 0x14 (packFields [(25, 0), (1, na.toNat), (1, 0), (7, pd.toNat), (7, pa.toNat), (7, 0)]))
  | .done => some (.c, encC 0x18 (0))
  | .yield => some (.c, encC 0x19 (0))
  | .trig => some (.c, encC 0x1C (0))
  | .rft => some (.c, encC 0x22 (0))
  | .uret => some (.c, encC 0x23 (0))
  | .waitt xa => some (.c, encC 0x1A (packFields [(42, 0), (6, xa.toNat)]))
  | .bar o paths => some (.c, encC 0x1B (packFields [(40, 0), (1, o.toNat), (7, paths.toNat)]))
  | .sysc code => some (.c, encC 0x20 (packFields [(32, 0), (16, code.toNat)]))
  | .brk code => some (.c, encC 0x21 (packFields [(32, 0), (16, code.toNat)]))
  | .mfs xd srn => some (.c, encC 0x24 (packFields [(30, 0), (6, xd.toNat), (12, srn.toNat)]))
  | .mts xa srn => some (.c, encC 0x25 (packFields [(30, 0), (6, xa.toNat), (12, srn.toNat)]))
  | .add t xd xa xb mode => some (scalarSlot t, encTagged 0x01 t (packFields [(6, xd.toNat), (6, xa.toNat), (6, xb.toNat), (2, mode.toNat), (17, 0)]))
  | .addi t xd xa imm => some (scalarSlot t, encTagged 0x02 t (packFields [(6, xd.toNat), (6, xa.toNat), (25, imm.toNat)]))
  | .sub t xd xa xb mode => some (scalarSlot t, encTagged 0x03 t (packFields [(6, xd.toNat), (6, xa.toNat), (6, xb.toNat), (2, mode.toNat), (17, 0)]))
  | .mul t xd xa xb => some (scalarSlot t, encTagged 0x04 t (packFields [(6, xd.toNat), (6, xa.toNat), (6, xb.toNat), (19, 0)]))
  | .mulh t xd xa xb => some (scalarSlot t, encTagged 0x05 t (packFields [(6, xd.toNat), (6, xa.toNat), (6, xb.toNat), (19, 0)]))
  | .mulhn t xd xa xb => some (scalarSlot t, encTagged 0x06 t (packFields [(6, xd.toNat), (6, xa.toNat), (6, xb.toNat), (19, 0)]))
  | .div t xd xa xb => some (scalarSlot t, encTagged 0x07 t (packFields [(6, xd.toNat), (6, xa.toNat), (6, xb.toNat), (19, 0)]))
  | .divn t xd xa xb => some (scalarSlot t, encTagged 0x08 t (packFields [(6, xd.toNat), (6, xa.toNat), (6, xb.toNat), (19, 0)]))
  | .rem t xd xa xb => some (scalarSlot t, encTagged 0x09 t (packFields [(6, xd.toNat), (6, xa.toNat), (6, xb.toNat), (19, 0)]))
  | .remn t xd xa xb => some (scalarSlot t, encTagged 0x0A t (packFields [(6, xd.toNat), (6, xa.toNat), (6, xb.toNat), (19, 0)]))
  | .and t xd xa xb => some (scalarSlot t, encTagged 0x10 t (packFields [(6, xd.toNat), (6, xa.toNat), (6, xb.toNat), (19, 0)]))
  | .or t xd xa xb => some (scalarSlot t, encTagged 0x12 t (packFields [(6, xd.toNat), (6, xa.toNat), (6, xb.toNat), (19, 0)]))
  | .xor t xd xa xb => some (scalarSlot t, encTagged 0x14 t (packFields [(6, xd.toNat), (6, xa.toNat), (6, xb.toNat), (19, 0)]))
  | .shl t xd xa xb => some (scalarSlot t, encTagged 0x16 t (packFields [(6, xd.toNat), (6, xa.toNat), (6, xb.toNat), (19, 0)]))
  | .shr t xd xa xb => some (scalarSlot t, encTagged 0x18 t (packFields [(6, xd.toNat), (6, xa.toNat), (6, xb.toNat), (19, 0)]))
  | .sar t xd xa xb => some (scalarSlot t, encTagged 0x1A t (packFields [(6, xd.toNat), (6, xa.toNat), (6, xb.toNat), (19, 0)]))
  | .min t xd xa xb => some (scalarSlot t, encTagged 0x20 t (packFields [(6, xd.toNat), (6, xa.toNat), (6, xb.toNat), (19, 0)]))
  | .max t xd xa xb => some (scalarSlot t, encTagged 0x21 t (packFields [(6, xd.toNat), (6, xa.toNat), (6, xb.toNat), (19, 0)]))
  | .minn t xd xa xb => some (scalarSlot t, encTagged 0x22 t (packFields [(6, xd.toNat), (6, xa.toNat), (6, xb.toNat), (19, 0)]))
  | .maxn t xd xa xb => some (scalarSlot t, encTagged 0x23 t (packFields [(6, xd.toNat), (6, xa.toNat), (6, xb.toNat), (19, 0)]))
  | .andi t xd xa imm => some (scalarSlot t, encTagged 0x11 t (packFields [(6, xd.toNat), (6, xa.toNat), (25, imm.toNat)]))
  | .ori t xd xa imm => some (scalarSlot t, encTagged 0x13 t (packFields [(6, xd.toNat), (6, xa.toNat), (25, imm.toNat)]))
  | .xori t xd xa imm => some (scalarSlot t, encTagged 0x15 t (packFields [(6, xd.toNat), (6, xa.toNat), (25, imm.toNat)]))
  | .shli t xd xa amount => some (scalarSlot t, encTagged 0x17 t (packFields [(6, xd.toNat), (6, xa.toNat), (19, 0), (6, amount.toNat)]))
  | .shri t xd xa amount => some (scalarSlot t, encTagged 0x19 t (packFields [(6, xd.toNat), (6, xa.toNat), (19, 0), (6, amount.toNat)]))
  | .sari t xd xa amount => some (scalarSlot t, encTagged 0x1B t (packFields [(6, xd.toNat), (6, xa.toNat), (19, 0), (6, amount.toNat)]))
  | .cmp t pd xa xb cc fmt => some (scalarSlot t, encTagged 0x24 t (packFields [(7, pd.toNat), (6, xa.toNat), (6, xb.toNat), (4, cc.toNat), (4, fmt.toNat), (10, 0)]))
  | .cmpi t pd xa cc imm => some (scalarSlot t, encTagged 0x25 t (packFields [(7, pd.toNat), (6, xa.toNat), (4, cc.toNat), (20, imm.toNat)]))
  | .sel t xd xa xb ps => some (scalarSlot t, encTagged 0x26 t (packFields [(6, xd.toNat), (6, xa.toNat), (6, xb.toNat), (7, ps.toNat), (12, 0)]))
  | .lea t xd xa xb sh imm => some (scalarSlot t, encTagged 0x27 t (packFields [(6, xd.toNat), (6, xa.toNat), (6, xb.toNat), (2, sh.toNat), (17, imm.toNat)]))
  | .li t xd imm => some (scalarSlot t, encTagged 0x28 t (packFields [(6, xd.toNat), (31, imm.toNat)]))
  | .lih t xd imm => some (scalarSlot t, encTagged 0x29 t (packFields [(6, xd.toNat), (31, imm.toNat)]))
  | .clz t xd xa => some (scalarSlot t, encTagged 0x2A t (packFields [(6, xd.toNat), (6, xa.toNat), (25, 0)]))
  | .ctz t xd xa => some (scalarSlot t, encTagged 0x2B t (packFields [(6, xd.toNat), (6, xa.toNat), (25, 0)]))
  | .popc t xd xa => some (scalarSlot t, encTagged 0x2C t (packFields [(6, xd.toNat), (6, xa.toNat), (25, 0)]))
  | .bfx t xd xa pos lm1 sx => some (scalarSlot t, encTagged 0x2D t (packFields [(6, xd.toNat), (6, xa.toNat), (6, pos.toNat), (6, lm1.toNat), (1, sx.toNat), (12, 0)]))
  | .bfi t xd xa pos lm1 => some (scalarSlot t, encTagged 0x2E t (packFields [(6, xd.toNat), (6, xa.toNat), (6, pos.toNat), (6, lm1.toNat), (13, 0)]))
  | .fadd t xd xa xb fmt rm => some (scalarSlot t, encTagged 0x30 t (packFields [(6, xd.toNat), (6, xa.toNat), (6, xb.toNat), (6, 0), (4, fmt.toNat), (3, rm.toNat), (6, 0)]))
  | .fsub t xd xa xb fmt rm => some (scalarSlot t, encTagged 0x31 t (packFields [(6, xd.toNat), (6, xa.toNat), (6, xb.toNat), (6, 0), (4, fmt.toNat), (3, rm.toNat), (6, 0)]))
  | .fmul t xd xa xb fmt rm => some (scalarSlot t, encTagged 0x32 t (packFields [(6, xd.toNat), (6, xa.toNat), (6, xb.toNat), (6, 0), (4, fmt.toNat), (3, rm.toNat), (6, 0)]))
  | .ffma t xd xa xb xc fmt rm => some (scalarSlot t, encTagged 0x33 t (packFields [(6, xd.toNat), (6, xa.toNat), (6, xb.toNat), (6, xc.toNat), (4, fmt.toNat), (3, rm.toNat), (6, 0)]))
  | .fmin t xd xa xb fmt => some (scalarSlot t, encTagged 0x34 t (packFields [(6, xd.toNat), (6, xa.toNat), (6, xb.toNat), (6, 0), (4, fmt.toNat), (9, 0)]))
  | .fmax t xd xa xb fmt => some (scalarSlot t, encTagged 0x35 t (packFields [(6, xd.toNat), (6, xa.toNat), (6, xb.toNat), (6, 0), (4, fmt.toNat), (9, 0)]))
  | .fcmp t pd xa xb cc fmt => some (scalarSlot t, encTagged 0x36 t (packFields [(7, pd.toNat), (6, xa.toNat), (6, xb.toNat), (4, cc.toNat), (4, fmt.toNat), (10, 0)]))
  | .fcvt t xd xa fd fs rm sat => some (scalarSlot t, encTagged 0x37 t (packFields [(6, xd.toNat), (6, xa.toNat), (4, fd.toNat), (4, fs.toNat), (3, rm.toNat), (1, sat.toNat), (13, 0)]))
  | .vadd t vd va pa vb pb et sx => some (vectorSlot t, encTagged 0x01 t (packFields [(9, vd.toNat), (9, va.toNat), (2, pa.toNat), (9, vb.toNat), (2, pb.toNat), (5, et.toNat), (1, sx.toNat)]))
  | .vsub t vd va pa vb pb et sx => some (vectorSlot t, encTagged 0x02 t (packFields [(9, vd.toNat), (9, va.toNat), (2, pa.toNat), (9, vb.toNat), (2, pb.toNat), (5, et.toNat), (1, sx.toNat)]))
  | .vmul t vd va pa vb pb et => some (vectorSlot t, encTagged 0x03 t (packFields [(9, vd.toNat), (9, va.toNat), (2, pa.toNat), (9, vb.toNat), (2, pb.toNat), (5, et.toNat), (1, 0)]))
  | .vfma t vd pd va pa vb pb et => some (vectorSlot t, encTagged 0x04 t (packFields [(8, vd.toNat), (2, pd.toNat), (9, va.toNat), (2, pa.toNat), (9, vb.toNat), (2, pb.toNat), (5, et.toNat)]))
  | .vmin t vd va pa vb pb et => some (vectorSlot t, encTagged 0x05 t (packFields [(9, vd.toNat), (9, va.toNat), (2, pa.toNat), (9, vb.toNat), (2, pb.toNat), (5, et.toNat), (1, 0)]))
  | .vmax t vd va pa vb pb et => some (vectorSlot t, encTagged 0x06 t (packFields [(9, vd.toNat), (9, va.toNat), (2, pa.toNat), (9, vb.toNat), (2, pb.toNat), (5, et.toNat), (1, 0)]))
  | .vabs t vd va pa et => some (vectorSlot t, encTagged 0x07 t (packFields [(9, vd.toNat), (9, va.toNat), (2, pa.toNat), (11, 0), (5, et.toNat), (1, 0)]))
  | .vneg t vd va pa et => some (vectorSlot t, encTagged 0x08 t (packFields [(9, vd.toNat), (9, va.toNat), (2, pa.toNat), (11, 0), (5, et.toNat), (1, 0)]))
  | .vand t vd va pa vb pb et => some (vectorSlot t, encTagged 0x10 t (packFields [(9, vd.toNat), (9, va.toNat), (2, pa.toNat), (9, vb.toNat), (2, pb.toNat), (5, et.toNat), (1, 0)]))
  | .vor t vd va pa vb pb et => some (vectorSlot t, encTagged 0x11 t (packFields [(9, vd.toNat), (9, va.toNat), (2, pa.toNat), (9, vb.toNat), (2, pb.toNat), (5, et.toNat), (1, 0)]))
  | .vxor t vd va pa vb pb et => some (vectorSlot t, encTagged 0x12 t (packFields [(9, vd.toNat), (9, va.toNat), (2, pa.toNat), (9, vb.toNat), (2, pb.toNat), (5, et.toNat), (1, 0)]))
  | .vnot t vd va pa et => some (vectorSlot t, encTagged 0x13 t (packFields [(9, vd.toNat), (9, va.toNat), (2, pa.toNat), (11, 0), (5, et.toNat), (1, 0)]))
  | .vshl t vd va pa vb pb et => some (vectorSlot t, encTagged 0x14 t (packFields [(9, vd.toNat), (9, va.toNat), (2, pa.toNat), (9, vb.toNat), (2, pb.toNat), (5, et.toNat), (1, 0)]))
  | .vshr t vd va pa vb pb et => some (vectorSlot t, encTagged 0x15 t (packFields [(9, vd.toNat), (9, va.toNat), (2, pa.toNat), (9, vb.toNat), (2, pb.toNat), (5, et.toNat), (1, 0)]))
  | .vsar t vd va pa vb pb et => some (vectorSlot t, encTagged 0x16 t (packFields [(9, vd.toNat), (9, va.toNat), (2, pa.toNat), (9, vb.toNat), (2, pb.toNat), (5, et.toNat), (1, 0)]))
  | .vcmp t vd va pa vb pb fmt cc => some (vectorSlot t, encTagged 0x18 t (packFields [(8, vd.toNat), (9, va.toNat), (2, pa.toNat), (9, vb.toNat), (2, pb.toNat), (4, fmt.toNat), (3, cc.toNat)]))
  | .vsel t vd pd va pa vb pb et => some (vectorSlot t, encTagged 0x19 t (packFields [(8, vd.toNat), (2, pd.toNat), (9, va.toNat), (2, pa.toNat), (9, vb.toNat), (2, pb.toNat), (5, et.toNat)]))
  | .vcvt t vd va pa fd fs rm sat part => some (vectorSlot t, encTagged 0x1A t (packFields [(9, vd.toNat), (9, va.toNat), (2, pa.toNat), (4, fd.toNat), (4, fs.toNat), (3, rm.toNat), (1, sat.toNat), (2, part.toNat), (3, 0)]))
  | .vbcst t vd xa et => some (vectorSlot t, encTagged 0x1B t (packFields [(9, vd.toNat), (6, xa.toNat), (5, et.toNat), (17, 0)]))
  | .vperm t vd va pa vb pb et => some (vectorSlot t, encTagged 0x1C t (packFields [(9, vd.toNat), (9, va.toNat), (2, pa.toNat), (9, vb.toNat), (2, pb.toNat), (5, et.toNat), (1, 0)]))
  | .vins t vd pd xa ew idx => some (vectorSlot t, encTagged 0x1D t (packFields [(9, vd.toNat), (2, pd.toNat), (6, xa.toNat), (2, ew.toNat), (7, idx.toNat), (11, 0)]))
  | .vext t xd va pa et idx => some (vectorSlot t, encTagged 0x1E t (packFields [(6, xd.toNat), (9, va.toNat), (2, pa.toNat), (5, et.toNat), (3, 0), (7, idx.toNat), (5, 0)]))
  | .vred t xd va pa et op => some (vectorSlot t, encTagged 0x20 t (packFields [(6, xd.toNat), (9, va.toNat), (2, pa.toNat), (5, et.toNat), (3, op.toNat), (12, 0)]))
  | .vamax t xd va pa et => some (vectorSlot t, encTagged 0x21 t (packFields [(6, xd.toNat), (9, va.toNat), (2, pa.toNat), (5, et.toNat), (15, 0)]))
  | .vargmx t xd va pa et => some (vectorSlot t, encTagged 0x22 t (packFields [(6, xd.toNat), (9, va.toNat), (2, pa.toNat), (5, et.toNat), (15, 0)]))
  | .vexp2 t vd va pa et => some (vectorSlot t, encTagged 0x28 t (packFields [(9, vd.toNat), (9, va.toNat), (2, pa.toNat), (11, 0), (5, et.toNat), (1, 0)]))
  | .vlog2 t vd va pa et => some (vectorSlot t, encTagged 0x29 t (packFields [(9, vd.toNat), (9, va.toNat), (2, pa.toNat), (11, 0), (5, et.toNat), (1, 0)]))
  | .vrcp t vd va pa et => some (vectorSlot t, encTagged 0x2A t (packFields [(9, vd.toNat), (9, va.toNat), (2, pa.toNat), (11, 0), (5, et.toNat), (1, 0)]))
  | .vrsq t vd va pa et => some (vectorSlot t, encTagged 0x2B t (packFields [(9, vd.toNat), (9, va.toNat), (2, pa.toNat), (11, 0), (5, et.toNat), (1, 0)]))
  | .vmask t vd va pa vb pb et => some (vectorSlot t, encTagged 0x30 t (packFields [(9, vd.toNat), (9, va.toNat), (2, pa.toNat), (9, vb.toNat), (2, pb.toNat), (5, et.toNat), (1, 0)]))
  | .vsprs t vd va pa fmt => some (vectorSlot t, encTagged 0x31 t (packFields [(9, vd.toNat), (9, va.toNat), (2, pa.toNat), (4, fmt.toNat), (13, 0)]))
  | .ld t xv xa sz imm => some (.m, encTagged 0x01 t (packFields [(6, xv.toNat), (6, xa.toNat), (3, sz.toNat), (22, imm.toNat)]))
  | .st t xv xa sz imm => some (.m, encTagged 0x02 t (packFields [(6, xv.toNat), (6, xa.toNat), (3, sz.toNat), (22, imm.toNat)]))
  | .lda t xv xa sz scope imm => some (.m, encTagged 0x03 t (packFields [(6, xv.toNat), (6, xa.toNat), (3, sz.toNat), (4, scope.toNat), (18, imm.toNat)]))
  | .stl t xv xa sz scope imm => some (.m, encTagged 0x04 t (packFields [(6, xv.toNat), (6, xa.toNat), (3, sz.toNat), (4, scope.toNat), (18, imm.toNat)]))
  | .vld t vv xa imm => some (.m, encTagged 0x05 t (packFields [(9, vv.toNat), (2, 0), (6, xa.toNat), (20, imm.toNat)]))
  | .vst t vv pv xa imm => some (.m, encTagged 0x06 t (packFields [(9, vv.toNat), (2, pv.toNat), (6, xa.toNat), (20, imm.toNat)]))
  | .amo t xd xa xb op w ord scope => some (.m, encTagged 0x07 t (packFields [(6, xd.toNat), (6, xa.toNat), (6, xb.toNat), (4, op.toNat), (1, w.toNat), (2, ord.toNat), (4, scope.toNat), (8, 0)]))
  | .acas t xd xa xb xc ord scope => some (.m, encTagged 0x08 t (packFields [(6, xd.toNat), (6, xa.toNat), (6, xb.toNat), (6, xc.toNat), (2, ord.toNat), (4, scope.toNat), (7, 0)]))
  | .fence t scope src dst => some (.m, encTagged 0x0C t (packFields [(4, scope.toNat), (7, src.toNat), (7, dst.toNat), (19, 0)]))
  | .drain t paths => some (.m, encTagged 0x0D t (packFields [(7, paths.toNat), (30, 0)]))
  | .scfg t va pa sd => some (.m, encTagged 0x10 t (packFields [(6, 0), (9, va.toNat), (2, pa.toNat), (4, sd.toNat), (16, 0)]))
  | .srel t sd => some (.m, encTagged 0x11 t (packFields [(17, 0), (4, sd.toNat), (16, 0)]))
  | .dcp t tag vs ps vd pd => some (.m, encTagged 0x14 t (packFields [(4, tag.toNat), (9, vs.toNat), (2, ps.toNat), (9, vd.toNat), (2, pd.toNat), (11, 0)]))
  | .dstat t xd tag => some (.m, encTagged 0x15 t (packFields [(6, xd.toNat), (18, 0), (4, tag.toNat), (9, 0)]))
  | .frd t xd xa => some (.m, encTagged 0x18 t (packFields [(6, xd.toNat), (6, xa.toNat), (25, 0)]))
  | .fwr t xa xb => some (.m, encTagged 0x19 t (packFields [(6, 0), (6, xa.toNat), (6, xb.toNat), (19, 0)]))
  | .fclr t xa => some (.m, encTagged 0x1A t (packFields [(6, 0), (6, xa.toNat), (25, 0)]))
  | .spawn t xe xa xb xc => some (.m, encTagged 0x1B t (packFields [(6, xe.toNat), (6, xa.toNat), (6, xb.toNat), (6, xc.toNat), (13, 0)]))
  | .lnch t xa va pa => some (.m, encTagged 0x1C t (packFields [(6, xa.toNat), (9, va.toNat), (2, pa.toNat), (4, 0), (16, 0)]))
  | .hfam t va pa f => some (.m, encTagged 0x20 t (packFields [(6, 0), (9, va.toNat), (2, pa.toNat), (4, f.toNat), (16, 0)]))
  | .hprb t sd xt xo xc qs qn pq => some (.m, encTagged 0x21 t (packFields [(4, sd.toNat), (6, xt.toNat), (6, xo.toNat), (6, xc.toNat), (1, qs.toNat), (4, qn.toNat), (2, pq.toNat), (8, 0)]))
  | .hins t xt xi => some (.m, encTagged 0x22 t (packFields [(6, 0), (6, xt.toNat), (6, xi.toNat), (19, 0)]))
  | .hdel t xt xi => some (.m, encTagged 0x23 t (packFields [(6, 0), (6, xt.toNat), (6, xi.toNat), (19, 0)]))
  | .hreh t xt xn => some (.m, encTagged 0x24 t (packFields [(6, 0), (6, xt.toNat), (6, xn.toNat), (19, 0)]))
  | .hacc t xa va pa => some (.m, encTagged 0x25 t (packFields [(6, xa.toNat), (9, va.toNat), (2, pa.toNat), (4, 0), (16, 0)]))
  | .merge t xa sd => some (.m, encTagged 0x28 t (packFields [(6, 0), (6, xa.toNat), (12, 0), (4, sd.toNat), (9, 0)]))
  | .cred t xa => some (.m, encTagged 0x29 t (packFields [(6, 0), (6, xa.toNat), (25, 0)]))
  | .lvs t xa xb => some (.m, encTagged 0x31 t (packFields [(6, 0), (6, xa.toNat), (6, xb.toNat), (19, 0)]))
  | .lvr t xa xb => some (.m, encTagged 0x32 t (packFields [(6, 0), (6, xa.toNat), (6, xb.toNat), (19, 0)]))
  | .cprog t pg va pa => some (.x, encTagged 0x01 t (packFields [(2, pg.toNat), (9, va.toNat), (2, pa.toNat), (24, 0)]))
  | .csel t pg => some (.x, encTagged 0x02 t (packFields [(2, pg.toNat), (35, 0)]))
  | .aflow t xa => some (.x, encTagged 0x03 t (packFields [(6, xa.toNat), (31, 0)]))
  | .arun t av asp an pan bsp bn pbn mm1 => some (.x, encTagged 0x05 t (packFields [(3, av.toNat), (1, asp.toNat), (4, an.toNat), (2, pan.toNat), (1, bsp.toNat), (4, bn.toNat), (2, pbn.toNat), (12, mm1.toNat), (8, 0)]))
  | .aruns t av asp an pan mv pmv mm1 => some (.x, encTagged 0x06 t (packFields [(3, av.toNat), (1, asp.toNat), (4, an.toNat), (2, pan.toNat), (4, mv.toNat), (2, pmv.toNat), (12, mm1.toNat), (9, 0)]))
  | .ascl t am ta bm tb => some (.x, encTagged 0x07 t (packFields [(2, am.toNat), (4, ta.toNat), (2, bm.toNat), (4, tb.toNat), (25, 0)]))
  | .adrn t td sk av pav sat => some (.x, encTagged 0x09 t (packFields [(4, td.toNat), (2, sk.toNat), (3, av.toNat), (2, pav.toNat), (1, sat.toNat), (25, 0)]))
  | .txin t va pa row => some (.t, encTagged 0x01 t (packFields [(9, va.toNat), (2, pa.toNat), (7, row.toNat), (19, 0)]))
  | .txout t vd ci h wl => some (.t, encTagged 0x02 t (packFields [(9, vd.toNat), (7, ci.toNat), (2, h.toNat), (2, wl.toNat), (17, 0)]))
  | .txclr t => some (.t, encTagged 0x03 t (0))
  | .tlbiAll t => some (.m, encTagged 0x30 t 0)
  | .tlbiAs t xb => some (.m, encTagged 0x30 t (packFields [(6, 0), (6, 0), (6, xb.toNat), (6, 0), (4, 1), (9, 0)]))
  | .tlbiPage t xa xb => some (.m, encTagged 0x30 t (packFields [(6, 0), (6, xa.toNat), (6, xb.toNat), (6, 0), (4, 2), (9, 0)]))
  | .aldbLocal t tv pt => some (.x, encTagged 0x04 t (packFields [(1, 0), (4, tv.toNat), (2, pt.toNat), (30, 0)]))
  | .aldbCluster t xa xb => some (.x, encTagged 0x04 t (packFields [(1, 1), (6, xa.toNat), (6, xb.toNat), (24, 0)]))
  | .aclrView t av => some (.x, encTagged 0x08 t (packFields [(1, 0), (3, av.toNat), (33, 0)]))
  | .aclrArray t => some (.x, encTagged 0x08 t (packFields [(1, 1), (36, 0)]))
  | .idleBundle .. | .resultLanding .. | .farLoadLanding .. | .farStorePerform .. | .windowWrite ..
  | .windowRead .. | .eccCorrection .. | .uncorrectableError .. | .walkComplete .. | .trapEntry ..
  | .userInterrupt .. | .budgetExpiry .. | .hung .. | .preemption .. | .timeSliceSwitch .. | .strandSwitch ..
  | .contextSaveComplete .. | .strandResume .. | .contextSwitch .. | .skeinBind .. | .pointFire ..
  | .pointCompletion .. | .launchAdmission .. | .doorbell .. | .taskPacketArrival .. | .taskBind ..
  | .spoolElementFetch .. | .storeSpoolWrite .. | .copyElement .. | .copyCompletion .. | .mergeStart ..
  | .mergeEnd .. | .probeStart .. | .probeEnd .. | .updateStart .. | .updateEnd .. | .arrayStart ..
  | .arrayElement .. | .arrayCompletion .. | .multicastRowRead .. | .collectiveStart .. | .sluiceArrival ..
  | .fabricAccess .. | .fabricResponse .. | .fabricTimeout .. | .hostAccess .. | .syncMessage .. | .syncTimeout
  | .waittExpiry .. | .powerOnBoot | .quote .. | .securityVersionRaise .. | .identityRead .. | .devctl ..
  | .svpoolAppend .. | .ptpcfg .. | .hostRegisterWrite .. | .halt | .debugResume | .step | .debuggerHalt ..
  | .dbgdata .. | .go | .abort | .recv | .evacStopComplete | .evacStreamComplete | .evacDrainComplete
  | .evacTimeout | .adopted .. | .throttle .. | .thermalShutdown .. | .powerOff | .stationDown ..
  | .loadComplete .. | .collectiveEnd .. => none
/-- The mask bit of a slot (R51). -/
def SlotKind.bitNo : SlotKind → Nat
  | .c => 0 | .a => 1 | .b => 2 | .v => 3 | .w => 4 | .m => 5 | .x => 6 | .t => 7

/-- The bundle that holds one instruction alone: the 16-bit header, then its slot (R51); an idle bundle is its header. -/
def encodeAlone (i : Instr) : Option (List Byte) :=
  match i with
  | .idleBundle k q => some (leBytes 2 (q.toNat * 256 + k.toNat * 512))
  | _ => match encodeSlot i with
    | some (k, w) => some (leBytes 2 (2 ^ k.bitNo) ++ leBytes 7 w)
    | none => none

end Sys2Proof
end

