-- ==== Sys2Proof/Machine/ArrayMath.lean ====
section
/-!
DEFINITION. The cells of the semiring array: micro-ops and programs (R168-R171), what a cell combines and accumulates (R107,
R108, R167, R170, R171), and how a row, a scaled pass, a sparse group and a STAT_C run are formed (R174-R176, R180, R181).
-/
namespace Sys2Proof.Machine

open Sys2Proof

/-! ### Programs (R168-R172) -/

/-- A cell program taken apart. -/
structure Prog where
  /-- ESRC and SSRC. -/
  fwd : Option (Nat × Nat)
  op : Nat
  x : Nat
  y : Nat
  fx : Nat
  fy : Nat
  /-- ACC operator and format. -/
  acc : Option (Nat × Nat)
  /-- LET destination and source. -/
  letOp : Option (Nat × Nat)
  /-- W carries the double lanes of ARUNS (R166). -/
  wide : Bool
deriving DecidableEq, Repr

/-- Micro-op u of a 96-bit program image (R169). -/
def microOp (img u : Nat) : Nat := bits img (24 * u + 23) (24 * u)

/-- The rank of a kind in the order FWD, COMB, ACC, LET, END. -/
def kindRank (k : Nat) : Nat := if k == 0 then 5 else k

/-- The four micro-ops stand in kind order, each kind at most once but END, and END fills the rest (R169). -/
def orderOk (ks : List Nat) : Bool :=
  ks.all (· ≤ 4) &&
  (ks.zip (ks.drop 1)).all fun (a, b) => kindRank a < kindRank b || (a == 0 && b == 0)

/-- The field limits of one micro-op (R168). -/
def microOk (m : Nat) : Bool :=
  match bits m 23 21 with
  | 0 => bits m 20 0 == 0
  | 1 => bits m 20 19 ≤ 2 && bits m 18 17 ≤ 2 && bits m 16 0 == 0
  | 2 => bits m 20 17 ≤ 11 && bits m 16 14 ≤ 4 && bits m 13 11 ≤ 4 && bits m 2 0 == 0
  | 3 => bits m 20 17 ≤ 7 && bits m 12 0 == 0
  | 4 => bits m 19 17 ≤ 5 && bits m 16 0 == 0
  | _ => false

/-- The parts of a program image, once its micro-ops are in order. -/
def parseProg (img : Nat) : Prog :=
  let ms := (List.range 4).map (microOp img)
  let ofKind (k : Nat) := ms.find? fun m => bits m 23 21 == k
  let c := (ofKind 2).getD 0
  { fwd := (ofKind 1).map fun m => (bits m 20 19, bits m 18 17)
    op := bits c 20 17, x := bits c 16 14, y := bits c 13 11, fx := bits c 10 7, fy := bits c 6 3
    acc := (ofKind 3).map fun m => (bits m 20 17, bits m 16 13)
    letOp := (ofKind 4).map fun m => (bits m 20 20, bits m 19 17), wide := false }

/-- The COMB combinations of R170. -/
def combOk (p : Prog) : Bool :=
  let both (f : Nat) := p.fx == f && p.fy == f
  let fp8 (f : Nat) := f == 11 || f == 12
  match p.op with
  | 1 => (fp8 p.fx && fp8 p.fy) || both 0 || both 4 || (p.fx == 0 && p.fy == 4) || (p.fx == 4 && p.fy == 0)
  | 2 => both 10 || both 9
  | 0 | 3 | 5 => both 8 || both 1 || both 2
  | 4 => both 1 || both 2
  | 6 | 7 => both 8 || both 1 || both 2
  | 8 | 9 | 10 => both 6
  | 11 => (p.fx == 8 || p.fx == 1 || p.fx == 2 || p.fx == 6) && p.y == 0 && p.fy == 0
  | _ => false

/-- COMB is a float operation. -/
def Prog.isFloat (p : Prog) : Bool := 8 ≤ p.fx && p.fx ≤ 12
/-- A DOT operation. -/
def Prog.isDot (p : Prog) : Bool := p.op == 1 || p.op == 2
/-- A logical operation on n32, or PASS of n32. -/
def Prog.isN32 (p : Prog) : Bool := p.fx == 6
/-- A DOT4 of FP8 operands. -/
def Prog.fp8Dot (p : Prog) : Bool := p.op == 1 && (p.fx == 11 || p.fx == 12)

/-- The ACC combinations of R171. -/
def accOk (p : Prog) : Bool :=
  match p.acc with
  | none => !p.fp8Dot
  | some (op, fa) =>
    let wide := fmtBytes p.fx ≤ fmtBytes fa
    wide && (!p.fp8Dot || (op == 0 && fa == 8)) &&
      match op with
      | 0 => (fa == 8 && p.isFloat) || ((fa == 2 || fa == 1) && !p.isFloat)
      | 1 => (fa == 2 || fa == 1) && !p.isFloat
      | 2 | 3 => (fa == 8 && p.isFloat && !p.isDot) || ((fa == 1 || fa == 2) && !p.isFloat)
      | 4 | 5 => fa == 6 && p.isN32
      | _ => !p.isDot && !(8 ≤ p.op && p.op ≤ 10)
          && ((fa == 8 && p.isFloat) || ((fa == 1 || fa == 2) && !p.isFloat))

/-- A valid program (R169). -/
def progValid (img : Nat) : Bool :=
  let ms := (List.range 4).map (microOp img)
  let ks := ms.map fun m => bits m 23 21
  ms.all microOk && orderOk ks && ks.count 2 == 1 && combOk (parseProg img) && accOk (parseProg img)

/-- The store of a fresh strand holds all END (R191). -/
def progEmpty (img : Nat) : Bool := img == 0

/-- Beats per stream element (R170). -/
def Prog.beats (p : Prog) : Nat := if p.op == 0 && p.fx == 8 then 2 else 1

/-- A scaled pass: a DOT4 program on FP8 (R171, R180). -/
def Prog.scaled (p : Prog) : Bool := p.fp8Dot

/-- Terms per lane of a source format (R166, R177); 0 for a format the array does not take. -/
def laneTerms (f : Nat) : Nat :=
  match f with
  | 0 | 4 | 11 | 12 => 4
  | 9 | 10 => 2
  | 1 | 2 | 6 | 8 => 1
  | _ => 0

/-! ### Values -/

/-- A combine result: an exact float or an exact integer. -/
inductive TV where
  | f (x : Num)
  | i (z : Int)
deriving DecidableEq, Repr

/-- A value with its event bits (R167). -/
structure Ev (α : Type) where
  val : α
  nan : Bool
  sat : Bool
deriving DecidableEq, Repr

/-- Term u of a lane of `w`-byte terms. -/
def laneTerm (w u lane : Nat) : Nat := elemOf w u lane

/-- A NaN formed from operands that held none (R167). -/
def newNaN (r : Num) (ops : List Num) : Bool := r.isNaN && !ops.any Num.isNaN

/-- The exact sum of floats, with +0 for an exact zero (R100, R111). -/
def exactSum (l : List Num) : Num :=
  match l.foldl (fun acc x => (Num.add .rne acc x).1) (.fin false 0 0) with
  | .fin _ 0 e => .fin false 0 e
  | x => x

/-- The exact sum of the products of float terms, with its event. -/
def dotFloat (ps : List (Num × Num)) : Ev TV :=
  let s := exactSum (ps.map fun p => (Num.mul p.1 p.2).1)
  ⟨.f s, newNaN s (ps.flatMap fun p => [p.1, p.2]), false⟩

/-- A lane value as a float or an integer of a format. -/
def laneValue (f lane : Nat) : TV := if 8 ≤ f then .f (floatValue f lane) else .i (intValue f lane)

/-- A lane of 32 bits that holds a TV in format `f`: floats round to f32, integers wrap (R166, R167). -/
def toLane (f : Nat) : TV → Nat
  | .f x => rne32 x
  | .i z => if f == 1 then wrap 32 (signedOf 16 (wrap 16 z)) else wrap 32 z

/-- SADD towards +infinity or -infinity (R107): the result and whether it counts as a saturation. -/
def saddInf (f : Nat) (up : Bool) (a b : Int) : Int × Bool :=
  let lo := intMin f
  let hi := intMax f
  if up then
    if a == hi || b == hi then (hi, false)
    else if a + b ≥ hi then (hi, true) else if a + b < lo then (lo, true) else (a + b, false)
  else
    if a == lo || b == lo then (lo, false)
    else if a + b ≤ lo then (lo, true) else if a + b > hi then (hi, true) else (a + b, false)

/-- SADD clamped to the range of the format, nothing infinite. -/
def saddClamp (f : Nat) (a b : Int) : Int × Bool :=
  let z := intClamp f (a + b)
  (z, z != a + b)

/-- The SADD of a COMB by the ACC that follows it (R170). -/
def saddFor (f : Nat) (acc : Option (Nat × Nat)) (a b : Int) : Int × Bool :=
  match acc with
  | none => saddInf f true a b
  | some (op, _) =>
    if op == 2 || op == 6 then saddInf f true a b
    else if op == 3 || op == 7 then saddInf f false a b
    else saddClamp f a b

/-- The chosen operand of a float MIN or MAX (R99). -/
def numMinMax (isMax : Bool) (a b : Num) (na nb : Bool) : Num :=
  match a, b with
  | .nan, .nan => .nan
  | .nan, b => b
  | a, .nan => a
  | a, b =>
    let below := match Num.order a b with
      | .lt => true
      | .gt => false
      | .eq => na && !nb
    if isMax then (if below then b else a) else (if below then a else b)

/-- COMBINE (R170), of two lanes. -/
def combine (p : Prog) (x y : Nat) : Ev TV :=
  let w := fmtBytes p.fx
  match p.op with
  | 1 =>
    if p.isFloat then
      dotFloat ((List.range 4).map fun u => (floatValue p.fx (laneTerm 1 u x), floatValue p.fy (laneTerm 1 u y)))
    else
      ⟨.i (((List.range 4).map fun u => intValue p.fx (laneTerm 1 u x) * intValue p.fy (laneTerm 1 u y)).sum), false, false⟩
  | 2 => dotFloat ((List.range 2).map fun u => (floatValue p.fx (laneTerm 2 u x), floatValue p.fy (laneTerm 2 u y)))
  | 8 => ⟨.i ((x &&& y : Nat) : Int), false, false⟩
  | 9 => ⟨.i ((x ||| y : Nat) : Int), false, false⟩
  | 10 => ⟨.i ((x ^^^ y : Nat) : Int), false, false⟩
  | 11 => ⟨laneValue p.fx x, false, false⟩
  | _ =>
    if p.isFloat then
      let a := floatValue p.fx x
      let b := floatValue p.fx y
      let r := match p.op with
        | 0 => (Num.mul a b).1
        | 3 => (Num.add .rne a b).1
        | 5 => (Num.add .rne a b.neg).1
        | 6 => numMinMax false a b (signBit p.fx x) (signBit p.fx y)
        | _ => numMinMax true a b (signBit p.fx x) (signBit p.fx y)
      ⟨.f r, newNaN r [a, b], false⟩
    else
      let a := intValue p.fx x
      let b := intValue p.fx y
      match p.op with
      | 0 => ⟨.i (signedOf 32 (wrap 32 (a * b))), false, false⟩
      | 3 => ⟨.i (signedOf (8 * w) (wrap (8 * w) (a + b))), false, false⟩
      | 5 => ⟨.i (signedOf (8 * w) (wrap (8 * w) (a - b))), false, false⟩
      | 4 => let (z, s) := saddFor p.fx p.acc a b; ⟨.i z, false, s⟩
      | 6 => ⟨.i (min a b), false, false⟩
      | _ => ⟨.i (max a b), false, false⟩

/-- The identity that ACLR writes for an ACC operator and format (R171). -/
def accIdentity (op fa : Nat) : Nat :=
  match op with
  | 2 | 6 => if fa == 8 then 0x7F800000 else if fa == 1 then 0x7FFF else 0x7FFFFFFF
  | 3 | 7 => if fa == 8 then 0xFF800000 else if fa == 1 then 0x8000 else 0x80000000
  | 5 => 0xFFFFFFFF
  | _ => 0

/-- An integer combine result brought to FA (R171): signed within FA's width. -/
def bringTo (fa : Nat) (z : Int) : Int :=
  if intMin fa ≤ z && z ≤ intMax fa then z else signedOf (8 * fmtBytes fa) (wrap (8 * fmtBytes fa) z)

/-- Whether the pair (value, tag) on the left is at least as good (R108). DESIGN CHOICE (log 53): -0 and +0 count as equal values, so
that the tag decides; R99 does not name CSEL among the operations that order them. -/
def cselKeeps (isMax : Bool) (o : Ordering) (naL naR : Bool) (tl tr : Nat) : Bool :=
  if naL && naR then tl ≤ tr
  else if naL then false
  else if naR then true
  else match o with
    | .eq => tl ≤ tr
    | .lt => !isMax
    | .gt => isMax

/-- ACCUM (R167, R171) for the operators other than CSEL: `l` holds a lane in FA; the answer is a lane in FA. -/
def accum (op fa l : Nat) (tv : TV) : Ev Nat :=
  match tv with
  | .f x =>
    let lv := floatValue 8 l
    let r := match op with
      | 0 => (Num.add .rne lv x).1
      | 2 => numMinMax false lv x lv.isNeg x.isNeg
      | _ => numMinMax true lv x lv.isNeg x.isNeg
    ⟨rne32 r, newNaN r [lv, x], false⟩
  | .i z =>
    let lv := intValue fa l
    let out (v : Int) (s : Bool) : Ev Nat := ⟨toLane fa (.i v), false, s⟩
    match op with
    | 0 => out (signedOf (8 * fmtBytes fa) (wrap (8 * fmtBytes fa) (lv + bringTo fa z))) false
    | 1 => let (v, s) := saddClamp fa lv z; out v s
    | 2 => out (min lv (bringTo fa z)) false
    | 3 => out (max lv (bringTo fa z)) false
    | 4 => ⟨l ||| wrap 32 z, false, false⟩
    | _ => ⟨l &&& wrap 32 z, false, false⟩

/-- CSEL of (c0, c1) with (tv, k): the kept value lane and tag (R108, R171). DEDUCED (log 53): a float tv is compared as the f32 lane that
c0 would hold, not as the exact value of R167. -/
def csel (isMax : Bool) (fa c0 c1 : Nat) (tv : TV) (k : Nat) : Nat × Nat :=
  match tv with
  | .f x =>
    let a := floatValue 8 c0
    let y := floatValue 8 (rne32 x)
    let keep := cselKeeps isMax (Num.order a y) a.isNaN y.isNaN c1 k
    let v := if keep then c0 else rne32 x
    ((if a.isNaN && y.isNaN then canonNaN 8 else v), if keep then c1 else k)
  | .i z =>
    let v := bringTo fa z
    let keep := cselKeeps isMax (compare (intValue fa c0) v) false false c1 k
    if keep then (c0, c1) else (toLane fa (.i v), k)

/-! ### One beat of a cell (R167) -/

/-- The cell's locals and events. -/
structure Cell where
  c0 : Nat
  c1 : Nat
  nan : Bool
  sat : Bool
deriving DecidableEq, Repr

/-- A lane with the event bits that travel with it. -/
abbrev Lane := Ev Nat

/-- A lane without events. -/
def plainLane (v : Nat) : Lane := ⟨v, false, false⟩

/-- SRC of a COMB: 0 W, 1 N, 2 bl, 3 c0, 4 c1. -/
def combSrc (code w n bl : Nat) (c : Cell) : Nat :=
  match code with
  | 0 => w
  | 1 => n
  | 2 => bl
  | 3 => c.c0
  | _ => c.c1

/-- The format in which tv or rv leaves a cell as a lane. -/
def outFmt (p : Prog) : Nat :=
  match p.acc with
  | some (_, fa) => fa
  | none => if p.isFloat then 8 else if p.op == 0 || p.isDot then 2 else p.fx

/-- LET of a beat, from the W and N lanes and the lanes of tv and rv (R167). -/
def letCell (p : Prog) (w n tv rv : Nat) (c : Cell) : Cell :=
  match p.letOp with
  | none => c
  | some (dst, src) =>
    let v := match src with
      | 0 => if p.wide then Config.wideLane w % 2 ^ 32 else w
      | 1 => n
      | 2 => tv
      | 3 => rv
      | 4 => c.c0
      | _ => c.c1
    if dst == 0 then { c with c0 := v } else { c with c1 := v }

/-- One beat of an enabled cell: the new locals, E and S (R167). `tvOf` forms the combine result: of the operands that COMB names, or,
in ARUNS, of the double lane and the compressed weights (R181). -/
def cellBeat (p : Prog) (statC : Bool) (tvOf : Nat → Nat → Ev TV) (w : Nat) (n : Lane) (bl tag : Nat) (c : Cell) :
    Cell × Nat × Lane :=
  let tv := if p.wide then tvOf w bl else tvOf (combSrc p.x w n.val bl c) (combSrc p.y w n.val bl c)
  let tvLane := toLane (if p.isFloat then 8 else if p.op == 0 || p.isDot then 2 else p.fx) tv.val
  let (rv, c) : Lane × Cell :=
    match p.acc with
    | none => (⟨tvLane, tv.nan, tv.sat⟩, if statC then { c with nan := c.nan || tv.nan, sat := c.sat || tv.sat } else c)
    | some (op, fa) =>
      if op == 6 || op == 7 then
        let (v, t) := csel (op == 7) fa c.c0 c.c1 tv.val tag
        (⟨v, tv.nan, tv.sat⟩, { c with c0 := v, c1 := t, nan := c.nan || tv.nan, sat := c.sat || tv.sat })
      else
        let l := if statC then c.c0 else n.val
        let r := accum op fa l tv.val
        let nan := r.nan || tv.nan || (!statC && n.nan)
        let sat := r.sat || tv.sat || (!statC && n.sat)
        if statC then (⟨r.val, nan, sat⟩, { c with c0 := r.val, nan := c.nan || nan, sat := c.sat || sat })
        else (⟨r.val, nan, sat⟩, c)
  let c := letCell p w n.val tvLane rv.val c
  let pick (code other : Nat) : Nat := match code with
    | 0 => other
    | 1 => tvLane
    | _ => rv.val
  let e := match p.fwd with
    | none => w
    | some (es, _) => pick es w
  let s : Lane :=
    if statC then
      match p.fwd with
      | none => n
      | some (_, ss) => if ss == 0 then n else plainLane (pick ss n.val)
    else rv
  (c, e, s)

/-- The locals of a cell of an array. -/
def cellAt (c0 c1 ev : Cells) (key : Nat) : Cell :=
  let e := (tabGet ev key).getD 0
  ⟨(tabGet c0 key).getD 0, (tabGet c1 key).getD 0, e % 2 == 1, e / 2 == 1⟩

/-- Sets or drops a cell value, so that 0 is never listed. -/
def cellSet (t : Cells) (key v : Nat) : Cells := if v == 0 then tabDel t key else tabSet t key v

/-- The locals of all cells. -/
structure Locals where
  c0 : Cells
  c1 : Cells
  ev : Cells
deriving DecidableEq, Repr

/-- Reads one cell. -/
def Locals.get (l : Locals) (key : Nat) : Cell := cellAt l.c0 l.c1 l.ev key
/-- Writes one cell. -/
def Locals.put (l : Locals) (key : Nat) (c : Cell) : Locals :=
  ⟨cellSet l.c0 key c.c0, cellSet l.c1 key c.c1, cellSet l.ev key (bit01 c.nan + 2 * bit01 c.sat)⟩

/-- A cell row in one beat, from column j eastward: `ns` are the N inputs of the columns still to come, `tvOf j` the combine of
column j and `bl j` its latch. The answer is the S outputs. -/
def rowBeat (p : Prog) (statC : Bool) (i tag : Nat) (tvOf : Nat → Nat → Nat → Ev TV) (bl : Nat → Nat) (present : Nat → Bool) :
    Nat → Nat → List Lane → Locals → List Lane × Locals
  | _, _, [], l => ([], l)
  | j, w, n :: ns, l =>
    if present j then
      let key := 128 * i + j
      let (c, e, s) := cellBeat p statC (tvOf j) w n (bl j) tag (l.get key)
      let (ss, l') := rowBeat p statC i tag tvOf bl present (j + 1) e ns (l.put key c)
      (s :: ss, l')
    else
      let (ss, l') := rowBeat p statC i tag tvOf bl present (j + 1) w ns l
      (n :: ss, l')

/-- STAT_B: the partials of one output row (R174): the W lanes of the enabled cell rows, none where absent, from row i down. -/
def statBRow (p : Prog) (lat : Latches) (tvOf : Nat → Nat → Nat → Nat → Ev TV) :
    Nat → List (Option Nat) → List Lane → Locals → List Lane × Locals
  | _, [], ns, l => (ns, l)
  | i, none :: ws, ns, l => statBRow p lat tvOf (i + 1) ws ns l
  | i, some w :: ws, ns, l =>
    let (ns', l') := rowBeat p false i 0 (tvOf i) (fun j => (tabGet lat.cells (128 * i + j)).getD 0) (fun _ => true) 0 w ns l
    statBRow p lat tvOf (i + 1) ws ns' l'

/-- The N input of cell row 0: the identity of ACC, or 0 (R174). -/
def northLane (p : Prog) : Lane :=
  match p.acc with
  | some (op, fa) => plainLane (toLane fa (laneValue fa (accIdentity op fa)))
  | none => plainLane 0

/-- The combine of a sparse cell: a double lane against the compressed weights of its group code (R181). -/
def sparseCombine (p : Prog) (code : Nat) (w2 bl : Nat) : Ev TV :=
  let idx (u : Nat) := bits code (3 * u + 2) (3 * u)
  if p.isFloat then
    dotFloat ((List.range 4).map fun u => (floatValue p.fx (elemOf 1 (idx u) w2), floatValue p.fy (elemOf 1 u bl)))
  else
    ⟨.i (((List.range 4).map fun u => intValue p.fx (elemOf 1 (idx u) w2) * intValue p.fy (elemOf 1 u bl)).sum), false, false⟩

/-- A well-formed group code (R182). -/
def sparseOk (code : Nat) : Bool :=
  bits code 15 12 == 0 && bits code 2 0 < bits code 5 3 && bits code 5 3 < bits code 8 6 && bits code 8 6 < bits code 11 9

/-! ### Scaled passes (R110, R180) -/

/-- The exact sum of the float products of a band, with its event. -/
def bandSum (ps : List (Num × Num)) : Ev Num :=
  let s := exactSum (ps.map fun p => (Num.mul p.1 p.2).1)
  ⟨s, newNaN s (ps.flatMap fun p => [p.1, p.2]), false⟩

/-- t of a band: RNE32(pexact * RNE32(sa * sw)), with its event (R110, R111). -/
def bandTerm (ps : List (Num × Num)) (sa sw : Nat) : Ev Nat :=
  let b := bandSum ps
  let a := floatValue 8 sa
  let w := floatValue 8 sw
  let s := floatValue 8 (rne32 (Num.mul a w).1)
  let t := (Num.mul b.val s).1
  ⟨rne32 t, t.isNaN && !(ps.any fun q => q.1.isNaN || q.2.isNaN) && !a.isNaN && !w.isNaN, false⟩

/-- acc := RNE32(acc + t) over the bands in order, with its event. -/
def addBands (acc : Nat) (ts : List Nat) : Ev Nat :=
  ts.foldl (fun st t =>
    let a := floatValue 8 st.val
    let b := floatValue 8 t
    let r := (Num.add .rne a b).1
    ⟨rne32 r, st.nan || newNaN r [a, b], false⟩) ⟨acc, false, false⟩

/-- An accumulator element updated by a partial in order (R174): operator 8 adds band terms, 9 stores. -/
def updateAcc (op fa old : Nat) (vals : List Nat) : Ev Nat :=
  if op == 8 then addBands old vals
  else vals.foldl (fun st v =>
    if op == 9 then ⟨v, st.nan, st.sat⟩
    else
      let r := accum op fa (toLane fa (laneValue fa st.val)) (laneValue fa v)
      ⟨r.val, st.nan || r.nan, st.sat || r.sat⟩) ⟨old, false, false⟩

/-! ### STAT_C (R175, R176) -/

/-- A row of cells in one beat of a STAT_C run under ROW skew: the A lane enters from the west, the B lanes from the north. -/
def statCElem (p : Prog) (tag : Nat) (bl : Nat → Nat) : Nat → List (Option Nat) → List (Option Lane) → Locals → Locals
  | _, [], _, l => l
  | i, wl :: ws, ns, l =>
    let rec go (j : Nat) (w : Option Nat) : List (Option Lane) → Locals → List (Option Lane) × Locals
      | [], l => ([], l)
      | n :: rest, l =>
        match w, n with
        | some w', some n' =>
          let key := 128 * i + j
          let (c, e, s) := cellBeat p true (combine p) w' n' (bl key) tag (l.get key)
          let (ss, l') := go (j + 1) (some e) rest (l.put key c)
          (some s :: ss, l')
        | _, _ =>
          let (ss, l') := go (j + 1) w rest l
          (n :: ss, l')
    let (ns', l') := go 0 wl ns l
    statCElem p tag bl (i + 1) ws ns' l'

/-- The lanes that stand at the outputs of the cells after a beat of the NONE skew: E with its element index, and S. -/
structure Beat where
  e : Tab (Nat × Nat)
  s : Tab (Nat × Lane)
deriving DecidableEq, Repr

/-- One beat τ of a STAT_C run without skew (R176): cell (i, j) meets A element τ - j with B element τ - i; the tag of the first A element
is `tag0`. -/
def noneBeat (p : Prog) (m tag0 : Nat) (bl : Nat → Nat) (alane blane : Nat → Nat → Option Nat) (t : Nat) (prev : Beat) (keys : List Nat) (l : Locals) :
    Beat × Locals :=
  keys.foldl (fun (acc : Beat × Locals) key =>
    let i := key / 128
    let j := key % 128
    let w : Option (Nat × Nat) := if j == 0 then (if t < m then (alane t i).map fun v => (t, v) else none) else tabGet prev.e (key - 1)
    let n : Option (Nat × Lane) :=
      if i == 0 then (if t < m then (blane t j).map fun v => (t, plainLane v) else none) else tabGet prev.s (key - 128)
    let putE (b : Beat) := match w with
      | some x => { b with e := tabSet b.e key x }
      | none => b
    let putS (b : Beat) := match n with
      | some x => { b with s := tabSet b.s key x }
      | none => b
    match w, n with
    | some (a, wv), some (k, nv) =>
      let (c, e, s) := cellBeat p true (combine p) wv nv (bl key) ((tag0 + a) % 2 ^ 32) (acc.2.get key)
      ({ e := tabSet acc.1.e key (a, e), s := tabSet acc.1.s key (k, s) }, acc.2.put key c)
    | _, _ => (putS (putE acc.1), acc.2)) (⟨[], []⟩, l)

/-- A STAT_C run without skew, over all its beats. -/
def noneRun (p : Prog) (m tag0 : Nat) (bl : Nat → Nat) (alane blane : Nat → Nat → Option Nat) : Nat → Nat → Beat → Locals → Locals
  | 0, _, _, l => l
  | n + 1, t, b, l =>
    let (b', l') := noneBeat p m tag0 bl alane blane t b (List.range 16384) l
    noneRun p m tag0 bl alane blane n (t + 1) b' l'

end Sys2Proof.Machine
end

