-- ==== Sys2Proof/Machine/SpoolOps.lean ====
section
/-!
DEFINITION. What the stream engine does (R142-R151): descriptors, element addresses, fetching, popping, pushing and writing.
-/
namespace Sys2Proof.Machine

open Sys2Proof

/-! ### Descriptor fields (R143) -/

def spKind (d : Nat) : Nat := bits d 67 64
def spFmt (d : Nat) : Nat := bits d 71 68
def spBase (d : Nat) : Nat := bits d 56 0
def spFaultm (d : Nat) : Bool := bit d 72
def spSene (d : Nat) : Bool := bit d 73
def spIdx (d : Nat) : Nat := bits d 83 80
def spRows (d : Nat) : Nat := bits d 95 84
def spFill (d : Nat) : Nat := bits d 127 96
def spBound (d : Nat) : Nat := bits d 175 128
def spSent (d : Nat) : Nat := bits d 223 176
def spExt (d k : Nat) : Nat := bits d (279 + 24 * k) (256 + 24 * k) + 1
def spStride (d k : Nat) : Int := signedOf 40 (bits d (391 + 40 * k) (352 + 40 * k))

/-- Kinds 1 and 3 are store spools. -/
def spIsStore (d : Nat) : Bool := spKind d == 1 || spKind d == 3
/-- Kinds 2 and 3 are INDIRECT. -/
def spIsIndirect (d : Nat) : Bool := spKind d == 2 || spKind d == 3

/-- N of R145. -/
def spTotal (d : Nat) : Nat := spExt d 0 * spExt d 1 * spExt d 2 * spExt d 3

/-- The n-th address of R145, with i0 running fastest. -/
def spAddr (d n : Nat) : Nat :=
  let i0 := n % spExt d 0
  let r1 := n / spExt d 0
  let i1 := r1 % spExt d 1
  let r2 := r1 / spExt d 1
  let i2 := r2 % spExt d 2
  let i3 := r2 / spExt d 2
  wrap 64 (spBase d + i0 * spStride d 0 + i1 * spStride d 1 + i2 * spStride d 2 + i3 * spStride d 3)

/-- The address of index j's item or row of an INDIRECT spool (R147). -/
def spIndexed (d j : Nat) : Nat := wrap 64 (spBase d + j * spStride d 0)

/-- A 128-byte element of one repeated item. -/
def fillElem (w v : Nat) : Nat := ofElems w (List.replicate (128 / w) v)

/-- How many elements a DIFF spool yields (R145). -/
def diffTotal (d : Nat) : Nat := let p := 128 / fmtBytes (spFmt d); (spTotal d - 1 + p - 1) / p

/-! ### Bank formats (R128-R130) -/

/-- The places of a bank in a window: its number, its start and the offset within it. -/
def bankOf (pa : Nat) : Nat × Nat × Nat :=
  let off := (pa - 2 ^ 40) % 0x800000
  (off / 0x40000, pa - off % 0x40000, off % 0x40000)

/-- The format fields of a bank are usable (R130). -/
def bankOk (bf : Word) : Bool :=
  let f := bits bf.toNat 3 0
  let m := bits bf.toNat 9 8
  f ≤ 13 && m != 3 && (m == 0 || f == 11 || f == 12)

/-- The bytes of the data area of a bank (R129). -/
def dataEnd (bf : Word) : Nat := if bits bf.toNat 9 8 == 0 then 0x40000 else bits bf.toNat 31 20 * 64

/-- The bank of a core's scratchpad that a physical address lies in, and its format word (R128-R130). -/
def bankAt (s : State) (pa : Nat) : Option (Nat × Word) :=
  match s.space pa with
  | .scratch n => let (b, start, _) := bankOf pa; some (start, (s.core n).bfmt.getD b 4)
  | _ => none

/-- Every bank format that is not the reset value, by the physical start of its bank: what a formatted consumer captures (R130). -/
def bankFormats (s : State) : Tab Word :=
  s.cores.flatMap fun (n, c) => (List.range 16).filterMap fun b =>
    let v := c.bfmt.getD b 4
    if v == 4 || 512 ≤ n then none else some (windowBase n + b * 0x40000, v)

/-- The captured format of the bank that starts at an address. -/
def bankFmt (banks : Tab Word) (start : Nat) : Word := (tabGet banks start).getD 4

/-- Whether a stretch of bytes within one space touches a bank whose captured format fails it: unusable fields, or bytes at or beyond
SOFF x 64 of a scaled bank (R130). -/
def badStretch (s : State) (banks : Tab Word) (p : Nat × Nat) : Bool :=
  match s.space p.1 with
  | .scratch _ =>
    [p.1, p.1 + p.2 - 1].any fun a =>
      let start := (bankOf a).2.1
      let bf := bankFmt banks start
      !bankOk bf || start + dataEnd bf < min (p.1 + p.2) (start + 0x40000)
  | _ => false

/-- Whether bytes that an agent reads or writes fail a captured bank format (R130). -/
def badData (s : State) (g : Agent) (banks : Tab Word) (va n : Nat) (need : Need) : Bool :=
  match (engineAccess s g va n need).1 with
  | .ok a => a.pieces.any fun p => badStretch s banks (homePiece s p)
  | .error _ => false

/-! ### Reading for the engine -/

/-- The stream engine at work for a spool: it uses the privilege and the path entropy that SCFG captured (R134, R285, log 16). -/
def spoolAgent (key : Nat) (st : Strand) (sp : Spool) : Agent := ⟨keyCore key, st.ident.asid, sp.priv, sp.fent, st.ident.uid⟩

/-- A read on path G for a spool of the strand of a context: a fault names the address of the element or item asked for (R146). -/
def gRead (s : State) (key : Nat) (sp : Spool) (va n : Nat) : Except Raise (List Byte) × State :=
  match s.strandAt key with
  | none => (.error ⟨cPage, w64 va, false⟩, s)
  | some st =>
    match engineRead s (spoolAgent key st sp) va n with
    | (.error r, s') => (.error ⟨r.cause, w64 va, false⟩, s')
    | out => out

/-- The physical address of a virtual address of the strand of a context, when it maps, where its bytes are served (R120). -/
def enginePhys (s : State) (key va : Nat) : Option Nat :=
  match s.strandAt key with
  | none => none
  | some st => (engineMap s (agentFor key st) va).1.map fun m => (homePiece s (m.phys va, 1)).1

/-- The scratchpad bank that holds BASE and its captured format (R130). -/
def baseBank (s : State) (key : Nat) (sp : Spool) : Option (Nat × Word) :=
  match enginePhys s key (spBase sp.desc) with
  | none => none
  | some pa => (bankAt s pa).map fun b => (b.1, bankFmt sp.banks b.1)

/-- Reads one stretch of a spool's stream, with the check of the banks that it touches (R130, R146). -/
def spoolRead (s : State) (key : Nat) (sp : Spool) (va n : Nat) : Except Raise (List Byte) × State :=
  match s.strandAt key, gRead s key sp va n with
  | _, (.error r, s') => (.error r, s')
  | none, out => out
  | some st, (.ok b, s') =>
    (if badData s' (spoolAgent key st sp) sp.banks va n .r then .error ⟨cSpoolConfig, w64 va, false⟩ else .ok b, s')

/-- Index j of an index spool's stream: `some none` at the end of the stream, `none` while it is not yet published; the last element of a
DIFF stream is padded with zeros (R145, R147). DEDUCED (log 64): an index is read by its own bytes, so that a fault elsewhere in its element
does not concern it, and TINFO names its own address. -/
def indexAt (s : State) (key : Nat) (sp : Spool) (j : Nat) : Except Raise (Option (Option Nat)) × State :=
  let d := sp.desc
  let w := fmtBytes (spFmt d)
  if spKind d == 6 then
    if j < sp.ids then
      match spoolRead s key sp (sp.area + 64 + 4 * j) 4 with
      | (.error r, s') => (.error r, s')
      | (.ok b, s') => (.ok (some (some (leNat b))), s')
    else if sp.closed then
      (match sp.failure with
       | some r => .error r
       | none => .ok (some none), s)
    else (.ok none, s)
  else if spKind d == 4 then
    if j + 1 < spTotal d then
      match spoolRead s key sp (spAddr d j) w with
      | (.error r, s') => (.error r, s')
      | (.ok a, s') =>
        match spoolRead s' key sp (spAddr d (j + 1)) w with
        | (.error r, s'') => (.error r, s'')
        | (.ok b, s'') => (.ok (some (some (wrap (8 * w) ((leNat b : Int) - leNat a)))), s'')
    else (.ok (some (if j < diffTotal d * (128 / w) then some 0 else none)), s)
  else
    let p := 128 / w
    if j < spTotal d * p then
      match spoolRead s key sp (spAddr d (j / p) + j % p * w) w with
      | (.error r, s') => (.error r, s')
      | (.ok b, s') => (.ok (some (some (leNat b))), s')
    else (.ok (some none), s)

/-- What an index decides (R147, R148). -/
inductive IndexFate where
  | ends | fill | bound (j : Nat) | use (j : Nat)
deriving DecidableEq, Repr

/-- The decision of R147 for an index. -/
def indexFate (d : Nat) (j : Option Nat) : IndexFate :=
  match j with
  | none => .ends
  | some j =>
    if spSene d && j == spSent d then .ends
    else if spBound d ≤ j then (if spFaultm d then .bound j else .fill)
    else .use j

/-- An element that faults when it is popped. -/
def badElem (r : Raise) : SpoolElem := ⟨0, some r, none, [], 0⟩

/-- Gathers the items of an INDIRECT element, `n` still to come; `none` while an index is not published. The answer is the
items, whether the stream ended, and the fault met (R147). -/
def gatherItems (key : Nat) (sp ix : Spool) (w : Nat) : Nat → Nat → State → Option (List Nat × Bool × Option Raise) × State
  | 0, _, s => (some ([], false, none), s)
  | n + 1, j, s =>
    match indexAt s key ix j with
    | (.error r, s') => (some ([], false, some r), s')
    | (.ok none, s') => (none, s')
    | (.ok (some ij), s') =>
      let continue' (item : Nat) (s2 : State) : Option (List Nat × Bool × Option Raise) × State :=
        match gatherItems key sp ix w n (j + 1) s2 with
        | (none, s3) => (none, s3)
        | (some (items, e, f), s3) => (some (item :: items, e, f), s3)
      match indexFate sp.desc ij with
      | .ends => (some ([], true, none), s')
      | .bound k => (some ([], false, some ⟨cSpoolBound, w64 k, false⟩), s')
      | .fill => continue' (spFill sp.desc) s'
      | .use k =>
        match spoolRead s' key sp (spIndexed sp.desc k) w with
        | (.error r, s2) => (some ([], false, some r), s2)
        | (.ok b, s2) => continue' (leNat b) s2

/-- Reads the items of a DIFF element: `n + 1` items from number i, as their differences (R145). -/
def diffItems (key : Nat) (sp : Spool) (w : Nat) : Nat → Nat → State → Except Raise (List Nat) × State
  | 0, _, s => (.ok [], s)
  | n + 1, i, s =>
    match indexAt s key sp i with
    | (.error r, s') => (.error r, s')
    | (.ok (some (some v)), s') =>
      match diffItems key sp w n (i + 1) s' with
      | (.error r, s2) => (.error r, s2)
      | (.ok l, s2) => (.ok (v :: l), s2)
    | (.ok _, s') => (.ok [], s')

/-- The next element of a load spool's stream: `none` while it cannot be formed yet, `some none` at the end (R145-R149). -/
def nextElem (s : State) (key : Nat) (st : Strand) (sp : Spool) : Option (Option SpoolElem) × State :=
  let d := sp.desc
  let w := fmtBytes (spFmt d)
  let m := sp.moved
  match spKind d with
  | 0 =>
    if spTotal d ≤ m then (some none, s)
    else
      let a := spAddr d m
      match spoolRead s key sp a 128 with
      | (.error r, s') => (some (some (badElem r)), s')
      | (.ok b, s') => (some (some ⟨leNat b, none, some a, [], 0⟩), s')
  | 4 =>
    if diffTotal d ≤ m then (some none, s)
    else
      let p := 128 / w
      match diffItems key sp w (min p (spTotal d - 1 - m * p)) (m * p) s with
      | (.error r, s') => (some (some (badElem r)), s')
      | (.ok l, s') => (some (some ⟨ofElems w l, none, some (spAddr d (m * p)), [], 0⟩), s')
  | 2 =>
    match st.spools.getD (spIdx d) none with
    | none => (some none, s)
    | some ix =>
      if spRows d == 0 then
        let p := 128 / w
        match gatherItems key sp ix w p (sp.idxBase + m * p) s with
        | (none, s') => (none, s')
        | (some (_, _, some r), s') => (some (some (badElem r)), s')
        | (some (items, ended, none), s') =>
          if items.isEmpty then (some none, s')
          else
            let first := match (indexAt s key ix (sp.idxBase + m * p)).1 with
              | .ok (some ij) => (match indexFate d ij with
                | .use k => some (spIndexed d k)
                | _ => none)
              | _ => none
            let full := items ++ List.replicate (p - items.length) (spFill d)
            (some (some ⟨ofElems w full, none, first, if ended then List.replicate items.length none else [], 0⟩), s')
      else
        match indexAt s key ix (sp.idxBase + m / spRows d) with
        | (.error r, s') => (some (some (badElem r)), s')
        | (.ok none, s') => (none, s')
        | (.ok (some ij), s') =>
          match indexFate d ij with
          | .ends => (some none, s')
          | .bound k => (some (some (badElem ⟨cSpoolBound, w64 k, false⟩)), s')
          | .fill => (some (some ⟨fillElem w (spFill d), none, none, [], 0⟩), s')
          | .use k =>
            let a := spIndexed d k + 128 * (m % spRows d)
            match spoolRead s' key sp a 128 with
            | (.error r, s2) => (some (some (badElem r)), s2)
            | (.ok b, s2) => (some (some ⟨leNat b, none, some a, [], 0⟩), s2)
  | 5 | 6 =>
    if m < sp.published then
      let a := sp.area + 128 * m + (if spKind d == 6 then 64 else 0)
      -- the last element of a merge holds the pairs up to the terminal one; what follows is free
      let have' := if spKind d == 5 then min 128 (8 * sp.ids - 128 * m) else 128
      match spoolRead s key sp a have' with
      | (.error r, s') => (some (some (badElem r)), s')
      | (.ok b, s') =>
        let v := if have' == 128 then leNat b else leNat b + 2 ^ (8 * have') * (Config.mergePad s'.ticks m % 2 ^ (1024 - 8 * have'))
        (some (some ⟨v, none, some a, [], 0⟩), s')
    else if sp.closed then
      match sp.failure with
      | some r => (some (some (badElem r)), s)
      | none => (some none, s)
    else (none, s)
  | _ => (some none, s)

/-- Puts a spool into the strand of a context. -/
def setSpool (s : State) (key n : Nat) (sp : Option Spool) : State :=
  match s.strandAt key with
  | none => s
  | some st => s.setStrandAt key { st with spools := st.spools.setIfInBounds n sp }

/-- Whether a spool is bound as the index spool of a configured INDIRECT spool (R147). -/
def isBound (st : Strand) (n : Nat) : Bool :=
  st.spools.toList.any fun o => match o with
    | some sp => spIsIndirect sp.desc && spIdx sp.desc == n
    | none => false

/-! ### Order on path G (R223) -/

/-- The byte ranges that pushed element `e`, the i-th of a store spool's buffer, is still to write. -/
def elemTargets (sp : Spool) (i : Nat) (e : SpoolElem) : List (Nat × Nat) :=
  if spKind sp.desc == 1 then [(spAddr sp.desc (sp.moved + i), 128)]
  else e.targets.filterMap fun t => t.map fun a => (a, if spRows sp.desc == 0 then fmtBytes (spFmt sp.desc) else 128)

/-- The byte ranges that pushes of the strand before a place in issue order, which have landed, are still to write. -/
def pushesHeld (st : Strand) (seq : Nat) : List (Option (Nat × Nat)) :=
  st.spools.toList.flatMap fun o => match o with
    | none => []
    | some sp => if !spIsStore sp.desc then [] else
      (sp.buf.zip (List.range sp.buf.length)).flatMap fun (e, i) => if e.seq < seq then (elemTargets sp i e).map some else []

/-- The byte ranges of those that have not landed, in landing order; none where an index is still to decide one. -/
def pushesFlying (st : Strand) (seq : Nat) : List (Option (Nat × Nat)) :=
  (List.range 16).flatMap fun n =>
    match st.spools.getD n none with
    | none => []
    | some sp =>
      let l := st.pos.line.flights.filter fun f => match f.eff with
        | .pushSpool m _ _ => m == n && sp.failure.isNone
        | _ => false
      (l.zip (List.range l.length)).filterMap fun (f, i) =>
        if seq ≤ f.seq then none else some (if spKind sp.desc == 1 then some (spAddr sp.desc (sp.count + i), 128) else none)

/-- The byte ranges that pushes before a place in issue order are still to write, those in flight among them. -/
def unwritten (st : Strand) (seq : Nat) : List (Option (Nat × Nat)) := pushesHeld st seq ++ pushesFlying st seq

/-- The physical stretches of a range of virtual addresses, at most two pages long, where its bytes are served (R120). -/
def physRange (s : State) (key : Nat) (r : Nat × Nat) : List (Nat × Nat) :=
  let k := min r.2 (65536 - r.1 % 65536)
  [(r.1, k), (r.1 + k, r.2 - k)].filterMap fun p => if p.2 == 0 then none else (enginePhys s key p.1).map fun a => (a, p.2)

/-- Whether byte ranges of the strand of a context have a byte in common, whatever their virtual addresses; one still to be decided may. -/
def rangesMeet (s : State) (key : Nat) (l : List (Option (Nat × Nat))) (r : List (Nat × Nat)) : Bool :=
  l.any fun a => match a with
    | none => true
    | some x => r.any fun y => (physRange s key x).any fun p => (physRange s key y).any fun q => p.1 < q.1 + q.2 && q.1 < p.1 + p.2

/-- The byte ranges that the next element of a load spool is read from; none where an index decides them. -/
def elemReads (sp : Spool) : Option (List (Nat × Nat)) :=
  let d := sp.desc
  let w := fmtBytes (spFmt d)
  let p := 128 / w
  match spKind d with
  | 0 => some [(spAddr d sp.moved, 128)]
  | 4 => some ((List.range (p + 1)).map fun i => (spAddr d (sp.moved * p + i), w))
  | 5 | 6 => some [(sp.area + 128 * sp.moved, 192)]
  | _ => none

/-- The fetch of a load spool configured after pushes waits until they have written the bytes it reads; that of an INDIRECT spool, until
they have written all (R223, log 52). -/
def fetchWaits (s : State) (key : Nat) (st : Strand) (sp : Spool) : Bool :=
  let l := unwritten st sp.seq
  !l.isEmpty && (match elemReads sp with
    | some r => rangesMeet s key l r
    | none => true)

/-- The write of a store spool's oldest element waits for earlier pushes of the strand to bytes that it writes too (R223). -/
def writeWaits (s : State) (key : Nat) (st : Strand) (sp : Spool) : Bool :=
  match sp.buf with
  | [] => false
  | e :: _ => let l := unwritten st e.seq; !l.isEmpty && rangesMeet s key l (elemTargets sp 0 e)

/-- Whether a load spool can fetch: room in the buffer, the stream not ended, nothing failing at its head, no earlier write to wait
for. -/
def canFetch (s : State) (key : Nat) (st : Strand) (n : Nat) : Bool :=
  match st.spools.getD n none with
  | none => false
  | some sp => !spIsStore sp.desc && !isBound st n && !sp.ended && sp.buf.length < 8
      && !(sp.buf.any fun e => e.fault.isSome) && !fetchWaits s key st sp

/-- The index of sIDX's stream that element m of an INDIRECT spool starts at (R147). -/
def indexPlace (sp : Spool) (m : Nat) : Nat :=
  sp.idxBase + (if spRows sp.desc == 0 then m * (128 / fmtBytes (spFmt sp.desc)) else m / spRows sp.desc)

/-- SPOOL_ELEMENT_FETCH: one element into the buffer, or the end of the stream (R142, R146). -/
def fetchElement (s : State) (key n : Nat) : State :=
  match s.strandAt key with
  | none => s
  | some st =>
    if !canFetch s key st n then s
    else
      match st.spools.getD n none with
      | none => s
      | some sp =>
        match nextElem s key st sp with
        | (none, s') => s'
        | (some none, s') => setSpool s' key n (some { sp with ended := true, idxEnd := some (indexPlace sp sp.moved) })
        | (some (some e), s') =>
          setSpool s' key n (some { sp with buf := sp.buf ++ [{ e with targets := [] }], moved := sp.moved + 1,
                                            ended := e.targets != []
                                            idxEnd := if e.targets == [] then none else some (indexPlace sp sp.moved + e.targets.length) })

/-- The failing element of a load spool leaves the buffer, to be fetched again (R146). -/
def refetch (sp : Spool) : Spool :=
  let good := sp.buf.takeWhile fun e => e.fault.isNone
  { sp with buf := good, moved := sp.moved - (sp.buf.length - good.length), ended := false }

/-- After RFT every load spool fetches the element that failed again (R146). -/
def refetchSpools (s : State) (key : Nat) : State :=
  match s.strandAt key with
  | none => s
  | some st =>
    let again (sp : Spool) : Spool := if !spIsStore sp.desc && sp.buf.any (fun e => e.fault.isSome) then refetch sp else sp
    s.setStrandAt key { st with spools := st.spools.map fun o => o.map again }

/-! ### Pops and pushes of the program (R69, R145-R148) -/

/-- Spool and queue operands in trap mode are a double fault with ILLEGAL_ENCODING and the bundle's address (R271). -/
def notInTrap : Op Unit := do
  let s ← get
  formCheck (!(s.strand.trapFrame.isSome && (s.issue.mode == 0 || s.issue.mode == 3))) cIllegal s.issue.pc

/-- A spool after its oldest buffered element is popped: of a store spool, which the kept elements of a VINS are popped of (R439), that is the
oldest push not yet written, and its place in the stream goes with it (log 60). -/
def Spool.popped (sp : Spool) : Spool :=
  if spIsStore sp.desc then { sp with buf := sp.buf.drop 1, moved := sp.moved + 1 } else { sp with buf := sp.buf.drop 1, count := sp.count + 1 }

/-- The stream of a spool has ended: an AFFINE store has taken its last push. -/
def Spool.over (sp : Spool) : Bool := sp.ended || (spKind sp.desc == 1 && spTotal sp.desc ≤ sp.count)

/-- A pop of a configured spool at issue (R69, R145). -/
def popLive (n : Nat) : Op Nat := do
  let s ← get
  notInTrap
  match s.strand.spools.getD n none with
  | none => failForm cSpoolConfig
  | some sp =>
    if isBound s.strand n then failForm cSpoolConfig
    else
      match sp.buf with
      | e :: _ =>
        match e.fault with
        | some r => throw (.post r n)
        | none => do
          set (setSpool s s.focus n (some sp.popped))
          pure e.data
      | [] => if sp.over then failForm cSpoolBound else throw (.freeze .spool)

/-- A reading that may fail after issue, live or in a capture or replay (R270): a capture goes past the failing item, a replay
reads it afresh. -/
def failable (live : Op Nat) : Op Nat := do
  let s ← get
  match s.issue.mode with
  | 2 =>
    match s.issue.log with
    | .value v :: rest => do
      set { s with issue := { s.issue with log := rest } }
      pure v
    | .missing :: rest => do
      set { s with issue := { s.issue with log := rest } }
      live
    | [] => live
  | 1 => fun s =>
    match live s with
    | .ok (v, s') => .ok (v, { s' with issue := { s'.issue with log := s'.issue.log ++ [.value v] } })
    | .error (.post _ _) => .ok (0, { s with issue := { s.issue with log := s.issue.log ++ [.missing] } })
    | .error e => .error e
  | 3 => scanned 0 live
  | _ => live

/-- A pop (R69, R146). -/
def popSpool (n : Nat) : Op Nat := failable (popLive n)

/-- A push on a store spool: checked and counted at issue, also where the operation is only captured, landing after the latency (R69,
R148). A spool that a write fault has exhausted takes no push. -/
def pushSpool (lat n v : Nat) : Op Unit := do
  let s ← get
  if s.issue.mode != 2 then
    notInTrap
    match s.strand.spools.getD n none with
    | none => formCheck false cSpoolConfig
    | some sp =>
      formCheck (spIsStore sp.desc) cSpoolConfig
      check (!(sp.failure.isSome || (spKind sp.desc == 1 && spTotal sp.desc ≤ sp.issued))) cSpoolBound
      modify fun s => setSpool s s.focus n (some { sp with issued := sp.issued + 1 })
  emit lat (.pushSpool n v s.issue.sword)

/-- The item addresses of one push on an INDIRECT store, ROWS = 0: `n` items from index j (R148). -/
def pairItems (key : Nat) (sp ix : Spool) : Nat → Nat → State → Option (Except Raise (List (Option Nat) × Bool)) × State
  | 0, _, s => (some (.ok ([], false)), s)
  | n + 1, j, s =>
    match indexAt s key ix j with
    | (.error r, s') => (some (.error r), s')
    | (.ok none, s') => (none, s')
    | (.ok (some ij), s') =>
      let continue' (t : Option Nat) (s2 : State) : Option (Except Raise (List (Option Nat) × Bool)) × State :=
        match pairItems key sp ix n (j + 1) s2 with
        | (some (.ok (l, e)), s3) => (some (.ok (t :: l, e)), s3)
        | r => r
      match indexFate sp.desc ij with
      | .ends => (some (.ok ([], true)), s')
      | .bound k => (some (.error ⟨cSpoolBound, w64 k, false⟩), s')
      | .fill => continue' none s'
      | .use k => continue' (some (spIndexed sp.desc k)) s'

/-- What comes of a push landing: it lands, it must wait, or it faults (R148). -/
inductive PushFate where
  | landed (s : State) | blocked (s : State) | fault (r : Raise) (s : State)

/-- A push landing in a store spool's buffer (R61, R148). A write that failed drops every later push. -/
def landPush (s : State) (key n v seq : Nat) : PushFate :=
  match s.strandAt key with
  | none => .landed s
  | some st =>
    match st.spools.getD n none with
    | none => .landed s
    | some sp =>
      let put (ts : List (Option Nat)) (idxEnd : Option Nat) (s : State) : PushFate :=
        .landed (setSpool s key n (some { sp with buf := sp.buf ++ [⟨v, none, none, ts, seq⟩], count := sp.count + 1,
                                                  ended := idxEnd.isSome, idxEnd := idxEnd }))
      if sp.failure.isSome then .landed s
      else if spKind sp.desc == 1 then (if 8 ≤ sp.buf.length then .blocked s else put [] none s)
      else if sp.ended then .fault (bare s cSpoolBound) s
      else if 8 ≤ sp.buf.length then .blocked s
      else
        match st.spools.getD (spIdx sp.desc) none with
        | none => .landed s
        | some ix =>
          let w := fmtBytes (spFmt sp.desc)
          let rows := spRows sp.desc
          let first := indexPlace sp sp.count
          let items := if rows == 0 then 128 / w else 1
          match indexAt s key ix first with
          | (.error r, s') => .fault r s'
          | (.ok none, s') => .blocked s'
          | (.ok (some none), s') => .fault (bare s' cSpoolBound) s'
          | (.ok (some (some _)), _) =>
            match pairItems key sp ix items first s with
            | (none, s') => .blocked s'
            | (some (.error r), s') => .fault r s'
            | (some (.ok (l, e)), s') =>
              -- a sentinel exhausts the spool; the items before it are written, the others discarded
              if rows == 0 then put l (if e then some (first + l.length) else none) s'
              else if e then put [] (some first) s'
              else put (l.map fun t => t.map fun a => a + 128 * (sp.count % rows)) none s'

/-- Writes the items of a pushed element to their addresses, in order (R148). -/
def writeItems (key : Nat) (sp : Spool) (w : Nat) : List (Option Nat) → Nat → Nat → State → Option Raise × State
  | [], _, _, s => (none, s)
  | t :: ts, i, v, s =>
    match t with
    | none => writeItems key sp w ts (i + 1) v s
    | some a =>
      match s.strandAt key with
      | none => (none, s)
      | some st =>
        let g := spoolAgent key st sp
        if badData s g sp.banks a w .w then (some ⟨cSpoolConfig, w64 a, false⟩, s)
        else
          match engineWrite s g a (leBytes w (elemOf w i v)) with
          | (some r, s') => (some r, s')
          | (none, s') => writeItems key sp w ts (i + 1) v s'

/-- STORE_SPOOL_WRITE: the oldest pushed element is written whole; a fault drops it and every later push, exhausts the spool and
leaves a deferred report on G (R148). -/
def writeElement (s : State) (key n : Nat) : State :=
  match s.strandAt key with
  | none => s
  | some st =>
    match st.spools.getD n none with
    | none => s
    | some sp =>
      match sp.buf with
      | [] => s
      | e :: rest =>
        if !spIsStore sp.desc || writeWaits s key st sp then s
        else
          let (w, ts) := if spKind sp.desc == 1 then (128, [some (spAddr sp.desc sp.moved)])
            else if spRows sp.desc == 0 then (fmtBytes (spFmt sp.desc), e.targets) else (128, e.targets)
          match writeItems key sp w ts 0 e.data s with
          | (none, s') => setSpool s' key n (some { sp with buf := rest, moved := sp.moved + 1 })
          | (some r, _) =>
            let s' := setSpool s key n (some { sp with buf := [], count := sp.moved, ended := true, failure := some r })
            match s'.strandAt key with
            | none => s'
            | some st => s'.setStrandAt key { st with reports := st.reports ++ [⟨1, r, false⟩] }

end Sys2Proof.Machine
end

