-- ==== Sys2Proof/Machine/Operands.lean ====
section
/-!
DEFINITION. The operand forms of the slots: guards (R70, R83), vector registers and spools (R67, R69, R75), queue endpoints
(R68, R254, R289), views (R77) and the read ports of a bundle (R71).
-/
namespace Sys2Proof.Machine

open Sys2Proof

/-! ### Guards and paths (R83) -/

/-- Whether an operation commits: its guard allows it, and its PATH is 0 or the leaf taken. A re-injected operation has
already committed. -/
def commits (t : Tag) : Op Bool := do
  let s ← get
  if s.issue.mode == 2 then pure true
  else
    let p := readPAt s s.focus s.strand s.strand.bank t.gp.toNat
    pure ((p != (t.gn == 1)) && (t.path == 0 || t.path.toNat == s.issue.leaf))

/-- An operation under its guard: squelched, it does nothing at all (R70). -/
def guarded (t : Tag) (body : Op Unit) : Op Unit := do
  if ← commits t then body else pure ()

/-- Marks a visible side effect of a task (R46). -/
def markEffect : Op Unit := do
  let s ← get
  if s.issue.mode == 1 then pure () else modStrand fun st => { st with sideEffect := true }

/-- What a user handler and trap mode forbid (R271, R274): ILLEGAL_ENCODING at issue with the bundle's address. -/
def forbidden (inTrap inUser : Bool) : Op Unit := do
  let s ← get
  let judged : Bool := s.issue.mode == 0 || s.issue.mode == 3
  formCheck (!(judged && inTrap && s.strand.trapFrame.isSome)) cIllegal s.issue.pc
  formCheck (!(judged && inUser && s.strand.trapFrame.isNone && s.strand.sys.uih)) cIllegal

/-! ### Vector operands (R67, R71, R75) -/

/-- The register-space address of vector register v, as the focus strand sees it. -/
def vectorAddr (s : State) (v : Nat) : Nat :=
  (partitionOf s s.focus).1 + bits s.strand.sys.vview.toNat 6 0 * 4096 + 128 * v

/-- Whether vector register v lies within the partition (R75). -/
def vectorFits (s : State) (v : Nat) : Bool :=
  bits s.strand.sys.vview.toNat 6 0 * 4096 + 128 * v + 128 ≤ (partitionOf s s.focus).2

/-- Reads vector register v at issue: a poisoned word among its 128 bytes is POISON as an issue fault (R430), with the register space's
physical address in TINFO (R140). An operand of an M or X slot is taken as one of a V or W slot is (DEDUCED, log 54). -/
def readVector (v : Nat) : Op Nat := do
  let s ← get
  formCheck (vectorFits s v) cView
  let a := vectorAddr s v
  touch fun d => d.isV a
  match s.poisoned a 128 with
  | some w => failAt true (faultRank cPoison) ⟨cPoison, w64 w, true⟩
  | none => pure (s.readNat a 128)

/-- Reads a vector operand: a vector register, or one element popped of a spool (R69). -/
def getV (v : VReg) : Op Nat :=
  if v.isSpool then popSpool (v.toNat - 496) else operand (readVector v.toNat)

/-- Sends a vector result: to a vector register, or as a push on a store spool (R69). -/
def putV (lat : Nat) (v : VReg) (x : Nat) : Op Unit := do
  if v.isSpool then do
    pushSpool lat (v.toNat - 496) x
    markEffect
  else do
    let a ← operand do
      let s ← get
      formCheck (vectorFits s v.toNat) cView
      touchDest fun d => d.isV (vectorAddr s v.toNat)
      pure (vectorAddr s v.toNat)
    emit lat (.bytes a (leBytes 128 x))

/-- A short vector destination as a vector operand number (R306). -/
def shortV (v : VShort) : VReg := BitVec.ofNat 9 v.toNat

/-! ### Queue endpoints (R68, R254, R288, R289) -/

/-- The skein a strand is a member of. -/
def skeinOf (s : State) (st : Strand) : Option Skein :=
  match st.ident.skein with
  | none => none
  | some id => s.skeins.find? fun k => k.id == id

/-- The member index of a strand. -/
def memberOf (st : Strand) : Nat :=
  match st.ident.work with
  | .member _ _ _ _ m => m
  | _ => 0

/-- The fields of a pipe entry (R253). -/
def pipeWM (e : Nat) : Nat := bits e 10 8
def pipeWQ (e : Nat) : Nat := bits e 7 6
def pipeRM (e : Nat) : Nat := bits e 5 3
def pipeRQ (e : Nat) : Nat := bits e 2 1

/-- The place of the pipe that a member reads from or writes to at an endpoint. -/
def findPipe (k : Skein) (write : Bool) (m q : Nat) : Option Nat :=
  k.pipes.findIdx? fun p => if write then pipeWM p.1 == m && pipeWQ p.1 == q else pipeRM p.1 == m && pipeRQ p.1 == q

/-- Whether the member at the other end of a pipe has executed DONE (R40). -/
def partnerDone (k : Skein) (m : Nat) : Bool := k.done.contains m

/-- Puts a changed skein back. -/
def State.setSkein (s : State) (k : Skein) : State :=
  { s with skeins := s.skeins.map fun x => if x.id == k.id then k else x }

/-- The address of a sluice entry (R288). -/
def sluiceEntryAddr (s : State) (asid k : Nat) : Nat := bits s.host.sltab.toNat 56 12 * 4096 + 128 * asid + 32 * k

/-- Whether a sluice entry is bound (R289). -/
def sluiceBound (e : Nat) : Bool :=
  bit e 0 && bits e 191 185 == 0 && bits e 127 68 == 0 && bits e 63 40 == 0 && bits e 15 1 == 0 && 4 ≤ bits e 67 64

/-- Pops the element of a pipe or sluice endpoint at issue. DESIGN CHOICE (log 54): R140 names no consumer here, so a ring entry in a poisoned
word is read as it stands. -/
def popQueue (q : Nat) : Op Nat := do
  if 4 ≤ q then acquireWait
  notInTrap
  let s ← get
  let st := s.strand
  if q < 4 then
    match skeinOf s st with
    | none => failForm cQueueBind
    | some k =>
      match findPipe k false (memberOf st) q with
      | none => failForm cQueueBind
      | some i =>
        match k.pipes[i]? with
        | none => failForm cQueueBind
        | some (e, elems) =>
          match elems with
          | [] => if partnerDone k (pipeWM e) then failForm cQueueBind else throw (.freeze .queue)
          | v :: rest => do
            set (s.setSkein { k with pipes := k.pipes.set i (e, rest) })
            pure v.toNat
  else
    let a := sluiceEntryAddr s st.ident.asid (q - 4)
    let e := s.readNat a 32
    if !sluiceBound e then failForm cQueueBind
    else
      let head := bits e 255 224
      let tail := bits e 223 192
      if head == tail then throw (.freeze .queue)
      else do
        let v := s.readNat (bits e 184 128 + 8 * (head % 2 ^ bits e 67 64)) 8
        set (s.writePhys (a + 28) (leBytes 4 ((head + 1) % 2 ^ 32)))
        pure v

/-- Whether an endpoint takes a push: a pipe that the strand writes and whose reader has not executed DONE, or a bound sluice (R40, R254,
R289). -/
def queueTakes (s : State) (st : Strand) (q : Nat) : Bool :=
  if q < 4 then (skeinOf s st).any fun k => (findPipe k true (memberOf st) q).any fun i => (k.pipes[i]?).any fun p => !partnerDone k (pipeRM p.1)
  else sluiceBound (s.readNat (sluiceEntryAddr s st.ident.asid (q - 4)) 32)

/-- Checks a push on an endpoint at issue and sends it out; it is pushed at its landing (R68). -/
def pushQueue (lat q : Nat) (v : Word) : Op Unit := do
  if 4 ≤ q then acquireWait
  notInTrap
  let s ← get
  formCheck (queueTakes s s.strand q) cQueueBind
  markEffect
  emit lat (.pushQueue q v s.issue.sword)

/-- Reads a scalar operand of the A and B slots: x0-x55, or a pop of q0-q7. -/
def getXQ (n : XReg) : Op Word := do
  if n.toNat < 56 then getX n
  else do
    let v ← operand (popQueue (n.toNat - 56))
    pure (w64 v)

/-- Sends a scalar result of the A and B slots: to x0-x55, or as a push on q0-q7. -/
def putXQ (lat : Nat) (n : XReg) (v : Word) : Op Unit :=
  if n.toNat < 56 then putX lat n v else pushQueue lat (n.toNat - 56) v

/-! ### Views (R77) -/

def vwFmt (v : Word) : Nat := bits v.toNat 63 60
def vwCols (v : Word) : Nat := bits v.toNat 59 50 + 1
def vwRows (v : Word) : Nat := bits v.toNat 49 38 + 1
def vwPitch (v : Word) : Nat := bits v.toNat 37 26 * 16
def vwBase (v : Word) : Nat := bits v.toNat 18 0

/-- The row bytes of a view (R77). -/
def vwRowBytes (v : Word) : Nat := if vwFmt v == 13 then (vwCols v + 7) / 8 else vwCols v * fmtBytes (vwFmt v)

/-- The checks of R77 against a partition of `size` bytes. -/
def viewOk (v : Word) (size : Nat) : Bool :=
  vwFmt v ≤ 13 && vwBase v % 16 == 0 && (vwPitch v == 0 || vwRowBytes v ≤ vwPitch v)
    && vwBase v + (vwRows v - 1) * vwPitch v + vwRowBytes v ≤ size

/-- The offset within the partition of an element of a view, for whole-byte formats. -/
def viewOff (v : Word) (row col : Nat) : Nat := vwBase v + row * vwPitch v + col * fmtBytes (vwFmt v)

/-! ### Read ports (R71) -/

/-- The register-space operands of an instruction with their ports: vector numbers on the left, view registers (tile views 0-15,
accumulator views from 16) on the right. -/
def portOperands (statC : Bool) : Instr → List (Port × (Nat ⊕ Nat))
  | .vadd _ _ a p b q _ _ | .vsub _ _ a p b q _ _ | .vmul _ _ a p b q _ | .vmin _ _ a p b q _ | .vmax _ _ a p b q _
  | .vand _ _ a p b q _ | .vor _ _ a p b q _ | .vxor _ _ a p b q _ | .vshl _ _ a p b q _ | .vshr _ _ a p b q _
  | .vsar _ _ a p b q _ | .vperm _ _ a p b q _ | .vmask _ _ a p b q _ => [(p, .inl a.toNat), (q, .inl b.toNat)]
  | .vcmp _ _ a p b q _ _ => [(p, .inl a.toNat), (q, .inl b.toNat)]
  | .vfma _ d r a p b q _ | .vsel _ d r a p b q _ => [(r, .inl d.toNat), (p, .inl a.toNat), (q, .inl b.toNat)]
  | .vabs _ _ a p _ | .vneg _ _ a p _ | .vnot _ _ a p _ | .vexp2 _ _ a p _ | .vlog2 _ _ a p _ | .vrcp _ _ a p _
  | .vrsq _ _ a p _ | .vsprs _ _ a p _ => [(p, .inl a.toNat)]
  | .vcvt _ _ a p _ _ _ _ _ => [(p, .inl a.toNat)]
  | .vins _ d r _ _ _ => [(r, .inl d.toNat)]
  | .vext _ _ a p _ _ | .vred _ _ a p _ _ => [(p, .inl a.toNat)]
  | .vamax _ _ a p _ | .vargmx _ _ a p _ => [(p, .inl a.toNat)]
  | .vst _ v p _ _ => [(p, .inl v.toNat)]
  | .scfg _ a p _ | .lnch _ _ a p | .hfam _ a p _ | .hacc _ _ a p => [(p, .inl a.toNat)]
  | .dcp _ _ a p b q => [(p, .inl a.toNat), (q, .inl b.toNat)]
  | .hprb _ _ _ _ _ qs qn pq => if qs == 0 then [(pq, .inr qn.toNat)] else []
  | .cprog _ _ a p => [(p, .inl a.toNat)]
  | .aldbLocal _ tv p => [(p, .inr tv.toNat)]
  | .arun _ _ asp an p bsp bn q _ =>
    (if asp == 0 then [(p, .inr an.toNat)] else []) ++ (if statC && bsp == 0 then [(q, .inr bn.toNat)] else [])
  | .aruns _ _ asp an p mv q _ => (if asp == 0 then [(p, .inr an.toNat)] else []) ++ [(q, .inr mv.toNat)]
  | .adrn _ _ sk av p _ => if sk == 0 then [(p, .inr (16 + av.toNat))] else []
  | .txin _ a p _ => [(p, .inl a.toNat)]
  | _ => []

/-- The view register a port operand names. -/
def viewReg (st : Strand) (n : Nat) : Word := if n < 16 then st.sys.tviews.getD n 0 else st.sys.aviews.getD (n - 16) 0

/-- The ports that an instruction asks, with register-space addresses; spools take none (R72). -/
def portsOf (s : State) (i : Instr) : List (Port × Nat) :=
  (portOperands s.strand.arr.statC i).filterMap fun (p, o) =>
    match o with
    | .inl v => if v < 496 then some (p, vectorAddr s v) else none
    | .inr n => some (p, (partitionOf s s.focus).1 + vwBase (viewReg s.strand n))

/-- Two operands of one bundle name the same port with different addresses (R71). -/
def portConflict (s : State) (ops : List Instr) : Bool :=
  let l := ops.flatMap (portsOf s)
  l.any fun a => l.any fun b => a.1 == b.1 && a.2 != b.2

end Sys2Proof.Machine
end

