-- ==== Sys2Proof/Machine/Flags.lean ====
section
/-!
DEFINITION. FFLAGS (R114, R115): accrual at landing, and the array exception counters (R116, R117).
-/
namespace Sys2Proof.Machine

open Sys2Proof

/-- The five flags of FFLAGS. -/
def fflagsMask : Word := 0x1F

/-- FFLAGS after flags accrue: an OR (R115). -/
def accrue (fflags : Word) (f : Nat) : Word := (fflags ||| w64 f) &&& fflagsMask

/-- Sends flags out to accrue when their result lands; none are sent when none are raised. -/
def emitFlags (lat f : Nat) : Op Unit := if f == 0 then pure () else emit lat (.flags f)

/-- The flags of all elements of a vector result together. -/
def orFlags (l : List (Nat × Nat)) : Nat := l.foldl (fun acc e => acc ||| e.2) 0

/-- Counts an array element written to the register space: a NaN produced, a saturation (R117). -/
def countElement (s : State) (core : Nat) (nan sat : Nat) : State :=
  if nan == 0 && sat == 0 then s
  else
    let c := s.core core
    s.setCore core { c with anan := countUp c.anan nan, asat := countUp c.asat sat }

end Sys2Proof.Machine
end

