-- ==== Sys2Proof/Machine/SysRegs.lean ====
section
/-!
DEFINITION. The system registers (R79-R82): who may read and write each, what a read returns and what a write leaves.
-/
namespace Sys2Proof.Machine

open Sys2Proof

/-- Access of a register at a privilege (R79). -/
inductive SysAccess where
  | none | ro | rw
deriving DecidableEq, Repr

/-- The access columns of R79. -/
def sysAccess (n : Nat) (priv : Bool) : SysAccess :=
  if n == 0x003 || n == 0x010 || n == 0x011 || (0x070 ≤ n && n ≤ 0x077) then .ro
  else if n == 0x001 || n == 0x008 || n == 0x031 || n == 0x032 then (if priv then .rw else .ro)
  else if 0x020 ≤ n && n ≤ 0x022 then (if priv then .rw else .none)
  else .rw

/-- LIDX (R82). -/
def lidxWord (st : Strand) : Word :=
  match st.pos.loops.getLast? with
  | none => BitVec.allOnes 64
  | some l => w64 l.index

/-- TIMELOCK (R293). -/
def timelockWord (s : State) : Word :=
  w64 (packFields [(8, bits s.host.ptpcfg.toNat 7 0), (5, 0), (1, bit01 s.time.hold), (1, bit01 s.time.ever),
    (1, bit01 s.time.locked)])

/-- A read of a system register by the focus strand (R79). -/
def readSys (s : State) (n : Nat) : Word :=
  let st := s.strand
  let y := st.sys
  match n with
  | 0x000 => statusWord s.focus st
  | 0x001 => (s.ctx s.focus).part
  | 0x002 => y.vview
  | 0x003 => lidxWord st
  | 0x004 => y.frm
  | 0x005 => y.fflags
  | 0x008 => y.budget
  | 0x010 => s.time.now
  | 0x011 => timelockWord s
  | 0x020 => (s.core s.coreNo).tvec
  | 0x021 => y.tcause
  | 0x022 => y.tinfo
  | 0x028 => y.uvec
  | 0x029 => y.umask
  | 0x030 => y.polder
  | 0x031 => y.launch
  | 0x032 => y.weight
  | 0x033 => y.trigscope
  | 0x038 => y.fent
  | _ =>
    if 0x040 ≤ n && n ≤ 0x04F then y.tviews.getD (n - 0x040) 0
    else if 0x050 ≤ n && n ≤ 0x057 then y.aviews.getD (n - 0x050) 0
    else if 0x060 ≤ n && n ≤ 0x06F then (s.core s.coreNo).bfmt.getD (n - 0x060) 4
    else if 0x070 ≤ n && n ≤ 0x077 then w64 (st.hfam.getD (n - 0x070) 0)
    else 0

/-- The writable bits of a view register: [25:19] are reserved (R77). -/
def viewMask : Word := 0xFFFFFFFFFC07FFFF

/-- UMASK after a write: pending bits are cleared by ones, enables are set (R273). -/
def writeUmask (old v : Word) : Word := (old &&& ~~~v &&& 0x000FFFFF00000000) ||| (v &&& 0x00000000000FFFFF)

/-- The strand-scope registers after a write of number n; read-only and reserved fields stay (R4, R5). -/
def writeStrandSys (y : SysRegs) (n : Nat) (v : Word) : SysRegs :=
  match n with
  | 0x000 => { y with uie := bit v.toNat 2 }
  | 0x002 => { y with vview := v &&& 0x7F }
  | 0x004 => { y with frm := v &&& 0x3 }
  | 0x005 => { y with fflags := v &&& fflagsMask }
  | 0x008 => { y with budget := v &&& 0x0001FFFFFFFFFFFF }
  | 0x021 => { y with tcause := v &&& 0xFFFF }
  | 0x022 => { y with tinfo := v }
  | 0x028 => { y with uvec := v &&& 0xFFFFFFFF }
  | 0x029 => { y with umask := writeUmask y.umask v }
  | 0x030 => { y with polder := v &&& 0x000001FFFFFFFF07 }
  | 0x031 => { y with launch := v &&& 0xFFFFE1FFC0000FFF }
  | 0x032 => { y with weight := v }
  | 0x033 => if bits v.toNat 3 0 ≤ 11 then { y with trigscope := v &&& 0xF } else y
  | 0x038 => { y with fent := v &&& 0x1FFFF }
  | _ =>
    if 0x040 ≤ n && n ≤ 0x04F then { y with tviews := y.tviews.setIfInBounds (n - 0x040) (v &&& viewMask) }
    else if 0x050 ≤ n && n ≤ 0x057 then { y with aviews := y.aviews.setIfInBounds (n - 0x050) (v &&& viewMask) }
    else y

/-- A write of a system register landing in the strand of a context (R79, R80). -/
def writeSys (s : State) (key n : Nat) (v : Word) : State :=
  match s.strandAt key with
  | none => s
  | some st =>
    let core := keyCore key
    if n == 0x001 then
      (if isSupervisor core then s else s.setCtx key { s.ctx key with part := v &&& 0x0000000000FF007F })
    else if n == 0x020 then s.setCore core { s.core core with tvec := v &&& 0x01FFFFFFFFFFF001 }
    else if 0x060 ≤ n && n ≤ 0x06F then
      s.setCore core { s.core core with bfmt := (s.core core).bfmt.setIfInBounds (n - 0x060) (v &&& 0xFFF0030F) }
    else
      let st' := { st with sys := writeStrandSys st.sys n v }
      s.setStrandAt key (if n == 0x008 then { st' with overrun := 0 } else st')

end Sys2Proof.Machine
end

