-- ==== Sys2Proof/Machine/Landing.lean ====
section
/-!
DEFINITION. Results landing at their bundle-time (R12, R58, R63): registers, bytes, flags, pushes and the array's writes, in
issue order, flags last (R115); a push due to a full spool or queue holds up what follows (R61).
-/
namespace Sys2Proof.Machine

open Sys2Proof

/-! ### Sluices (R288, R289) -/

/-- Elements held by the ring of a sluice entry. -/
def ringCount (e : Nat) : Nat := (bits e 223 192 + 2 ^ 32 - bits e 255 224) % 2 ^ 32

/-- Sets the SPEND bit of sluice k in every resident strand of an address space (R289). -/
def setSpend (s : State) (asid k : Nat) : State :=
  { s with ctxs := s.ctxs.map fun (key, c) =>
      match c.strand with
      | some st =>
        if st.ident.asid == asid then
          (key, { c with strand := some { st with sys := { st.sys with umask := st.sys.umask ||| w64 (2 ^ (48 + k)) } } })
        else (key, c)
      | none => (key, c) }

/-- An element arrives in the receive ring of sluice k of an address space. -/
def sluiceArrive (s : State) (asid k : Nat) (v : Word) : State :=
  let a := sluiceEntryAddr s asid k
  let e := s.readNat a 32
  let tail := bits e 223 192
  let s := s.writePhys (bits e 184 128 + 8 * (tail % 2 ^ bits e 67 64)) (leBytes 8 v.toNat)
  setSpend (s.writePhys (a + 24) (leBytes 4 ((tail + 1) % 2 ^ 32))) asid k

/-- Room for one more element in the ring of sluice k. -/
def sluiceRoom (s : State) (asid k : Nat) : Bool :=
  let e := s.readNat (sluiceEntryAddr s asid k) 32
  ringCount e < 2 ^ bits e 67 64

/-- Adds a deferred report to the strand of a context. -/
def addReport (s : State) (key : Nat) (r : Report) : State :=
  match s.strandAt key with
  | none => s
  | some st => s.setStrandAt key { st with reports := st.reports ++ [r] }

/-- What comes of a result that is due: it lands, it must wait, or it faults (R40, R148). -/
inductive Landed where
  | done (s : State)
  | blocked (s : State)
  | fault (r : Raise) (s : State)

/-- The sends under way to sluice k of an address space of this package, each of which holds a place of its ring. -/
def sendsTo (s : State) (asid k : Nat) : Nat :=
  ((s.ctxs.filterMap fun c => c.2.strand).map fun st => (st.far.filter fun f => match f.kind with
    | .sluice q _ =>
      let e := s.readNat (sluiceEntryAddr s st.ident.asid (q - 4)) 32
      s.isOwn (bits e 25 16) && bits e 37 26 == asid && bits e 39 38 == k
    | _ => false).length).sum

/-- Whether a sluice send can leave: its partner's ring has a place that no send under way holds, or does not take it for another reason
(R289). -/
def sendRoom (s : State) (e : Nat) : Bool :=
  let pid := bits e 25 16
  let pasid := bits e 37 26
  let pk := bits e 39 38
  if s.isOwn pid then
    let p := s.readNat (sluiceEntryAddr s pasid pk) 32
    !sluiceBound p || ringCount p + sendsTo s pasid pk < 2 ^ bits p 67 64
  else !s.inFabric || Config.foreignRoom s.ticks pid pasid pk

/-- A push landing on a queue endpoint (R68, R254, R289); one whose reader has executed DONE by then, also while it was held on a full
pipe, faults with QUEUE_BIND (R40, log 15). -/
def landQueue (s : State) (key q seq : Nat) (v : Word) : Landed :=
  match s.strandAt key with
  | none => .done s
  | some st =>
    if q < 4 then
      match skeinOf s st with
      | none => .done s
      | some k =>
        match findPipe k true (memberOf st) q with
        | none => .done s
        | some i =>
          match k.pipes[i]? with
          | none => .done s
          | some (e, elems) =>
            if partnerDone k (pipeRM e) then .fault (bare s cQueueBind) s
            else if 16 ≤ elems.length then .blocked s
            else .done (s.setSkein { k with pipes := k.pipes.set i (e, elems ++ [v]) })
    else
      let outstanding := st.far.any fun f => match f.kind with
        | .sluice q' _ => q' == q
        | _ => false
      let e := s.readNat (sluiceEntryAddr s st.ident.asid (q - 4)) 32
      if outstanding || !sendRoom s e then .blocked s
      else
        let f : FarOp := ⟨s.fresh, 5, 0, [], .sluice q v, false, seq⟩
        let s1 : State := { s with fresh := s.fresh + 1 }
        .done (s1.setStrandAt key { st with far := st.far ++ [f] })

/-- The encoding of the slot that an effect is a push of. -/
def Effect.sword : Effect → Nat
  | .pushQueue _ _ w | .pushSpool _ _ w => w
  | _ => 0

/-- A push that faults at its landing becomes a replay entry, and the flags of its operation wait with it (R118, R148). -/
def pushEntry (s : State) (key : Nat) (f : Flight) (flags : Nat) (r : Raise) : State :=
  match s.strandAt key with
  | none => s
  | some st =>
    s.setStrandAt key
      { st with faults := st.faults ++ [⟨f.seq, f.slot, f.eff.sword, r.cause, r.info, r.phys, 0, f.due, .push f.eff flags⟩] }

/-! ### Configuring and releasing spools (R150, R415-R417) -/

/-- The buffered pushes of a store spool are written, as far as no earlier push to the same bytes stands before them. -/
def flushSpool (key n : Nat) : Nat → State → State
  | 0, s => s
  | k + 1, s =>
    match s.strandAt key with
    | none => s
    | some st =>
      match st.spools.getD n none with
      | none => s
      | some sp => if spIsStore sp.desc && !sp.buf.isEmpty then flushSpool key n k (writeElement s key n) else s

/-- Nothing stands in the buffer of a spool. -/
def spoolEmpty (s : State) (key n : Nat) : Bool :=
  match s.strandAt key with
  | none => true
  | some st => (st.spools.getD n none).all fun sp => sp.buf.isEmpty

/-- The flags in flight of an operation, by its place in issue order. -/
def flagsOf (l : List Flight) (seq : Nat) : Nat :=
  l.foldl (fun acc f => match f.eff with
    | .flags x => if f.seq == seq then acc ||| x else acc
    | _ => acc) 0

/-- Whether an effect is an accrual of flags, which lands after the others (R115). -/
def Effect.isFlags : Effect → Bool
  | .flags _ => true
  | _ => false

/-- A push that has become an entry takes its own flight and the flags of its operation with it (R118). -/
def takeFlight (s : State) (key : Nat) (f : Flight) (flags : Bool) : State :=
  match s.strandAt key with
  | none => s
  | some st =>
    let gone (g : Flight) : Bool := g == f || (flags && g.eff.isFlags && g.seq == f.seq)
    s.setStrandAt key { st with pos := { st.pos with line := { st.pos.line with flights := st.pos.line.flights.filter fun g => !gone g } } }

/-- The results in flight of a context's strand. -/
def flightsAt (s : State) (key : Nat) : List Flight := ((s.strandAt key).map fun st => st.pos.line.flights).getD []

/-- The pushes issued to a store spool that have not landed land and are written, in order; `false` while one waits for its
index or for an earlier write. -/
def settlePushes (key n : Nat) : List Flight → State → Bool × State
  | [], s =>
    let s1 := flushSpool key n 9 s
    (spoolEmpty s1 key n, s1)
  | f :: rest, s =>
    match f.eff with
    | .pushSpool m v _ =>
      if m != n then settlePushes key n rest s
      else
        match landPush (flushSpool key n 9 s) key n v f.seq with
        | .landed s' => settlePushes key n rest (takeFlight s' key f false)
        | .blocked s' => (false, s')
        | .fault r s' => settlePushes key n rest (takeFlight (pushEntry s' key f (flagsOf (flightsAt s' key) f.seq) r) key f true)
    | _ => settlePushes key n rest s

/-- The indices of sIDX's stream that an INDIRECT spool has consumed (R150). -/
def consumedIndices (sp : Spool) : Nat :=
  match sp.idxEnd with
  | some e => min (indexPlace sp sp.count) e
  | none => indexPlace sp sp.count

/-- Bytes of an index that a spool gives: a PROBE spool gives n32 (R147). -/
def indexBytes (ix : Spool) : Nat := if spKind ix.desc == 6 then 4 else fmtBytes (spFmt ix.desc)

/-- Whether an armed spool has delivered all that its merge or probe published: it is exhausted, and may be armed afresh (R385,
R404). -/
def jobDelivered (sp : Spool) : Bool := sp.job.isNone || (sp.closed && sp.failure.isNone && sp.published ≤ sp.count)

/-- The index spool of a released INDIRECT spool stands at the element that holds the first index not consumed (R150); a PROBE
spool with every identifier consumed is exhausted (R208). -/
def rewindIndex (ix : Spool) (index : Nat) : Spool :=
  let e := if spKind ix.desc == 6 && ix.closed && ix.failure.isNone && ix.ids ≤ index then ix.published
    else index / (128 / indexBytes ix)
  { ix with buf := [], moved := e, count := e, ended := false, counts := [] }

/-- The release of a spool (R150, R416): a load spool drops its buffer, a store spool's pushes are still written, an index spool
is unbound. -/
def releaseSpool (s : State) (key n : Nat) : Landed :=
  match s.strandAt key with
  | none => .done s
  | some st =>
    match st.spools.getD n none with
    | none => .done s
    | some sp =>
      let (settled, s1) := if spIsStore sp.desc then settlePushes key n st.pos.line.flights s else (true, s)
      if !settled then .blocked s1
      else
        match s1.strandAt key with
        | none => .done s1
        | some st1 =>
          let sp1 := (st1.spools.getD n none).getD sp
          let spools := st1.spools.setIfInBounds n none
          let spools := if !spIsIndirect sp1.desc then spools else
            match spools.getD (spIdx sp1.desc) none with
            | some ix => spools.setIfInBounds (spIdx sp1.desc) (some (rewindIndex ix (consumedIndices sp1)))
            | none => spools
          .done (s1.setStrandAt key { st1 with spools := spools })

/-- A spool as SCFG leaves it, with what it captures. DEDUCED (log 64): an INDIRECT spool begins at the element of sIDX that is next to be
popped, its consumed indices included, as R150 delivers it to a pop. -/
def newSpool (st : Strand) (d : Nat) (banks : Tab Word) (priv : Bool) (fent seq : Nat) : Spool :=
  let base := if !spIsIndirect d then 0 else
    match st.spools.getD (spIdx d) none with
    | some ix => ix.count * (128 / indexBytes ix)
    | none => 0
  { desc := d, banks := banks, priv := priv, fent := fent, seq := seq, buf := [], moved := 0, count := 0, issued := 0, idxBase := base, idxEnd := none, ended := false
    counts := [], area := 0, published := 0, ids := 0, closed := false, failure := none, job := none }

/-- SCFG takes effect: sd is released, then configured (R415). -/
def configureSpool (s : State) (key n : Nat) (new : Strand → Spool) : Landed :=
  match releaseSpool s key n with
  | .blocked s' => .blocked s'
  | .fault r s' => .fault r s'
  | .done s' =>
    match s'.strandAt key with
    | none => .done s'
    | some st => .done (setSpool s' key n (some (new st)))

/-- One effect lands in the strand of a context. -/
def applyEffect (s : State) (key : Nat) (f : Flight) : Landed :=
  match f.eff with
  | .x bank n v => .done (writeXAt s key bank n v)
  | .p bank n v => .done (writePAt s key bank n v)
  | .b n v =>
    match s.strandAt key with
    | none => .done s
    | some st => .done (s.setStrandAt key { st with bs := st.bs.setIfInBounds n v })
  | .bytes a data => .done (s.writePhys a data)
  | .sys n v => .done (writeSys s key n v)
  | .flags x =>
    match s.strandAt key with
    | none => .done s
    | some st => .done (s.setStrandAt key { st with sys := { st.sys with fflags := accrue st.sys.fflags x } })
  | .pushQueue q v _ => landQueue s key q (f.seq / 8) v
  | .pushSpool n v _ =>
    match landPush s key n v f.seq with
    | .landed s' => .done s'
    | .blocked s' => .blocked s'
    | .fault r s' => .fault r s'
  | .hfam n d =>
    match s.strandAt key with
    | none => .done s
    | some st => .done (s.setStrandAt key { st with hfam := st.hfam.setIfInBounds n d })
  | .txRow r v =>
    match s.strandAt key with
    | none => .done s
    | some st => .done (s.setStrandAt key { st with arr := { st.arr with tbuf := cellSet st.arr.tbuf r v } })
  | .txClear =>
    match s.strandAt key with
    | none => .done s
    | some st => .done (s.setStrandAt key { st with arr := { st.arr with tbuf := [] } })
  | .spoolConfig n d banks priv fent => configureSpool s key n fun st => newSpool st d banks priv fent f.seq
  | .spoolRelease n => releaseSpool s key n
  | .spoolArm n area job =>
    match s.strandAt key with
    | none => .done s
    | some st =>
      match st.spools.getD n none with
      | none => .done s
      | some sp => .done (setSpool s key n (some { newSpool st sp.desc sp.banks sp.priv sp.fent f.seq with area := area, job := some job }))

/-- Whether an effect belongs to the streams of the strand, whose order a push that must wait holds up (R61, R68, R69). -/
def Effect.isStream : Effect → Bool
  | .pushQueue _ _ _ | .pushSpool _ _ _ | .spoolConfig _ _ _ _ _ | .spoolRelease _ | .spoolArm _ _ _ => true
  | _ => false

/-- The array's writes due: an accumulator element is read as it stood before the landings of this bundle-time (R185), and the
write counts what it carries (R187). -/
def applyArrWrite (before s : State) (key : Nat) (w : ArrWrite) : State :=
  let nb := fmtBytes w.fmt
  match w.op with
  | none => countElement (s.writePhys w.addr (w.vals.flatMap (leBytes nb))) (keyCore key) w.nans w.sats
  | some op =>
    let old := before.readNat w.addr nb
    let r := updateAcc op w.fmt old w.vals
    countElement (s.writePhys w.addr (leBytes nb r.val)) (keyCore key) (bit01 (w.nans != 0 || r.nan))
      (bit01 (w.sats != 0 || r.sat))

/-- The replay entry of an array instruction that a fault stopped at bundle-time `x`, or of one that it holds back (R190, R266,
R458). -/
def arrEntry (op : ArrOp) (x : Nat) (r : Raise) (prog : Nat) (held : List ArrWrite) : Replay :=
  ⟨op.seq, 6, op.sword, r.cause, r.info, r.phys, prog, 0, .array { op with paused := some x, held := held }⟩

/-- No fault: what the entry of a dependant records. -/
def noRaise : Raise := ⟨0, 0, false⟩

/-- A fault of an array instruction after issue at bundle-time `x`: it becomes a replay entry, every array instruction behind it
a dependant, and its landings from element `hold` on are held back (R190, R266). -/
def arrFault (st : Strand) (seq x : Nat) (r : Raise) (prog : Nat) (hold : Option Nat) : Strand :=
  let kept (w : ArrWrite) : Bool := w.seq == seq && (match hold with
    | some p => p ≤ w.prog
    | none => false)
  let es := (st.arr.ops.filter fun o => seq ≤ o.seq).map fun o =>
    if o.seq == seq then arrEntry o x r prog (st.arr.writes.filter kept) else arrEntry o x noRaise o.done []
  { st with
    faults := st.faults ++ es
    arr := { st.arr with ops := st.arr.ops.filter (fun o => o.seq < seq), writes := st.arr.writes.filter fun w => !kept w } }

/-- Whether a write belongs to an instruction that a landing fault stopped at this or an earlier element. -/
def heldBy (w : ArrWrite) (e : Replay) : Bool := e.seq == w.seq && e.cause == cSubwordPoison && e.prog ≤ w.prog

/-- Adds a write to those that an entry holds back. -/
def addHeld (w : ArrWrite) (e : Replay) : Replay :=
  match e.redo with
  | .array op => if heldBy w e then { e with redo := .array { op with held := op.held ++ [w] } } else e
  | _ => e

/-- A landing of an array instruction that has stopped at an earlier or the same element joins those held back. -/
def holdWrite (st : Strand) (w : ArrWrite) : Option Strand :=
  if st.faults.any (heldBy w) then some { st with faults := st.faults.map (addHeld w) } else none

/-- Bytes that a write of the array covers: an accumulator element, or the elements of a row (R189). -/
def ArrWrite.size (w : ArrWrite) : Nat := if w.op.isSome then fmtBytes w.fmt else w.vals.length * fmtBytes w.fmt

/-- One write of the array lands, is held back, or meets a partly covered poisoned word (R328). -/
def landArrWrite (before s : State) (key : Nat) (w : ArrWrite) : State :=
  match s.strandAt key with
  | none => s
  | some st =>
    match holdWrite st w with
    | some st' => s.setStrandAt key st'
    | none =>
      match s.partialPoison w.addr w.size with
      | none => applyArrWrite before s key w
      | some a =>
        let st1 := arrFault st w.seq w.due ⟨cSubwordPoison, w64 a, true⟩ w.prog (some w.prog)
        s.setStrandAt key ((holdWrite st1 w).getD st1)

/-- Results that land at one boundary, in landing order. -/
inductive Due where
  | flight (f : Flight)
  | write (w : ArrWrite)
deriving DecidableEq, Repr

/-- The bundle-time and issue order of a landing. -/
def Due.order : Due → Nat × Nat
  | .flight f => (f.due, f.seq)
  | .write w => (w.due, w.seq)

/-- Merges flights and array writes in landing order (R58, R185). -/
def mergeDue : Nat → List Flight → List ArrWrite → List Due
  | 0, _, _ => []
  | _ + 1, [], ws => ws.map .write
  | _ + 1, fs, [] => fs.map .flight
  | n + 1, f :: fs, w :: ws =>
    if f.due < w.due || (f.due == w.due && f.seq ≤ w.seq) then .flight f :: mergeDue n fs (w :: ws)
    else .write w :: mergeDue n (f :: fs) ws

/-- Lands what is due in order. A push that must wait is handed back with the stream effects behind it, and everything else lands
(R61, R63); one that faults becomes an entry and takes the flags of its operation with it (R118). -/
def landAll (before : State) (key : Nat) (flags : List Flight) : Bool → List Due → State → List Flight × State
  | _, [], s => ([], s)
  | held, .write w :: rest, s => landAll before key flags held rest (landArrWrite before s key w)
  | held, .flight f :: rest, s =>
    if held && f.eff.isStream then
      let (l, s') := landAll before key flags held rest s
      (f :: l, s')
    else
      match applyEffect s key f with
      | .done s' => landAll before key flags held rest s'
      | .blocked s' =>
        let (l, s2) := landAll before key flags true rest s'
        (f :: l, s2)
      | .fault r s' => landAll before key flags held rest (pushEntry s' key f (flagsOf flags f.seq) r)

/-- Whether the flags of an operation wait: its push is held, or has become an entry (R118, R148). -/
def flagsWait (held : List Flight) (st : Strand) (f : Flight) : Bool := held.any (fun g => g.seq == f.seq) || st.faults.any fun e => e.seq == f.seq

/-- The array writes go in order of landing. -/
def insertWrite (w : ArrWrite) : List ArrWrite → List ArrWrite
  | [] => [w]
  | g :: l => if w.due < g.due || (w.due == g.due && w.seq < g.seq) then w :: g :: l else g :: insertWrite w l

/-- Puts back what a blocked push held up. -/
def requeue (st : Strand) (l : List Flight) : Strand :=
  { st with pos := { st.pos with line := { st.pos.line with flights := l ++ st.pos.line.flights } } }

/-- Whether the strand runs on its own time line, not a handler's: the array moves only then (R270). -/
def Strand.ownLine (st : Strand) : Bool := st.pos.susp.isEmpty

/-- The ENT rotation of R286. -/
def rotateFent (v : Word) : Word :=
  if bit v.toNat 16 then v else w64 ((5 * bits v.toNat 15 0 + 1) % 65536)

/-- Lands every result due at the present bundle-time of a context's strand; answers whether a push is held up (R61). -/
def land (s : State) (key : Nat) : State × Bool :=
  match s.strandAt key with
  | none => (s, false)
  | some st =>
    let bt := st.pos.line.bt
    let due := st.pos.line.flights.filter fun f => f.due ≤ bt
    if due.isEmpty && (st.arr.writes.isEmpty || !st.ownLine) then (s, false)
    else
      let wdue := if st.ownLine then st.arr.writes.filter fun w => w.due ≤ bt else []
      let st1 := { st with
        pos := { st.pos with line := { st.pos.line with flights := st.pos.line.flights.filter fun f => bt < f.due } }
        arr := { st.arr with writes := if st.ownLine then st.arr.writes.filter fun w => bt < w.due else st.arr.writes } }
      let s1 := s.setStrandAt key st1
      let plain := due.filter fun f => !f.eff.isFlags
      let flags := due.filter fun f => f.eff.isFlags
      let (held, s2) := landAll s1 key flags false (mergeDue (plain.length + wdue.length) plain wdue) s1
      match s2.strandAt key with
      | none => (s2, false)
      | some st2 =>
        let waits (f : Flight) : Bool := flagsWait held st2 f
        let (_, s3) := landAll s1 key [] false ((flags.filter fun f => !waits f).map Due.flight) s2
        match s3.strandAt key with
        | none => (s3, false)
        | some st3 =>
          (s3.setStrandAt key (requeue st3 (held ++ flags.filter fun f => held.any fun g => g.seq == f.seq)), !held.isEmpty)

/-- The congestion marks that have come back rotate FENT at a bundle boundary, behind the results that land there, once in a
bundle-time (R286). -/
def rotateDue (s : State) (key : Nat) : State :=
  match s.strandAt key with
  | none => s
  | some st => if st.rotate then s.setStrandAt key { st with rotate := false, sys := { st.sys with fent := rotateFent st.sys.fent } } else s

/-- TIME moved forward: it never decreases, and stays at its top (R293, log 5). -/
def timeForward (now : Word) (ns : Nat) : Word := w64 (min (2 ^ 64 - 1) (now.toNat + ns))

/-- The timebase and the count of steps move on (R293). -/
def State.tickTime (s : State) : State :=
  { s with ticks := s.ticks + 1, time := { s.time with now := timeForward s.time.now (Config.timeAdvance s.ticks) } }

end Sys2Proof.Machine
end

