-- ==== Sys2Proof/Machine/ArrayEngine.lean ====
section
/-!
DEFINITION. The semiring array at work (R173-R191, R328-R351): the checks of a run, starting, reading elements, completing, the
multicast of a cluster ALDB, and the replay of an array instruction.
-/
namespace Sys2Proof.Machine

open Sys2Proof

/-- A value with the state after it, a wait on an empty spool or queue, or a fault. -/
inductive Got (α : Type) where
  | got (a : α) (s : State)
  | empty
  | bad (r : Raise)

/-- Follows a reading. -/
def Got.next {α β : Type} (g : Got α) (f : α → State → Got β) : Got β :=
  match g with
  | .got a s => f a s
  | .empty => .empty
  | .bad r => .bad r

/-! ### Facts of an array instruction -/

/-- An ALDB. -/
def ArrOp.isLoad (o : ArrOp) : Bool :=
  match o.kind with
  | .loadLocal _ | .loadCluster _ _ => true
  | _ => false

/-- An ARUN or ARUNS. -/
def ArrOp.isRun (o : ArrOp) : Bool :=
  match o.kind with
  | .run _ _ _ _ _ _ _ => true
  | _ => false

/-- An ACLR or ADRN whose target or source is the array. -/
def ArrOp.onArray (o : ArrOp) : Bool :=
  match o.kind with
  | .drain _ src _ _ => src != 0
  | .clearArray => true
  | _ => false

/-- Stream elements of a run. -/
def ArrOp.elems (o : ArrOp) : Nat :=
  match o.kind with
  | .run _ _ _ _ _ m _ => m
  | _ => o.rows

/-- Elements or rows that the instruction reads, takes or writes in all. -/
def ArrOp.total (o : ArrOp) : Nat :=
  match o.kind with
  | .clearArray => 1
  | _ => o.elems

/-- Bundle-time of the read of element `k` after a start at `st` (R189). -/
def ArrOp.readAt (o : ArrOp) (st k : Nat) : Nat :=
  match o.kind with
  | .loadCluster _ _ => st + 12 + k
  | .run _ _ _ _ _ _ _ => st + 1 + (parseProg o.set.prog).beats * k
  | .clearView _ => st + k
  | _ => st + 1 + k

/-- Bundle-time of completion (R189). -/
def ArrOp.doneAt (o : ArrOp) (st : Nat) : Nat :=
  match o.kind with
  | .loadLocal _ => st + o.rows + 1
  | .loadCluster _ _ => st + o.rows + 12
  | .run _ _ _ _ _ m _ => st + (if o.set.statC then 258 else 260) + (parseProg o.set.prog).beats * (m - 1)
  | .drain _ _ _ _ => st + 3 + o.rows
  | .clearView _ => st + o.rows
  | .clearArray => st + 1

/-- The free times after a start at `st` (R189). -/
def ArrOp.setFree (o : ArrOp) (st : Nat) (a : Arr) : Arr :=
  match o.kind with
  | .loadLocal _ => { a with fLoad := some (st + o.rows) }
  | .loadCluster _ _ => { a with fLoad := some (st + o.rows + 11) }
  | .run _ _ _ _ _ m _ => { a with fStream := some (st + (parseProg o.set.prog).beats * m) }
  | .drain _ _ _ _ | .clearView _ => { a with fDrain := some (st + o.rows) }
  | .clearArray => { a with fDrain := some (st + 1) }

/-- A free time has passed. -/
def freeBy (f : Option Nat) (x : Nat) : Bool :=
  match f with
  | none => true
  | some t => t ≤ x

/-- The start rule of R189 at bundle-time `x`, with the instructions ahead that are not complete: with none the array is idle, and its
free times count for nothing (R188). -/
def canStart (a : Arr) (ahead : List ArrOp) (o : ArrOp) (x : Nat) : Bool :=
  let by' (f : Option Nat) : Bool := ahead.isEmpty || freeBy f x
  decide (o.issued ≤ x) && ahead.all (fun e => e.start.isSome) &&
    match o.kind with
    | .loadLocal _ | .loadCluster _ _ => by' a.fLoad
    | .run _ _ _ _ _ _ _ =>
      by' a.fStream && !ahead.any (fun e => e.isLoad || (e.isRun && e.set.statC != o.set.statC)
        || (o.set.statC && e.onArray))
    | .drain _ src _ _ => by' a.fDrain && !(src != 0 && ahead.any fun e => e.isRun && e.set.statC)
    | .clearView _ => by' a.fDrain
    | .clearArray => by' a.fDrain && !ahead.any fun e => e.isRun && e.set.statC

/-! ### The checks of a run (R172, R179, R185, R349, R351) -/

/-- The format, cell rows and columns of a stationary, and how many tile scales it has. -/
structure Stationary where
  fmt : Nat
  rows : Nat
  cols : Nat
  scales : Nat
deriving DecidableEq, Repr

/-- The stationary of loaded latches. -/
def Latches.facts (l : Latches) : Stationary := ⟨l.fmt, l.rows, l.cols, (l.scales.getD []).length⟩

/-- What an issue knows of the stationary that its run will use: the last ALDB ahead of it, else what is pending or active. The
outer `none` says that there is none, the inner that it is fixed only later. -/
def knownStationary (a : Arr) : Option (Option Stationary) :=
  match (a.ops.filter ArrOp.isLoad).getLast? with
  | some o => match o.kind with
    | .loadLocal v =>
      let e := laneTerms (vwFmt v)
      some (some ⟨vwFmt v, (vwRows v + e - 1) / e, vwCols v, 0⟩)
    | _ => some (if o.start.isSome then o.lat.map Latches.facts else none)
  | none => (if a.pending then a.shadow else a.active).map fun l => some l.facts

/-- The format that the accumulator view of a run must have (R185, R347). -/
def accFmt (p : Prog) : Nat :=
  match p.acc with
  | some (_, fa) => fa
  | none => if p.isFloat then 8 else if p.isN32 then 6 else 2

/-- FWD and LET are absent, or FWD leaves the streams as they are (R172). -/
def Prog.plain (p : Prog) : Bool :=
  match p.fwd with
  | none => p.letOp == none
  | some (e, s) => e == 0 && s == 0

/-- The rules of R172 for the flow in force. -/
def flowRules (p : Prog) (statC sparse : Bool) : Bool :=
  (statC || (p.x != 1 && p.y != 1 && (match p.fwd with
      | none => true
      | some (_, ss) => ss == 0)
    && (match p.acc with
      | none => true
      | some (op, _) => op ≤ 5)))
  && (!(p.scaled || sparse) || p.plain)

/-- Dense terms per cell row of the A side: 8 in ARUNS (R181). -/
def aTerms (p : Prog) (sparse : Bool) : Nat := if sparse then 8 else laneTerms p.fx
/-- Bytes of a cell row's slice of A. -/
def aLaneBytes (p : Prog) (sparse : Bool) : Nat := if sparse then 8 else if p.fx == 1 then 2 else 4
/-- Cell rows per band of a scaled STAT_B pass (R180). -/
def bandRows (sparse : Bool) : Nat := if sparse then 16 else 32

/-- A spool that a run may pop. -/
def loadSpool (st : Strand) (n : Nat) : Option Spool :=
  match st.spools.getD n none with
  | some sp => if spIsStore sp.desc || isBound st n then none else some sp
  | none => none

/-- Whether a spool gives SOURCE scales: a VEC-scaled bank holds its BASE in the data area (R179, R466). -/
def givesScale (s : State) (key : Nat) (sp : Spool) : Bool :=
  match baseBank s key sp with
  | some (start, bf) =>
    bits bf.toNat 9 8 == 1 && (spKind sp.desc == 0 || spKind sp.desc == 2) &&
      (match enginePhys s key (spBase sp.desc) with
       | some pa => start ≤ pa && pa - start < bits bf.toNat 31 20 * 64
       | none => false)
  | none => false

/-- The first cause of a list of (holds, cause) in the order SPOOL_CONFIG, VIEW, CELLPROG, ARRAY_FORMAT (R267). -/
def firstOf (l : List (Bool × Nat)) : Option Nat :=
  [cSpoolConfig, cView, cCellProg, cArrayFormat].find? fun c => l.contains (true, c)

/-- The checks of a run that need no stationary. -/
def runChecks (s : State) (key : Nat) (st : Strand) (set : ArrSettings) (size : Nat) (acc : Word) (aspool : Option Nat)
    (aview : Word) (bspool : Option Nat) (bview : Word) (m : Nat) (sparse : Option Word) : List (Bool × Nat) :=
  let p := parseProg set.prog
  let c := set.statC
  let sp := sparse.isSome
  let cb := c && !sp
  let e := aTerms p sp
  let noSpool (o : Option Nat) : Bool := match o with
    | some n => (loadSpool st n).isNone
    | none => false
  let spoolFmt (o : Option Nat) (v : Word) : Nat := match o with
    | some n => (match loadSpool st n with
      | some x => spFmt x.desc
      | none => 16)
    | none => vwFmt v
  let badView (used : Bool) (v : Word) (rows : Nat) : Bool := used && (!viewOk v size || vwRows v < rows)
  let scaled := progValid set.prog && p.scaled
  [ (noSpool aspool || (cb && noSpool bspool), cSpoolConfig),
    (badView aspool.isNone aview m || badView (cb && bspool.isNone) bview m || badView (!c) acc m, cView),
    (match sparse with
      | some v => !viewOk v size
      | none => false, cView),
    (scaled && set.am == 2 && (!viewOk set.aview size || vwRows set.aview <
        (if cb then (if aspool.isSome then 128 else min 128 (vwCols aview / e)) else m)), cView),
    (scaled && set.bm == 2 && !viewOk set.bview size, cView),
    (scaled && cb && set.am == 2 && vwCols set.aview < m / 32, cView),
    (scaled && cb && set.bm == 2 && vwCols set.bview < m / 32, cView),
    (!progValid set.prog || !flowRules p c sp, cCellProg),
    (spoolFmt aspool aview != p.fx || (c && spoolFmt bspool bview != p.fy), cArrayFormat),
    ((p.isDot || sp) && aspool.isNone && vwCols aview % e != 0, cArrayFormat),
    (!c && vwFmt acc != accFmt p, cArrayFormat),
    ((p.scaled || sp) && !set.skewRow, cArrayFormat),
    (p.scaled && c && m % 32 != 0, cArrayFormat),
    (p.scaled && set.am == 2 && vwFmt set.aview != 8, cArrayFormat),
    (p.scaled && set.bm == 2 && vwFmt set.bview != 8, cArrayFormat),
    (p.scaled && set.am == 1 && (c || !(match aspool with
      | some n => (match loadSpool st n with
        | some x => givesScale s key x
        | none => false)
      | none => false)), cArrayFormat),
    (match sparse with
      | some v => c || p.op != 1 || vwFmt v != 5 || set.bm == 1
      | none => false, cArrayFormat) ]

/-- The checks of a run that the stationary decides (R349, R351). -/
def stationaryChecks (set : ArrSettings) (acc : Word) (m : Nat) (sparse : Option Word) (f : Option Stationary) :
    List (Bool × Nat) :=
  let p := parseProg set.prog
  let c := set.statC
  match f with
  | none => [(!c, cArrayFormat), (p.scaled && set.bm == 1, cArrayFormat)]
  | some f =>
    let bands := if c then m / 32 else (f.rows + bandRows sparse.isSome - 1) / bandRows sparse.isSome
    [ (!c && vwCols acc < f.cols, cView),
      (match sparse with
        | some v => vwRows v < f.rows || vwCols v < f.cols
        | none => false, cView),
      (!c && p.scaled && set.am == 2 && vwCols set.aview < bands, cView),
      (!c && p.scaled && set.bm == 2 && vwCols set.bview < bands, cView),
      (f.fmt != p.fy, cArrayFormat),
      (sparse.isSome && laneTerms f.fmt != 4, cArrayFormat),
      (p.scaled && set.bm == 1 && f.scales < bands, cArrayFormat) ]

/-! ### Reading -/

/-- Bytes of a view, with the poison of the register space (R140). -/
def regBytes (s : State) (a n : Nat) : Except Raise Nat :=
  match s.poisoned a n with
  | some w => .error ⟨cPoison, w64 w, true⟩
  | none => .ok (s.readNat a n)

/-- An f32 element of a scale view. -/
def scaleElem (s : State) (base : Nat) (v : Word) (row col : Nat) : Except Raise Nat := regBytes s (base + viewOff v row col) 4

/-- Reads each of a list, stopping at the first fault. -/
def readEach (l : List (Except Raise Nat)) : Except Raise (List Nat) :=
  match l with
  | [] => .ok []
  | x :: rest =>
    match x, readEach rest with
    | .error r, _ => .error r
    | .ok _, .error r => .error r
    | .ok v, .ok vs => .ok (v :: vs)

/-- The code of 1.0 in f32. -/
def oneF32 : Nat := 0x3F800000

/-- Pops `cnt` elements of a spool for the array, all or none (R189). -/
def popRow (s : State) (key n cnt : Nat) : Got (List SpoolElem × Spool) :=
  match s.strandAt key with
  | none => .empty
  | some st =>
    match loadSpool st n with
    | none => .bad (bare s cSpoolConfig)
    | some sp =>
      let l := sp.buf.take cnt
      match l.findSome? fun e => e.fault with
      | some r => .bad r
      | none =>
        if l.length == cnt then
          .got (l, sp) (setSpool s key n (some { sp with buf := sp.buf.drop cnt, count := sp.count + cnt }))
        else if sp.ended then .bad (bare s cSpoolBound)
        else .empty

/-- The SOURCE scale of a popped element (R129, R466). -/
def elemScale (s : State) (key : Nat) (sp : Spool) (e : SpoolElem) : Except Raise Nat :=
  match e.addr, baseBank s key sp with
  | none, _ => .ok oneF32
  | some va, some (start, bf) =>
    (match enginePhys s key va with
     | some pa =>
       let soff := bits bf.toNat 31 20 * 64
       if start ≤ pa && pa - start < soff && soff + 4 * ((pa - start) / 128) + 4 ≤ 0x40000 then
         regBytes s (start + soff + 4 * ((pa - start) / 128)) 4
       else .error (bare s cArrayFormat)
     | none => .error (bare s cArrayFormat))
  | some _, none => .error (bare s cArrayFormat)

/-- Lane `i` of a row of bytes: 16-bit integers are sign-extended (R166). -/
def laneOf (f bytes v i : Nat) : Nat :=
  if bytes == 8 then elemOf 8 i v
  else if f == 1 then wrap 32 (signedOf 16 (elemOf bytes i v))
  else elemOf 4 i v

/-- The lanes of a row of bytes. -/
def lanesOf (f bytes v n : Nat) : List Nat := (List.range n).map (laneOf f bytes v)

/-- The A slices of an element under STAT_B, with the A scale of each band (R174, R179, R181). -/
def readA (s : State) (key : Nat) (o : ArrOp) (aspool : Option Nat) (aview : Word) (sparse : Bool) : Got (List Nat × List Nat) :=
  let p := parseProg o.set.prog
  let lb := aLaneBytes p sparse
  let bands := (o.rows + bandRows sparse - 1) / bandRows sparse
  let viewScales : Except Raise (List Nat) :=
    if p.scaled && o.set.am == 2 then readEach ((List.range bands).map (scaleElem s o.base o.set.aview o.done))
    else .ok (List.replicate bands oneF32)
  match aspool with
  | none =>
    let n := min o.rows (vwCols aview / aTerms p sparse)
    match regBytes s (o.base + viewOff aview o.done 0) (n * lb), viewScales with
    | .error r, _ => .bad r
    | _, .error r => .bad r
    | .ok v, .ok sc => .got (lanesOf p.fx lb v n, sc) s
  | some sp =>
    (popRow s key sp ((o.rows * lb + 127) / 128)).next fun (es, spool) s' =>
      let v := ofElems 128 (es.map fun e => e.data)
      let scales := if p.scaled && o.set.am == 1 then readEach ((es.take bands).map (elemScale s key spool)) else viewScales
      match scales with
      | .error r => .bad r
      | .ok sc => .got (lanesOf p.fx lb v o.rows, sc) s'

/-- The lanes of a stream element under STAT_C: from a row of a view, or from four pops (R175, R348). -/
def readC (s : State) (key : Nat) (o : ArrOp) (f : Nat) (src : Option Nat) (v : Word) : Got (List Nat) :=
  match src with
  | none =>
    let lb := if f == 1 then 2 else 4
    let n := min 128 (vwCols v / laneTerms f)
    match regBytes s (o.base + viewOff v o.done 0) (n * lb) with
    | .error r => .bad r
    | .ok x => .got (lanesOf f lb x n) s
  | some sp => (popRow s key sp 4).next fun (es, _) s' =>
      .got (lanesOf f 4 (ofElems 128 (es.map fun e => e.data)) 128) s'

/-! ### Results of a run -/

/-- The locals of an array. -/
def Arr.locals (a : Arr) : Locals := ⟨a.c0, a.c1, a.events⟩
/-- Puts the locals back. -/
def Arr.setLocals (a : Arr) (l : Locals) : Arr := { a with c0 := l.c0, c1 := l.c1, events := l.ev }

/-- The combine of a run's cells: dense, or by the group codes sampled at the start. -/
def tvOfRun (o : ArrOp) (sparse : Bool) (i j x y : Nat) : Ev TV :=
  let p := parseProg o.set.prog
  if sparse then sparseCombine p (o.codes.getD (i * o.cols + j) 0) x y else combine p x y

/-- The writes of an output row of a STAT_B run from its partials (R174, R185, R189). -/
def rowWrites (o : ArrOp) (acc : Word) (start row : Nat) (ls : List Lane) : List ArrWrite :=
  let p := parseProg o.set.prog
  (ls.zip (List.range ls.length)).map fun (l, j) =>
    ⟨start + 133 + p.beats * row + j, o.seq, row, o.base + viewOff acc row j, vwFmt acc, p.acc.map Prod.fst, [l.val],
      bit01 l.nan, bit01 l.sat⟩

/-- The float terms of a cell in a scaled pass: of COMB's operands, or, in ARUNS, of the double lane and the weights (R180, R181). -/
def cellTerms (o : ArrOp) (sparse : Bool) (code w n bl : Nat) (c : Cell) : List (Num × Num) :=
  let p := parseProg o.set.prog
  let x := if sparse then w else combSrc p.x w n bl c
  let y := if sparse then bl else combSrc p.y w n bl c
  (List.range 4).map fun u =>
    (floatValue p.fx (elemOf 1 (if sparse then bits code (3 * u + 2) (3 * u) else u) x), floatValue p.fy (elemOf 1 u y))

/-- The band terms of column j of a scaled STAT_B pass (R180). -/
def bandTerms (o : ArrOp) (sparse : Bool) (lat : Latches) (l : Locals) (lanes sa : List Nat) (j : Nat) : List (Ev Nat) :=
  let per := bandRows sparse
  let bands := (o.rows + per - 1) / per
  (List.range bands).filterMap fun b =>
    let ps := (List.range per).flatMap fun r =>
      let i := b * per + r
      match lanes[i]? with
      | none => []
      | some w => cellTerms o sparse (o.codes.getD (i * o.cols + j) 0) w 0 ((tabGet lat.cells (128 * i + j)).getD 0)
          (l.get (128 * i + j))
    if ps.isEmpty then none else some (bandTerm ps (sa.getD b oneF32) (o.bscale.getD b oneF32))

/-- The writes of an output row of a scaled pass. -/
def scaledWrites (o : ArrOp) (sparse : Bool) (lat : Latches) (l : Locals) (acc : Word) (start row : Nat) (lanes sa : List Nat) :
    List ArrWrite :=
  (List.range o.cols).map fun j =>
    let ts := bandTerms o sparse lat l lanes sa j
    ⟨start + 133 + row + j, o.seq, row, o.base + viewOff acc row j, 8, some 8, ts.map fun t => t.val,
      bit01 (ts.any fun t => t.nan), 0⟩

/-- The LETs of a cell row of a scaled STAT_B pass, from column j on (R167, R172). -/
def scaledLets (o : ArrOp) (sparse : Bool) (lat : Latches) (row i w : Nat) (l : Locals) : Locals :=
  let p := { parseProg o.set.prog with wide := sparse }
  (List.range o.cols).foldl (fun l j =>
    let key := 128 * i + j
    let c := l.get key
    let ts := cellTerms o sparse (o.codes.getD (i * o.cols + j) 0) w 0 ((tabGet lat.cells key).getD 0) c
    let partial' (n : Nat) : Nat := Config.bandLane (8192 * o.seq + 2 * row + n) key % 2 ^ 32
    l.put key (letCell p w (if i == 0 then 0 else partial' 0) (toLane 8 (dotFloat ts).val) (partial' 1) c)) l

/-- The locals after an element of a scaled STAT_B pass. -/
def scaledLocals (o : ArrOp) (sparse : Bool) (lat : Latches) (row : Nat) (lanes : List Nat) (l : Locals) : Locals :=
  if (parseProg o.set.prog).letOp == none then l
  else (lanes.zip (List.range lanes.length)).foldl (fun l (w, i) => scaledLets o sparse lat row i w l) l

/-- The waves of a STAT_B run without skew that element k, just read, completes: wave v holds slice i of element v + i, which the
manual counts as output row v when 0 ≤ v (R176). DEDUCED (log 24): where a row needs elements read after the landing that R189 fixes
for it, the row lands when its last element has been read. They are answered with their slices. -/
def noneWaves (o : ArrOp) (m : Nat) (elems : List (List Nat)) : List (Int × List (Option Nat)) :=
  let k := elems.length - 1
  let vs := if k + 1 == m then (List.range o.rows).map fun (d : Nat) => (k : Int) - (o.rows : Int) + 1 + (d : Int)
    else [(k : Int) - (o.rows : Int) + 1]
  vs.map fun v => (v, (List.range o.rows).map fun (i : Nat) =>
    let e := v + (i : Int)
    if e < 0 then none else (elems[e.toNat]?).bind fun l => l[i]?)

/-- Runs waves of slices through the cells, in order: the partials of each (R174). -/
def runWaves (o : ArrOp) (sparse : Bool) (lat : Latches) : List (Int × List (Option Nat)) → Locals →
    List (Int × List Lane) × Locals
  | [], l => ([], l)
  | (v, ws) :: rest, l =>
    let p := { parseProg o.set.prog with wide := sparse }
    let (ls, l') := statBRow p lat (tvOfRun o sparse) 0 ws (List.replicate o.cols (northLane p)) l
    let (more, l'') := runWaves o sparse lat rest l'
    ((v, ls) :: more, l'')

/-- One meeting of a cell in a scaled STAT_C pass: the cell after its LET, and the terms of the band so far. -/
def scaledMeeting (o : ArrOp) (bl i j : Nat) (st : Cell × List (Num × Num)) (k : Nat) : Cell × List (Num × Num) :=
  match (o.aelems.getD k [])[i]?, (o.belems.getD k [])[j]? with
  | some w, some n =>
    let ts := cellTerms o false 0 w n bl st.1
    let rv := Config.bandLane (8192 * o.seq + k) (128 * i + j) % 2 ^ 32
    (letCell (parseProg o.set.prog) w n (toLane 8 (dotFloat ts).val) rv st.1, st.2 ++ ts)
  | _, _ => st

/-- A cell after a scaled STAT_C pass: band by band, the exact sum of its meetings scaled and added to c0 (R180). -/
def scaledCell (o : ArrOp) (m bl i j : Nat) (c : Cell) : Cell :=
  (List.range (m / 32)).foldl (fun c b =>
    let (c1, ps) := (List.range 32).foldl (fun st k => scaledMeeting o bl i j st (32 * b + k)) (c, [])
    if ps.isEmpty then c1
    else
      let t := bandTerm ps ((o.ascale.getD i []).getD b oneF32) (o.bscale.getD b oneF32)
      let r := addBands c1.c0 [t.val]
      { c1 with c0 := r.val, nan := c1.nan || r.nan || t.nan }) c

/-- The locals after a STAT_C run (R175, R176, R180). DEDUCED (log 53): without skew the tag of a meeting is the tag counter at the feeding of
its A element, as R171 and R348 count and R176 names the element. -/
def statCResult (o : ArrOp) (m : Nat) (l : Locals) : Locals :=
  let p := parseProg o.set.prog
  let bl (key : Nat) : Nat := match o.lat with
    | some lat => (tabGet lat.cells key).getD 0
    | none => 0
  if p.scaled then
    let rows := (o.aelems.map List.length).foldl max 0
    let cols := (o.belems.map List.length).foldl max 0
    let cell (l : Locals) (i j : Nat) : Locals := l.put (128 * i + j) (scaledCell o m (bl (128 * i + j)) i j (l.get (128 * i + j)))
    (List.range rows).foldl (fun l i => (List.range cols).foldl (fun l j => cell l i j) l) l
  else if o.set.skewRow then
    ((o.aelems.zip o.belems).zip (List.range m)).foldl (fun l ((a, b), k) =>
      statCElem p ((o.tag0 + k) % 2 ^ 32) bl 0 (a.map some) (b.map fun v => some (plainLane v)) l) l
  else
    let lane (es : List (List Nat)) (t i : Nat) : Option Nat := (es.getD t [])[i]?
    noneRun p m o.tag0 bl (lane o.aelems) (lane o.belems) (m + 128) 0 ⟨[], []⟩ l

/-! ### Reading an element or a row -/

/-- Cell row i of a stationary read from rows of bytes: lanes of `e` terms, absent rows zero (R342). -/
def stationaryLane (f kr i e : Nat) (term : Nat → Nat) : Nat :=
  let w := fmtBytes f
  let v := ofElems w ((List.range e).map fun u => if e * i + u < kr then term (e * i + u) else 0)
  if f == 1 then wrap 32 (signedOf 16 v) else v

/-- Puts cell row i into the shadow latches; the last row marks them pending (R342, R343). -/
def fillShadow (a : Arr) (o : ArrOp) (fmt i : Nat) (lanes : List Nat) (scales : Option (List Nat)) : Arr :=
  let old := a.shadow.getD ⟨0, 0, 0, [], none⟩
  let cells := (lanes.zip (List.range lanes.length)).foldl (fun t (v, j) => cellSet t (128 * i + j) v) old.cells
  if i + 1 == o.rows then { a with shadow := some ⟨fmt, o.rows, o.cols, cells, scales⟩, pending := true }
  else { a with shadow := some { old with cells := cells } }

/-- The count of an ADRN conversion: a NaN formed, a clamp (R117). -/
def drainCounts (d f : Nat) (sat : Bool) (v r flags : Nat) : Nat × Nat :=
  let srcNaN := isFloatFmt f && (floatValue f v).isNaN
  let nan := isFloatFmt d && (floatValue d r).isNaN && !srcNaN
  let clamped :=
    if isFloatFmt d then
      bit flags 2 || (isFloatFmt f && !floatWidens d f && (match floatValue f v with
        | .inf _ => true
        | _ => false))
    else if isFloatFmt f then bit flags 4 && !srcNaN
    else intClamp d (intValue f v) != intValue f v
  (bit01 nan, bit01 (sat && !nan && clamped))

/-- One element drained into format `d` from format `f` (R186, R336): the encoding and its counts. -/
def drainElem (d f : Nat) (sat : Bool) (v : Nat) : Nat × Nat × Nat :=
  if d == f then (v, 0, 0)
  else
    let (r, flags) := convert d f .rne sat v
    let (n, c) := drainCounts d f sat v r flags
    (r, n, c)

/-- Puts changed array state into the strand of a context. -/
def setArr (s : State) (key : Nat) (f : Arr → Arr) : State :=
  match s.strandAt key with
  | none => s
  | some st => s.setStrandAt key { st with arr := f st.arr }

/-- Replaces an instruction in the array's list. -/
def Arr.put (a : Arr) (o : ArrOp) : Arr := { a with ops := a.ops.map fun e => if e.seq == o.seq then o else e }

/-- The member index of a core in its cluster. -/
def memberNo (core : Nat) : Nat := core % 8

/-- Takes cell row i from the member's receive queue (R178); poison is named by the virtual address, of a stationary that starts at
`va` (R140, R341). -/
def takeRow (s : State) (id i m va : Nat) : Got Nat :=
  match s.casts.find? fun c => c.id == id with
  | none => .empty
  | some c =>
    match c.rows[i]? with
    | none => .empty
    | some (_, some w) => .bad ⟨cPoison, w64 (va + w - c.src), false⟩
    | some (v, none) =>
      .got v { s with casts := s.casts.map fun x => if x.id == id then { x with taken := tabSet x.taken m (i + 1) } else x }

/-- The stream element, row or cell row at hand of an instruction that started at `start` (R189, R328-R351). -/
def readElement (s : State) (key : Nat) (o : ArrOp) (start : Nat) : Got Unit :=
  let i := o.done
  let next : ArrOp := { o with done := i + 1 }
  match o.kind with
  | .loadLocal v =>
    let f := vwFmt v
    let e := laneTerms f
    let rowsHere := min e (vwRows v - e * i)
    match readEach ((List.range rowsHere).map fun u => regBytes s (o.base + viewOff v (e * i + u) 0) (vwRowBytes v)) with
    | .error r => .bad r
    | .ok rs =>
      let lanes := (List.range o.cols).map fun j =>
        stationaryLane f (vwRows v) i e fun r => elemOf (fmtBytes f) j (rs.getD (r - e * i) 0)
      .got () (setArr s key fun a => (fillShadow a o f i lanes none).put next)
  | .loadCluster addr _ =>
    (takeRow s (o.cast.getD 0) i (memberNo (keyCore key)) addr.toNat).next fun v s' =>
      let lanes := (List.range o.cols).map fun j => elemOf 4 j v
      .got () (setArr s' key fun a =>
        (fillShadow a o ((o.lat.map fun l => l.fmt).getD 0) i lanes (o.lat.bind fun l => l.scales)).put next)
  | .run acc aspool aview bspool bview m sparse =>
    let p := parseProg o.set.prog
    if o.set.statC then
      (readC s key o p.fx aspool aview).next fun al s1 =>
        (readC s1 key o p.fy bspool bview).next fun bl s2 =>
          .got () (setArr s2 key fun a =>
            { a with tag := (a.tag + 1) % 2 ^ 32 }.put { next with aelems := o.aelems ++ [al], belems := o.belems ++ [bl] })
    else
      (readA s key o aspool aview sparse.isSome).next fun (lanes, sa) s1 =>
        .got () (setArr s1 key fun a =>
          match o.lat with
          | none => a.put next
          | some lat =>
            if p.scaled then
              let ws := scaledWrites o sparse.isSome lat a.locals acc start i lanes sa
              { a.setLocals (scaledLocals o sparse.isSome lat i lanes a.locals) with
                writes := ws.foldl (fun l w => insertWrite w l) a.writes }.put next
            else
              let elems := if o.set.skewRow then [] else o.aelems ++ [lanes]
              let waves := if o.set.skewRow then [((i : Int), (List.range o.rows).map fun r => lanes[r]?)]
                else noneWaves o m elems
              let (outs, l') := runWaves o sparse.isSome lat waves a.locals
              let ws := outs.flatMap fun (v, ls) => if v < 0 then [] else rowWrites o acc start v.toNat ls
              { a.setLocals l' with writes := ws.foldl (fun l w => insertWrite w l) a.writes }.put { next with aelems := elems })
  | .drain dst src acc sat =>
    let fd := vwFmt dst
    let cols := vwCols dst
    let put (f : Nat) (vs : List (Nat × Nat × Nat)) : Got Unit :=
      let rs := vs.map fun (v, n, c) => let (r, n', c') := drainElem fd f sat v; (r, n + n', c + c')
      let w : ArrWrite := ⟨start + 4 + i, o.seq, i, o.base + viewOff dst i 0, fd, none, rs.map fun x => x.1,
        (rs.map fun x => x.2.1).sum, (rs.map fun x => x.2.2).sum⟩
      .got () (setArr s key fun a => { a with writes := insertWrite w a.writes }.put next)
    if src == 0 then
      match regBytes s (o.base + viewOff acc i 0) (cols * fmtBytes (vwFmt acc)) with
      | .error r => .bad r
      | .ok v => put (vwFmt acc) ((List.range cols).map fun j => (elemOf (fmtBytes (vwFmt acc)) j v, 0, 0))
    else
      match s.strandAt key with
      | none => .empty
      | some st =>
        let l := st.arr.locals
        if src == 1 then
          let fa := accFmt (parseProg o.set.prog)
          put fa ((List.range cols).map fun j =>
            let c := l.get (128 * i + j)
            (c.c0 % 2 ^ (8 * fmtBytes fa), bit01 c.nan, bit01 c.sat))
        else put 6 ((List.range cols).map fun j => ((l.get (128 * i + j)).c1, 0, 0))
  | .clearView acc =>
    let (op, fa) := (parseProg o.set.prog).acc.getD (0, 8)
    let w : ArrWrite := ⟨start + 1 + i, o.seq, i, o.base + viewOff acc i 0, fa, none,
      List.replicate (vwCols acc) (accIdentity op fa), 0, 0⟩
    .got () (setArr s key fun a => { a with writes := insertWrite w a.writes }.put next)
  | .clearArray =>
    let (op, fa) := (parseProg o.set.prog).acc.getD (0, 8)
    let v := toLane fa (laneValue fa (accIdentity op fa))
    let all (x : Nat) : Cells := if x == 0 then [] else (List.range 16384).map fun k => (k, x)
    .got () (setArr s key fun a =>
      { a with c0 := all v, c1 := all (if op == 6 || op == 7 then 0xFFFFFFFF else 0), events := [], tag := 0 }.put next)

/-! ### Starting -/

/-- The start of a cluster ALDB: its address, its bank and its multicast (R178, R341). -/
def startCluster (s : State) (key : Nat) (st : Strand) (o : ArrOp) (addr shape : Word) (x : Nat) : Except Raise State :=
  let core := keyCore key
  let kr := bits shape.toNat 16 7 + 1
  let nc := bits shape.toNat 6 0 + 1
  let pitch := bits shape.toNat 51 40 * 16
  match engineAccess s (agentFor key st) addr.toNat 1 .r with
  | (.error r, _) => .error r
  | (.ok a, s1) =>
    let pa := (a.pieces.headD (0, 0)).1
    match a.space with
    | .scratch k =>
      if clusterOf k != clusterOf core then .error ⟨cProtection, addr, false⟩
      else
        let (b, start, off) := bankOf pa
        let bf := (s1.core k).bfmt.getD b 4
        let f := bits bf.toNat 3 0
        let e := laneTerms f
        let w := fmtBytes f
        let forming := s1.casts.find? fun c => c.cluster == clusterOf core
          && c.arrived.length < (bitSet 8 (bits c.shape.toNat 63 56)).length
          && bits c.shape.toNat 63 56 &&& bits shape.toNat 63 56 != 0
        let differs := match forming with
          | some c => c.src != pa || c.shape != shape
          | none => false
        if !bankOk bf || e == 0 || 128 * e < kr || pitch < nc * w || dataEnd bf < off + (kr - 1) * pitch + nc * w || differs then
          .error (bare s cArrayFormat)
        else
          let tiled := bits bf.toNat 9 8 == 2 && addr.toNat % 16384 == 0 && pitch == 128 && nc == 128
          let at' (t : Nat) : Nat := start + bits bf.toNat 31 20 * 64 + 4 * ((off + 16384 * t) / 16384)
          let tiles := if tiled then List.range ((kr + 127) / 128) else []
          match tiles.findSome? fun t => s1.poisoned (at' t) 4 with
          | some w => .error ⟨cPoison, w64 w, true⟩
          | none =>
          let scales := if tiled then some (tiles.map fun t => s1.readNat (at' t) 4) else none
          let m := memberNo core
          let (id, s2) := match forming with
            | some c => (c.id, { s1 with casts := s1.casts.map fun y => if y.id == c.id then { y with arrived := m :: y.arrived } else y })
            | none => (s1.fresh, { s1 with fresh := s1.fresh + 1, casts := s1.casts ++ [⟨s1.fresh, clusterOf core, shape, pa, f, [m], [], []⟩] })
          let o' := { o with start := some x, rows := (kr + e - 1) / e, cols := nc, cast := some id
                             lat := some ⟨f, (kr + e - 1) / e, nc, [], scales⟩ }
          .ok (setArr s2 key fun a => (o'.setFree x a).put o')
    | _ => .error ⟨cProtection, addr, false⟩

/-- The scales a run samples at its start: of B, and of A under STAT_C (R180). -/
def startScales (s : State) (o : ArrOp) (m : Nat) (aspool : Option Nat) (aview : Word) (sparse : Bool) (lat : Option Latches) :
    Except Raise (List (List Nat) × List Nat) :=
  let p := parseProg o.set.prog
  let c := o.set.statC
  let rows := (lat.map fun l => l.rows).getD 0
  let bands := if c then m / 32 else (rows + bandRows sparse - 1) / bandRows sparse
  if !p.scaled then .ok ([], [])
  else
    let bs : Except Raise (List Nat) :=
      if o.set.bm == 2 then readEach ((List.range bands).map (scaleElem s o.base o.set.bview 0))
      else if o.set.bm == 1 then .ok ((lat.bind fun l => l.scales).getD [])
      else .ok (List.replicate bands oneF32)
    let n := if aspool.isSome then 128 else min 128 (vwCols aview / aTerms p sparse)
    let as' : Except Raise (List Nat) :=
      if c && o.set.am == 2 then readEach ((List.range (n * bands)).map fun q => scaleElem s o.base o.set.aview (q / bands) (q % bands))
      else .ok []
    match bs, as' with
    | .error r, _ => .error r
    | _, .error r => .error r
    | .ok b, .ok a => .ok ((List.range n).map fun i => (a.drop (i * bands)).take bands, b)

/-- The start of a run; an ARUNS samples its whole metadata view, and its enabled cells' codes are checked (R177, R180, R182, R349,
R351). -/
def startRun (s : State) (key : Nat) (st : Strand) (o : ArrOp) (acc : Word) (aspool : Option Nat) (aview : Word) (m : Nat)
    (sparse : Option Word) (x : Nat) : Except Raise State :=
  let a := st.arr
  let lat := if a.pending then a.shadow else a.active
  match firstOf (stationaryChecks o.set acc m sparse (lat.map Latches.facts)) with
  | some c => .error (bare s c)
  | none =>
    let rows := (lat.map fun l => l.rows).getD 0
    let cols := (lat.map fun l => l.cols).getD 0
    let places := (List.range (rows * cols)).map fun q => (q / cols, q % cols)
    let meta' : Except Raise (List Nat) := match sparse with
      | none => .ok []
      | some v => readEach ((List.range (vwRows v)).map fun i => regBytes s (o.base + viewOff v i 0) (vwRowBytes v))
    match meta', startScales s o m aspool aview sparse.isSome lat with
    | .error r, _ => .error r
    | _, .error r => .error r
    | .ok lines, .ok (sa, sb) =>
      let cs := if sparse.isSome then places.map fun (i, j) => elemOf 2 j (lines.getD i 0) else []
      match sparse.bind fun v => (places.zip cs).find? (fun q => !sparseOk q.2) |>.map fun q => viewOff v q.1.1 q.1.2 with
      | some off => .error ⟨cSparseMeta, w64 off, false⟩
      | none =>
        let o' := { o with start := some x, rows := rows, cols := cols, lat := lat, codes := cs, ascale := sa, bscale := sb
                           tag0 := a.tag }
        .ok (setArr s key fun a => (o'.setFree x { a with active := lat, pending := false }).put o')

/-- Starts an array instruction at bundle-time `x`, or gives the fault of its start (R189, R190). -/
def startOp (s : State) (key : Nat) (st : Strand) (o : ArrOp) (x : Nat) : Except Raise State :=
  match o.kind with
  | .loadCluster addr shape => startCluster s key st o addr shape x
  | .run acc aspool aview _ _ m sparse => startRun s key st o acc aspool aview m sparse x
  | _ =>
    let o' := { o with start := some x }
    .ok (setArr s key fun a => (o'.setFree x a).put o')

/-! ### The three events of the array at a bundle-time -/

/-- The first instruction, in issue order, whose next element is due at or before bundle-time `x`. -/
def dueElement (a : Arr) (x : Nat) : Option (ArrOp × Nat) :=
  a.ops.findSome? fun o => match o.start with
    | none => none
    | some st => if o.done < o.total && o.readAt st o.done ≤ x then some (o, st) else none

/-- The first instruction that completes at or before bundle-time `x`. -/
def dueDone (a : Arr) (x : Nat) : Option ArrOp :=
  a.ops.find? fun o => match o.start with
    | none => false
    | some st => o.done == o.total && o.doneAt st ≤ x

/-- The first queued instruction, if it starts at bundle-time `x`. -/
def dueStart (a : Arr) (x : Nat) : Option ArrOp :=
  let rec go (ahead : List ArrOp) : List ArrOp → Option ArrOp
    | [] => none
    | o :: rest =>
      if o.start.isSome then go (ahead ++ [o]) rest
      else if canStart a ahead o x then some o else none
  go [] a.ops

/-- The array of a context moves: its strand runs on its own time line and no fault waits. -/
def arrLive (st : Strand) : Bool := st.ownLine

/-- What an event of the array came to. -/
inductive ArrStep where
  | idle
  | moved (s : State)
  | starved

/-- ARRAY_ELEMENT: the next element due is read, taken or written (R189). -/
def arrElement (s : State) (key : Nat) : ArrStep :=
  match s.strandAt key with
  | none => .idle
  | some st =>
    if !arrLive st then .idle
    else
      let x := st.pos.line.bt
      match dueElement st.arr x with
      | none => .idle
      | some (o, start) =>
        match readElement s key o start with
        | .got _ s' => .moved s'
        | .empty => .starved
        | .bad r => .moved (s.setStrandAt key (arrFault st o.seq x r o.done none))

/-- ARRAY_COMPLETION: an instruction completes; a STAT_C run leaves its results in the locals (R189). -/
def arrCompletion (s : State) (key : Nat) : ArrStep :=
  match s.strandAt key with
  | none => .idle
  | some st =>
    if !arrLive st then .idle
    else
      match dueDone st.arr st.pos.line.bt with
      | none => .idle
      | some o =>
        let a := { st.arr with ops := st.arr.ops.filter fun e => e.seq != o.seq }
        let a := match o.kind with
          | .run _ _ _ _ _ m _ => if o.set.statC then a.setLocals (statCResult o m a.locals) else a
          | _ => a
        .moved (s.setStrandAt key { st with arr := a })

/-- A cluster ALDB. -/
def ArrOp.isCluster (o : ArrOp) : Bool :=
  match o.kind with
  | .loadCluster _ _ => true
  | _ => false

/-- ARRAY_START: the queued instruction at the head starts (R188, R189). A cluster ALDB does not start in a drain span, where it would be
withdrawn (R277). -/
def arrStart (s : State) (key : Nat) : ArrStep :=
  match s.strandAt key with
  | none => .idle
  | some st =>
    if !arrLive st then .idle
    else
      let x := st.pos.line.bt
      match dueStart st.arr x with
      | none => .idle
      | some o =>
        if st.draining && o.isCluster then .idle else
        match startOp s key st o x with
        | .ok s' => .moved s'
        | .error r => .moved (s.setStrandAt key (arrFault st o.seq x r 0 none))

/-- Repeats an event while it moves; answers whether it starved. -/
def repeatArr (f : State → Nat → ArrStep) (key : Nat) : Nat → State → State × Bool
  | 0, s => (s, false)
  | n + 1, s =>
    match f s key with
    | .idle => (s, false)
    | .starved => (s, true)
    | .moved s' => repeatArr f key n s'

/-- Everything of the array due at the present bundle-time: elements, completions, starts (R189); a clear of a view writes its
first row in the bundle-time of its start. -/
def arrPulse (s : State) (key : Nat) : State × Bool :=
  match s.strandAt key with
  | none => (s, false)
  | some st =>
    let n := st.arr.ops.length
    if n == 0 then (s, false)
    else
      let (s1, starved) := repeatArr arrElement key (n + 1) s
      if starved then (s1, true)
      else
        let s2 := (repeatArr arrCompletion key (n + 1) s1).1
        let s3 := (repeatArr arrStart key (n + 1) s2).1
        repeatArr arrElement key (n + 1) s3

/-! ### The multicast network (R178) -/

/-- MULTICAST_ROW_READ: the network reads the next cell row once, when every member has started and every receive queue has room
for it; a multicast whose members have taken every row is over. -/
def castRead (s : State) (id : Nat) : State :=
  match s.casts.find? fun c => c.id == id with
  | none => s
  | some c =>
    let members := bitSet 8 (bits c.shape.toNat 63 56)
    let kr := bits c.shape.toNat 16 7 + 1
    let nc := bits c.shape.toNat 6 0 + 1
    let pitch := bits c.shape.toNat 51 40 * 16
    let e := laneTerms c.fmt
    let w := fmtBytes c.fmt
    let h := (kr + e - 1) / e
    let taken (m : Nat) : Nat := (tabGet c.taken m).getD 0
    if members.any fun m => !c.arrived.contains m then s
    else if members.all fun m => taken m == h then { s with casts := s.casts.filter fun x => x.id != id }
    else if c.rows.length < h && members.all fun m => c.rows.length < taken m + 8 then
      let i := c.rows.length
      let rowAddr (u : Nat) : Nat := c.src + (e * i + u) * pitch
      let bad := (List.range (min e (kr - e * i))).findSome? fun u => s.poisoned (rowAddr u) (nc * w)
      let v := ofElems 4 ((List.range nc).map fun j => stationaryLane c.fmt kr i e fun r => s.readNat (c.src + r * pitch + j * w) w)
      { s with casts := s.casts.map fun x => if x.id == id then { x with rows := x.rows ++ [(v, bad)] } else x }
    else s

/-! ### Replay (R190, R272, R458) -/

/-- Puts an array instruction of a replay entry back into the queue at trap point `b`: one that had started goes on with its
remaining times preserved, one that had not starts afresh. -/
def reinjectArr (b : Nat) (a : Arr) (o : ArrOp) : Arr :=
  match o.start, o.paused with
  | some st, some x =>
    let d := b - x
    let o' := { o with start := some (st + d), paused := none, held := [] }
    let a1 := o'.setFree (st + d) a
    { a1 with ops := a1.ops ++ [o'], writes := o.held.foldl (fun l w => insertWrite { w with due := w.due + d } l) a1.writes }
  | _, _ => { a with ops := a.ops ++ [{ o with issued := b, paused := none, held := [] }] }

end Sys2Proof.Machine
end

