-- ==== Sys2Proof/Machine/Sequencer.lean ====
section
/-!
DEFINITION. The sequencer: fetch (R52, R55), loop back edges (R86-R89), quiescent points (R65), the issue of a bundle as one
operation (R54, R57-R62, R266-R270, R471) and the passing of bundle-time (R11, R12).
-/
namespace Sys2Proof.Machine

open Sys2Proof

/-! ### Fetch -/

/-- The code that a strand may fetch, from and up to (R55). -/
def codeBounds (s : State) : Nat × Nat :=
  let st := s.strand
  if st.trapFrame.isSome then
    let a := trapArea (s.core s.coreNo)
    (a + 4096, a + 8192)
  else (st.ident.image + 64, st.ident.image + 64 + st.ident.codeLen)

/-- Code at a physical address, for the strand in focus at virtual address `a`: from its own package's space also by the fabric window
(R120); ALIGN in a counter or RAS block (R127), FETCH_PAGE in a hole. DEDUCED (log 62): code of another package is what that answers, and
FABRIC_ERROR where none comes. DESIGN CHOICE (log 54): R140 names no consumer here, so code in a poisoned word is fetched as it stands. -/
def codeAt (s : State) (a pa n : Nat) : Except Raise (List Byte) :=
  let p := homePiece s (pa, n)
  if blockMisaligned s false [p] then .error ⟨cAlign, w64 a, false⟩
  else
    match spaceCheck s [p] with
    | .error _ => .error ⟨cFetchPage, w64 a, false⟩
    | .ok (.fabric j) =>
      match if s.inFabric then stationOf s s.strand.entropy (pa % 2 ^ 44) else none with
      | none => .error ⟨cFabricError, w64 a, false⟩
      | some st =>
        let (code, data) := Config.foreignRead s.ticks j st (pa % 2 ^ 44) n
        if code == 0 then .ok (leBytes n (leNat data)) else .error ⟨cFabricError, w64 a, false⟩
    | .ok _ => .ok (s.readPhys p.1 n)

/-- The bytes from a fetch address to the end of its line; FETCH_PAGE when the line does not translate (R55, R119, R134). -/
def fetchBytes (a : Nat) : Op (List Byte) := do
  if 2 ^ 57 ≤ a then fail cFetchPage a
  let m ← strandMap a
  let s ← get
  match m with
  | none => fail cFetchPage a
  | some m =>
    if !permitted .x s.priv m.perms then fail cFetchPage a
    else
      match codeAt s a (m.phys a) (64 - a % 64) with
      | .error r => raiseNow r
      | .ok b => pure b

/-- Fetch at an address: what stands there or on the next line that holds a header (R52, R55). -/
def fetchFrom : Nat → Nat → Op (Nat × FetchResult)
  | 0, a => fail cFetchBound a
  | n + 1, a => do
    let s ← get
    let (lo, hi) := codeBounds s
    check (lo ≤ a && a < hi) cFetchBound a
    if 64 - a % 64 < 2 then fetchFrom n (a / 64 * 64 + 64)
    else
      let bytes ← fetchBytes a
      match decodeBundle (isSupervisor s.coreNo) bytes with
      | .endOfLine => fetchFrom n (a / 64 * 64 + 64)
      | r => pure (a, r)

/-- The fetch of the focus strand at its program counter. -/
def fetchOp : Op (Nat × FetchResult) := do
  let s ← get
  let (lo, hi) := codeBounds s
  fetchFrom ((hi - lo) / 64 + 2) s.strand.pos.pc

/-- The header address after the bundle whose header bytes these are, or `none` where R52 rules the header out. -/
def afterHeader (a : Nat) (bytes : List Byte) : Option Nat :=
  let h := leNat (bytes.take 2)
  let mask := bits h 7 0
  let n := 2 + 7 * (slotsOfMask mask).length
  if h == 0 then some (a / 64 * 64 + 64)
  else if bits h 15 12 != 0 || (mask == 0 && bits h 11 9 == 0) || bytes.length < n then none
  else some (a + n)

/-- The bundle after the one that a loop names as its end (R86). -/
def afterEnd (a : Nat) : Op Nat := do
  let s ← get
  let (lo, hi) := codeBounds s
  if a < lo || hi ≤ a then fail cFetchBound a
  if 64 - a % 64 < 2 then pure (a / 64 * 64 + 64)
  else
    let bytes ← fetchBytes a
    match afterHeader a bytes with
    | some n => pure n
    | none => failAt false endHeaderRank ⟨cIllegal, w64 a, false⟩

/-! ### Loops (R85-R89) -/

/-- Sets predicates of a LOOPS run. -/
def setRun (s : State) (key : Nat) (bank : RegBank) : Nat → List Bool → State
  | _, [] => s
  | k, v :: vs => setRun (writePAt s key bank k v) key bank (k + 1) vs

/-- The rotation of a LOOPS run, with what enters p[k] (R88). -/
def rotateRun (s : State) (key : Nat) (l : Level) (enter : Bool) : State :=
  match s.strandAt key with
  | none => s
  | some st =>
    let old := (List.range (l.stages - 1)).map fun i => readPAt s key st st.bank (l.run + i)
    setRun s key st.bank l.run (enter :: old)

/-- Puts the loop stack of a strand. -/
def setLoops (s : State) (key : Nat) (ls : List Level) : State :=
  match s.strandAt key with
  | none => s
  | some st => s.setStrandAt key { st with pos := { st.pos with loops := ls } }

/-- Where control goes after the end bundle at `pc`. -/
structure EdgeResult where
  next : Nat
  backEdge : Bool
  loopQuiet : Bool
deriving DecidableEq, Repr

/-- The innermost level that the bundle at `pc` ends. A level that a branch has left inside it stays, and is no obstacle (R87, log
25). -/
def endsLevel (loops : List Level) (pc : Nat) : Option Nat := (List.range loops.length).reverse.find? fun i => (loops[i]?).any fun l => l.stop == pc

/-- The back edges at the bundle at `pc`, innermost first (R86-R88). A LOOPS level whose strand is asked to leave enables no more
iterations, and stands drained at its start with those it has begun (R89). -/
def backEdges (key pc after : Nat) (leaving : Bool) : Nat → Bool → State → EdgeResult × State
  | 0, quiet, s => (⟨after, false, quiet⟩, s)
  | n + 1, quiet, s =>
    match s.strandAt key with
    | none => (⟨after, false, quiet⟩, s)
    | some st =>
      match endsLevel st.pos.loops pc with
      | none => (⟨after, false, quiet⟩, s)
      | some i =>
        let l := st.pos.loops.getD i ⟨0, 0, 0, 0, 0, 0, 0, false⟩
        let put (l' : Level) : State := setLoops s key (st.pos.loops.set i l')
        let popped : State := setLoops s key (st.pos.loops.eraseIdx i)
        let begun := l.index + 1 - l.tail
        if l.stages == 0 then
          if l.index + 1 < l.count then (⟨l.start, true, quiet⟩, put { l with index := l.index + 1 })
          else backEdges key pc after leaving n quiet popped
        else if begun < l.count && !leaving && l.tail == 0 then
          (⟨l.start, false, quiet⟩, rotateRun (put { l with index := l.index + 1 }) key l true)
        else if l.tail + 1 < l.stages then
          (⟨l.start, false, quiet⟩, rotateRun (put { l with index := l.index + 1, tail := l.tail + 1 }) key l false)
        else if begun < l.count then
          -- drained before its end: the level records the iterations begun (R89)
          (⟨l.start, false, true⟩, rotateRun (put { l with index := begun, tail := 0, drained := true }) key l false)
        else backEdges key pc after leaving n true (rotateRun popped key l false)

/-- The levels of a strand that stand drained run on. -/
def Strand.undrain (st : Strand) : Strand :=
  { st with pos := { st.pos with loops := st.pos.loops.map fun l => { l with drained := false } } }

/-- A drained LOOPS level whose strand runs on re-enters through its prologue (R89). -/
def reenter (s : State) (key : Nat) : State :=
  match s.strandAt key with
  | none => s
  | some st =>
    (st.pos.loops.filter fun l => l.drained).foldl
      (fun s l => setRun s key st.bank l.run (true :: List.replicate (l.stages - 1) false)) (s.setStrandAt key st.undrain)

/-- The strand of a context is no longer frozen. -/
def thaw (s : State) (key : Nat) : State :=
  match s.strandAt key with
  | none => s
  | some st => s.setStrandAt key { st with frozen := none }

/-! ### The budget (R276) and the quantum (R47) -/

/-- `n` decrements of BUDGET; those past an expiry are counted towards HUNG. -/
def spendBudget (st : Strand) (n : Nat) : Strand :=
  let v := st.sys.budget.toNat
  let count := bits v 47 0
  let armed := bit v 48
  { st with
    sys := { st.sys with budget := w64 (v - min count n) }
    overrun := if armed && count ≤ n then st.overrun + (n - count) else st.overrun }

/-- BUDGET has expired. -/
def budgetOut (st : Strand) : Bool := bit st.sys.budget.toNat 48 && bits st.sys.budget.toNat 47 0 == 0

/-- The wait counts against BUDGET: a program-visible one, outside trap mode and drain spans (R276). -/
def Wait.counted : Wait → Bool
  | .walk | .results | .time | .yielded | .squashed => false
  | .held | .blocked | .farOrder | .spool | .queue | .pending | .barrier | .future | .done | .ordering | .inbox | .copyQueue | .workQueue | .arrayQueue
  | .probeQueue | .ownWork | .levee => true

/-- A wait at which the core never switches a strand out and which stands at no quiescent point: on an empty or full spool or queue,
on a far load, on a walk or on an ordering wait other than that of DONE (R34, R227). -/
def Wait.fixed : Wait → Bool
  | .held | .blocked | .farOrder | .spool | .queue | .pending | .walk | .inbox | .copyQueue | .workQueue | .arrayQueue | .probeQueue | .ordering | .ownWork => true
  | .barrier | .time | .future | .done | .results | .yielded | .levee | .squashed => false

/-- Whether a freeze waits for what only bundle-time brings on: the core's own array work, pushes or results. DEDUCED (log 50): it lets
bundle-time pass while any of these is under way; every other freeze holds it (R11, R61). -/
def Wait.needsTime (w : Wait) (st : Strand) : Bool :=
  match w with
  | .arrayQueue | .ownWork | .done | .results => !st.pos.line.flights.isEmpty || !st.arr.ops.isEmpty || !st.arr.writes.isEmpty
  | .held | .blocked | .farOrder | .spool | .queue | .pending | .walk | .barrier | .time | .future | .ordering | .inbox | .copyQueue | .workQueue
  | .probeQueue | .yielded | .levee | .squashed => false

/-- Cycles of waiting of a strand (R276): every 64 are one decrement. They use up its quantum where it could leave its core in the wait:
DEDUCED (log 61). -/
def spendWait (st : Strand) (w : Wait) (cycles : Nat) : Strand :=
  let st := if w.fixed then st else { st with ran := st.ran + cycles }
  if !w.counted || st.trapFrame.isSome then st
  else
    let r := st.residue + cycles
    { spendBudget st (r / 64) with residue := r % 64 }

/-! ### Bundle-time -/

/-- The strand of a context freezes. -/
def freezeAt (s : State) (key : Nat) (w : Wait) : State :=
  match s.strandAt key with
  | none => s
  | some st => s.setStrandAt key { st with frozen := some w }

/-- What a push that is held up waits for: the first in flight is one to a pipe or sluice, or one to a spool. -/
def heldWait (s : State) (key : Nat) : Wait :=
  match (flightsAt s key).head?.map Flight.eff with
  | some (.pushQueue _ _ _) => .blocked
  | _ => .held

/-- One bundle-time passes, and the results due land; a push that is held up freezes the core (R12, R58, R61), and a congestion mark
rotates FENT (R286). -/
def advance (s : State) (key : Nat) : State :=
  match s.strandAt key with
  | none => s
  | some st =>
    let line := { st.pos.line with bt := st.pos.line.bt + 1, busy := st.pos.line.busy - 1 }
    let (s1, held) := land (s.setStrandAt key { st with pos := { st.pos with line := line } }) key
    let s2 := rotateDue s1 key
    if held then freezeAt s2 key (heldWait s2 key) else s2

/-! ### Boundaries -/

/-- The slot number and encoding of an operation, as its replay entry would show them (R270). -/
def slotOf (i : Instr) : Nat × Nat :=
  match encodeSlot i with
  | some (k, w) => (k.bitNo, w)
  | none => (0, 0)

/-- What stands at a boundary, once fetched. -/
structure Standing where
  addr : Nat
  result : FetchResult
deriving DecidableEq, Repr

/-- Whether a quiescent point lies before what stands at the boundary (R65). -/
def quiescentAt (st : Strand) (f : Option Standing) : Bool :=
  st.pos.backEdge || st.pos.loopQuiet || (match f with
    | some ⟨_, .idle _ q⟩ => q
    | some ⟨_, .bundle b⟩ => b.quiescent
    | _ => false)

/-- The operations of what stands at a boundary. -/
def standingOps (f : Option Standing) : List Instr :=
  match f with
  | some ⟨_, .bundle b⟩ => b.ops
  | _ => []

/-- A trap to take at a boundary. -/
structure TrapCall where
  err : Raise
  deferred : Bool
  entries : List Replay
  resume : Nat
  /-- The report it answers, and whether that takes the probe queue. -/
  report : Option Report
deriving DecidableEq, Repr

/-- Puts entries in issue order, and in slot order within a bundle (R270). -/
def insertEntry (e : Replay) : List Replay → List Replay
  | [] => [e]
  | g :: l => if e.seq < g.seq then e :: g :: l else g :: insertEntry e l

/-- The retrieval updates that a deferred report makes replay entries of: the failed update and all behind it (R213, R266). -/
def updateEntries (s : State) (st : Strand) (r : Report) : List Replay :=
  let l := s.probesOf st.ident.uid
  if !r.updates then []
  else (l.zip (List.range l.length)).map fun (q, k) =>
    ⟨q.seq, 5, (slotOf q.instr).2, if k == 0 then r.err.cause else 0, if k == 0 then r.err.info else 0, r.err.phys && k == 0,
      q.progress, 0, .probe q⟩

/-- Entries in issue order. -/
def sortEntries (l : List Replay) : List Replay := l.foldl (fun l e => insertEntry e l) []

/-- The trap of the oldest deferred report on one of these paths (R141, R267). In trap mode it is a double fault like any other
(R271, log 28). -/
def reportDue (s : State) (st : Strand) (paths resume : Nat) : Option TrapCall :=
  (st.reports.find? fun r => bit paths r.path).map fun r =>
    ⟨r.err, true, sortEntries (updateEntries s st r ++ st.faults), resume, some r⟩

/-- The paths whose reports are due at a boundary: all of them at a quiescent point, which a strand frozen on a spool, a queue, a
load, a walk or an ordering wait does not stand at (R34, R141, R227), and those on which the standing bundle reports. -/
def boundaryPaths (st : Strand) (stand : Option Standing) (paths : Nat) : Nat :=
  paths ||| (if quiescentAt st stand && !st.frozen.any Wait.fixed then 0x7F else 0)

/-- The trap to take at the boundary of the focus strand, in the order of R267; none when a bundle may issue. `f` is what fetch
found there, and `paths` those on which the bundle that stands there reports, when it reaches its issue. -/
def boundaryTrap (s : State) (st : Strand) (f : Except Raise Standing) (paths : Nat) : Option TrapCall :=
  let here := match f with
    | .ok x => x.addr
    | .error _ => st.pos.pc
  let stand := match f with
    | .ok x => some x
    | .error _ => none
  match reportDue s st (boundaryPaths st stand paths) here with
  | some t => some t
  | none =>
    match st.faults.find? fun e => e.cause != 0 with
    | some e => some ⟨⟨e.cause, e.info, e.phys⟩, false, sortEntries st.faults, here, none⟩
    | none =>
      match f with
      | .error r => some ⟨r, false, [], st.pos.pc, none⟩
      | .ok ⟨a, .illegal⟩ => some ⟨bare s cIllegal, false, [], a, none⟩
      | .ok x =>
        match st.call with
        | some r =>
          if portConflict s (standingOps (some x)) then some ⟨bare s cPortConflict, false, [], here, none⟩
          else some ⟨r, false, [], here, none⟩
        | none => none

/-- Takes the trap of a boundary: the report or the call it answers is spent; a post-issue fault of the bundle of a SYSC or BRK
takes its place (R267). -/
def boundaryTake (s : State) (key : Nat) (t : TrapCall) : State :=
  match s.strandAt key with
  | none => s
  | some st =>
    let reports := match t.report with
      | some r => st.reports.erase r
      | none => st.reports
    let s0 := if t.report.any fun r => r.updates then s.dropProbes st.ident.uid else s
    let spent := (st.call == some t.err && t.entries.isEmpty) || st.faults.any fun e => e.seq / 8 + 1 == st.pos.seq
    takeTrap (s0.setStrandAt key { st with reports := reports, call := if spent then none else st.call })
      key t.err t.deferred t.entries t.resume

/-! ### Issue -/

/-- What an operation came to at issue. -/
inductive OpEnd where
  | ok (s : State)
  | raise (r : Raise)
  | answer (r : Raise)
  | post (r : Raise) (spool : Nat)
  | freeze (w : Wait)
  | hold (w : Wait) (register : State → State)
  | over (i : Issue)

/-- Runs an operation. -/
def runOp (op : Op Unit) (s : State) : OpEnd :=
  match op s with
  | .ok (_, s') => .ok s'
  | .error (.raise r) => .raise r
  | .error (.answer r) => .answer r
  | .error (.post r n) => .post r n
  | .error (.freeze w) => .freeze w
  | .error (.hold w register) => .hold w register
  | .error (.over i) => .over i

/-- The state that an operation of the bundle runs in. -/
def atSlot (i : Instr) (s : State) : State :=
  { s with issue := { s.issue with slot := (slotOf i).1, sword := (slotOf i).2 } }

/-- The issue record as a bundle begins. -/
def beginIssue (s : State) : State :=
  let st := s.strand
  { s with issue := { s.issue with leaf := 0, slot := 0, sword := 0, target := none, final := false, mode := 0, log := [], due := 0
                                   issueBt := st.pos.line.bt, seq := st.pos.seq, taint := false, first := none
                                   hadEffect := st.sideEffect } }

/-- The state that a lone operation runs in. -/
def enter (i : Instr) (s : State) : State := atSlot i (beginIssue s)

/-- A wait that begins only after every issue check of the bundle: a barrier (R353), a future (R376) and LVS (R400). -/
def Wait.isLate : Wait → Bool
  | .barrier | .future | .levee | .squashed => true
  | _ => false

/-- What the operations of a bundle came to: the state, the first freeze, the first fault, and the pops that failed, as entries
with the spool of each. -/
structure BundleEnd where
  state : State
  freeze : Option Wait
  /-- What a freezing operation registers meanwhile. -/
  held : Option (State → State)
  /-- A wait that begins only once every other operation has passed its checks (R353, R376). -/
  late : Option (Wait × (State → State))
  raise : Option Raise
  /-- A fault in an answer that is read last (R376). -/
  answer : Option Raise
  posts : List (Nat × Replay)

/-- An operation whose wait begins last joins the others of its bundle: an arrival at a barrier is registered once every other wait is over
(R353, R376). -/
def BundleEnd.wait (b : BundleEnd) (w : Wait) (register : State → State) : BundleEnd :=
  match b.late with
  | some (.barrier, _) => { b with late := some (w, register) }
  | some _ => b
  | none => { b with late := some (w, register) }

/-- A failed pop makes the operation a replay entry with the operands it captures (R270); a later pop of the same spool in the
bundle makes a dependant (R266). -/
def captureOp (i : Instr) (op : Op Unit) (r : Raise) (n : Nat) (b : BundleEnd) : BundleEnd :=
  let s := atSlot i b.state
  match runOp op { s with issue := { s.issue with mode := 1, log := [], due := 0 } } with
  | .ok s' =>
    let dep := b.posts.any fun p => p.1 == n
    let r := if dep then noRaise else r
    let e : Replay := ⟨s.issue.seq * 8 + s.issue.slot, s.issue.slot, s.issue.sword, r.cause, r.info, r.phys, 0, s'.issue.due,
      .op i s'.issue.log s.issue.issueBt⟩
    { b with state := { s' with issue := { s'.issue with mode := 0, log := [] } }, posts := b.posts ++ [(n, e)] }
  | .raise r | .answer r | .post r _ => { b with raise := b.raise.or (some r) }
  | .freeze w => { b with freeze := b.freeze.or (some w) }
  | .hold w register => { b with freeze := b.freeze.or (some w), held := b.held.or (some register) }
  | .over _ => b

/-- Runs the operations of a bundle in slot order, pops and pushes in order, registers read before any is written (R54). -/
def runBundle : List (Instr × Op Unit) → BundleEnd → BundleEnd
  | [], b => b
  | (i, op) :: rest, b =>
    runBundle rest (match runOp op (atSlot i b.state) with
      | .ok s' => { b with state := s' }
      | .raise r => { b with raise := b.raise.or (some r) }
      | .answer r => { b with answer := b.answer.or (some r) }
      | .over _ => b
      | .freeze w => { b with freeze := b.freeze.or (some w) }
      | .hold w register =>
        if w.isLate then b.wait w register
        else { b with freeze := b.freeze.or (some w), held := b.held.or (some register) }
      | .post r n => captureOp i op r n b)

/-- What follows the issue of a bundle: stores perform, the array starts what it can, control moves, and BUDGET and the quantum
count (R59, R62, R86, R276). DEDUCED (log 25): a LEAVE or a branch in an end bundle decides where control goes, also where the bundle
ends a level that LEAVE does not pop: no back edge of that level is tested. -/
def commitBundle (s : State) (posts : List Replay) : State :=
  if s.issue.final then s
  else
    let key := s.focus
    match s.strandAt key with
    | none => s
    | some st0 =>
      let s1 := s.setStrandAt key { st0 with faults := st0.faults ++ posts, walked := [], asked := [], pos := { st0.pos with seq := st0.pos.seq + 1 } }
      let s2 := (land s1 key).1
      let s3 := (arrPulse s2 key).1
      let (edge, s4) := match s3.issue.target with
        | some t => (EdgeResult.mk t false false, s3)
        | none => backEdges key s3.issue.pc s3.issue.next st0.leaving.isSome 7 false s3
      match s4.strandAt key with
      | none => s4
      | some st =>
        let busy := 1 + s4.issue.idle + (if s4.issue.target.isSome then 2 else 0)
        let st1 := { st with stepping := false, pos := { st.pos with
          pc := edge.next, loopQuiet := edge.loopQuiet, backEdge := edge.backEdge, line := { st.pos.line with busy := busy } } }
        let st2 := if st1.trapFrame.isSome then st1 else { spendBudget st1 1 with ran := st1.ran + busy, resumed := false }
        s4.setStrandAt key st2

/-- The leaf that the BTREE of a bundle takes; 0 with no BTREE (R84). -/
def bundleLeaf (s : State) (ops : List Instr) : Nat :=
  let st := s.strand
  let holds (t : LeafTest) : Bool := readPAt s s.focus st st.bank t.pred.toNat != (t.polarity == 1)
  match ops.findSome? fun i => match i with
    | .btree t0 t1 t2 t3 => some [t0, t1, t2, t3]
    | _ => none with
  | none => 0
  | some ts => (ts.findIdx? holds).elim 5 fun k => k + 1

/-- Whether an operation of a bundle with this leaf commits (R83). -/
def willCommit (s : State) (leaf : Nat) (i : Instr) : Bool :=
  match i.tag? with
  | none => true
  | some t => (readPAt s s.focus s.strand s.strand.bank t.gp.toNat != (t.gn == 1)) && (t.path == 0 || t.path.toNat == leaf)

/-- The paths on which an operation reports deferred faults at its issue: FENCE, DRAIN, STL, DONE and TRIG (R141, R391). -/
def reportPaths (s : State) (i : Instr) : Nat :=
  match i with
  | .fence _ _ src _ => src.toNat
  | .drain _ p => p.toNat
  | .stl _ _ xa _ _ imm =>
    let st := s.strand
    let va := (readXAt s s.focus st st.bank xa.toNat + imm.signExtend 64).toNat
    match tlbFind s s.coreNo st.ident.asid va with
    | some m => 2 ^ pathOfSpace (s.space (m.phys va))
    | none => 0
  | .done | .trig => 0x7F
  | _ => 0

/-- The paths on which the operations of a bundle that commit report deferred faults. -/
def bundlePaths (s : State) (ops : List Instr) : Nat :=
  (ops.filter (willCommit s (bundleLeaf s ops))).foldl (fun acc i => acc ||| reportPaths s i) 0

/-- The deferred report that a bundle takes at its issue. -/
def bundleReport (s : State) (ops : List Instr) : Option TrapCall := reportDue s s.strand (bundlePaths s ops) s.issue.pc

/-- What a scan of a bundle finds: its first freeze, with what that registers, and of the first operation that fails the fault that goes
first in the order of R267. -/
structure Scan where
  freeze : Option (Wait × (State → State))
  first : Option Raise

/-- The first freeze that the operations of a bundle ask for when what fails in them is passed over: a freeze comes before every
issue fault of its bundle (R471); and the fault of the first operation that notes one, after those already found. -/
def scanBundle : List (Instr × Op Unit) → State → Option Raise → Scan
  | [], _, f => ⟨none, f⟩
  | (i, op) :: rest, s, f =>
    let s1 := atSlot i s
    let noted (i : Issue) : Option Raise := f.or (i.first.map Prod.snd)
    match runOp op { s1 with issue := { s1.issue with mode := 3, taint := false, first := none } } with
    | .ok s' => scanBundle rest s' (noted s'.issue)
    | .over i => scanBundle rest s (noted i)
    | .raise _ | .answer _ | .post _ _ => scanBundle rest s f
    | .freeze w => ⟨some (w, id), none⟩
    | .hold w register => ⟨some (w, register), none⟩

/-- What a bundle comes to at its boundary. -/
inductive Verdict where
  | wait (w : Wait) (register : State → State)
  | report (t : TrapCall)
  | fault (r : Raise)
  | late (w : Wait) (register : State → State)
  | pass (b : BundleEnd)

/-- The judgement on a bundle: a freeze comes before every report and fault of its issue (R471), a deferred report comes next, then
PORT_CONFLICT, which waits for no freeze, then the fault of the first slot that has one (R267), then one in an answer that is read
last, and then a wait that begins last (R353, R376). -/
def judge (ops : List (Instr × Op Unit)) (s0 : State) : Verdict :=
  let b := runBundle ops ⟨s0, none, none, none, none, none, []⟩
  let scan : Scan := match b.freeze, b.raise with
    | some w, _ => ⟨some (w, b.held.getD id), none⟩
    | none, some _ => scanBundle ops s0 none
    | none, none => ⟨none, none⟩
  let conflict := portConflict s0 (ops.map Prod.fst)
  match scan.freeze, bundleReport s0 (ops.map Prod.fst), b.raise with
  | some (w, register), _, _ => if conflict then .fault (bare s0 cPortConflict) else .wait w register
  | none, some t, _ => .report t
  | none, none, r =>
    if conflict then .fault (bare s0 cPortConflict)
    else match r, b.answer, b.late with
      | some r, _, _ => .fault (scan.first.getD r)
      | none, some r, _ => .fault r
      | none, none, some (w, register) => .late w register
      | none, none, none => .pass b

/-- A bundle that has issued takes effect, and its bundle-time passes; DONE, RFT and the like have fixed where the strand stands
themselves. -/
def settleIssue (s : State) (posts : List Replay) : State :=
  let s1 := commitBundle s posts
  if s.issue.final then s1 else advance s1 s1.focus

/-- THE ISSUE OF A BUNDLE: all its operations at one bundle-time, whole or not at all. A fault is taken with the bundle undone (R266,
R267, R471). -/
def issueOps (ops : List (Instr × Op Unit)) (s : State) : Host.Outcome State Fault Refusal :=
  if !s.issuing then .fault .noStrand
  else
    let s0 := beginIssue s
    match judge ops s0 with
    | .wait w register | .late w register => .next (freezeAt (register s0) s0.focus w)
    | .report t => .next (boundaryTake s0 s0.focus t)
    | .fault r => .next (takeTrap s0 s0.focus r false [] s0.issue.pc)
    | .pass b => .next (settleIssue b.state (b.posts.map Prod.snd))

/-- The issue of a bundle of one operation: the meaning of every slot instruction. -/
def issueOne (i : Instr) (op : Op Unit) (s : State) : Host.Outcome State Fault Refusal := issueOps [(i, op)] s

end Sys2Proof.Machine
end

