-- ==== Sys2Proof/Machine/Order.lean ====
section
/-!
DEFINITION. The consistency model as one core sees it (R217-R234): what a scope covers, what work of a strand is outstanding on
a path, and the waits of the ordering instructions (R227, R372).
-/
namespace Sys2Proof.Machine

open Sys2Proof

/-- A package of the fabric group (R255, R284). -/
def inGroup (s : State) (j : Nat) : Bool := bit (s.host.fgrp.getD (j / 64) 0).toNat (j % 64)

/-- The fields of POLDER (R255). -/
def polderEn (v : Word) : Bool := bit v.toNat 0
def polderLevel (v : Word) : Nat := bits v.toNat 2 1
def polderPid (v : Word) : Nat := bits v.toNat 19 8
def polderMembers (v : Word) : Nat := bits v.toNat 40 20

/-- Whether a scope of the strand covers the package space of package `j` (R220); which other packages hold a member of a polder of
fabric level stands outside the model (log 10). -/
def coversPackage (s : State) (st : Strand) (scope j : Nat) : Bool :=
  if s.isOwn j then true
  else match scope with
    | 7 | 11 => true
    | 8 => polderLevel st.sys.polder == 3 && inGroup s j && Config.foreignMember (polderPid st.sys.polder) j
    | 9 => inGroup s j
    | _ => false

/-- Whether a scope of the strand covers a physical address (R220). -/
def covers (s : State) (st : Strand) (scope a : Nat) : Bool :=
  match s.space a with
  | .host => scope == 6 || scope == 10 || scope == 11
  | .fabric j => coversPackage s st scope j
  | _ => true

/-- The accelerator at the other end of sluice k of an address space (R288). -/
def sluicePeer (s : State) (asid k : Nat) : Nat := bits (s.readNat (sluiceEntryAddr s asid k) 32) 25 16

/-- Whether a far access touches a location that the scope covers; no scope covers every location. -/
def farCovered (s : State) (st : Strand) (scope : Option Nat) (f : FarOp) : Bool :=
  match scope with
  | none => true
  | some sc =>
    match f.kind with
    | .sluice q _ => coversPackage s st sc (sluicePeer s st.ident.asid (q - 4))
    | _ => f.pieces.any fun p => covers s st sc p.1

/-- Whether the retrieval updates of a strand have ended: a failed one, with those behind it, ends with its report (R213). -/
def updatesEnded (s : State) (st : Strand) : Bool :=
  (s.probesOf st.ident.uid).all (fun q => q.kind == 0) || st.reports.any fun r => r.updates

/-- Whether an engine of the focus strand works at a location that a scope covers, by a virtual address of it; no scope covers every
location, and so does an address that does not translate. -/
def engineCovered (s : State) (st : Strand) (scope : Option Nat) (va : Nat) : Bool :=
  match scope with
  | none => true
  | some sc =>
    match (engineMap s (agentFor s.focus st) va).1 with
    | some m => covers s st sc (m.phys va)
    | none => true

/-- Whether a place is covered; one that an index is still to decide may be. -/
def placeCovered (s : State) (st : Strand) (scope : Option Nat) (r : Option (Nat × Nat)) : Bool :=
  match r with
  | some p => engineCovered s st scope p.1
  | none => true

/-- Whether pushes to covered locations are unwritten: those in a buffer, or, with `flying`, those still to land (R372). -/
def pushesOpen (s : State) (st : Strand) (scope : Option Nat) (flying : Bool) : Bool :=
  ((if flying then pushesFlying st (s.issue.seq * 8) else pushesHeld st (s.issue.seq * 8)).any) (placeCovered s st scope)

/-- Whether some number from `i` on, `n` of them, satisfies a test. -/
def anyFrom (p : Nat → Bool) : Nat → Nat → Bool
  | 0, _ => false
  | n + 1, i => p i || anyFrom p n (i + 1)

/-- Whether some byte of a stretch of addresses is covered: the address space of a page is one throughout. -/
def rangeCovered (s : State) (st : Strand) (scope : Option Nat) (va n : Nat) : Bool :=
  n != 0 && (engineCovered s st scope va ||
    anyFrom (fun i => let a := (va / 65536 + i) * 65536; a < va + n && engineCovered s st scope a) (n / 65536 + 1) 1)

/-- Whether an element that a copy has still to read or write lies at a covered location (R154, R372). -/
def copyCovered (s : State) (st : Strand) (scope : Option Nat) (c : Copy) : Bool :=
  let one (r : Nat) (i : List Nat) : Bool := let (inside, a) := tlElem r i; inside && engineCovered s st scope a
  anyFrom (fun n => one c.src (tlPoint c.src n) || one c.dst (tlPoint c.src n)) (tlPoints c.src - c.next) c.next

/-- Whether a merge reads or writes at a covered location: its fibre table, the coordinates and values of its fibres as their entries give
them, or its output area (R162, R163). -/
def mergeCovered (s : State) (st : Strand) (scope : Option Nat) (j : MergeJob) : Bool :=
  scope.isNone || rangeCovered s st scope (mdFibt j.desc) (32 * mdNf j.desc) || rangeCovered s st scope (mdOutb j.desc) (8 * mdCap j.desc + 8) ||
    (List.range (mdNf j.desc)).any fun i =>
      match ((j.agent.read (mdFibt j.desc + 32 * i) 32).on s).1 with
      | .ok e => let n := 4 * bits e 159 128; rangeCovered s st scope (bits e 56 0) n || rangeCovered s st scope (bits e 120 64) n
      | .error _ => true

/-- Sluice sends of earlier bundles to covered locations that have not landed (R425). -/
def sendsFlying (s : State) (st : Strand) (scope : Option Nat) : Bool :=
  st.pos.line.flights.any fun f => f.seq / 8 < s.issue.seq && (match f.eff with
    | .pushQueue q _ _ => 4 ≤ q && (match scope with
      | none => true
      | some sc => coversPackage s st sc (sluicePeer s st.ident.asid (q - 4)))
    | _ => false)

/-- Whether a collective works at a covered location: at its source, its destination or its completion word, or in another package that
takes part (R291, R372). -/
def collectiveCovered (s : State) (st : Strand) (scope : Option Nat) (c : Collective) : Bool :=
  let n := cdCount c.desc * fmtBytes (cdFmt c.desc)
  rangeCovered s st scope (cdSrc c.desc) n || rangeCovered s st scope (cdDst c.desc) n || engineCovered s st scope (cdCmpl c.desc) ||
    match scope with
    | none => true
    | some sc => (List.range 1024).any fun j => bit c.mask j && !s.isOwn j && coversPackage s st sc j

/-- Whether earlier work of the strand on a path is unfinished (R219, R372). Every scope covers a retrieval request: the tables, rows and
accumulators that it works at lie in the package (R199, R215, R220). -/
def outstanding (s : State) (st : Strand) (scope : Option Nat) (path : Nat) : Bool :=
  match path with
  | 1 => pushesOpen s st scope false
      || s.merges.any fun m => m.uid == st.ident.uid && m.seq < s.issue.seq * 8 && mergeCovered s st scope m
  | 2 => s.copies.any fun c => c.uid == st.ident.uid && (scope.isNone || copyCovered s st scope c)
  | 3 => st.arr.ops.any fun o => match o.kind with
    | .loadCluster _ _ => o.seq < s.issue.seq * 8 && (o.start.isNone || o.done < o.total)
    | _ => false
  | 4 => !(s.probesOf st.ident.uid).isEmpty && !st.reports.any fun r => r.updates
  | p => (st.far.any fun f => f.path == p && f.seq < s.issue.seq && farCovered s st scope f)
      || (p == 5 && s.collectives.any fun c => c.uid == st.ident.uid && (scope.isNone || collectiveCovered s st scope c))

/-- Whether earlier work on a path is unfinished that only bundle-time brings on: a cluster ALDB that takes rows, pushes and sends that
have not landed (R372, log 50). -/
def ownWork (s : State) (st : Strand) (scope : Option Nat) (path : Nat) : Bool :=
  match path with
  | 1 => pushesOpen s st scope true
  | 3 => outstanding s st scope 3
  | 5 => sendsFlying s st scope
  | _ => false

/-- Freezes the core while earlier work of a strand on these paths to covered locations is unfinished (R227, R372). Work that goes on with
bundle-time has it run meanwhile. -/
def waitsOn (s : State) (st : Strand) (scope : Option Nat) (paths : Nat) : Op Unit := do
  let open' (p : Nat) : Bool := bit paths p && outstanding s st scope p
  waitWhile ([1, 4].any open') .ordering
  waitWhile ([0, 2, 5, 6].any open') .farOrder
  waitWhile ((List.range 7).any fun p => bit paths p && ownWork s st scope p) .ownWork

/-- The wait of an ordering instruction of the focus strand (R227, R372). -/
def orderWait (scope : Option Nat) (paths : Nat) : Op Unit := do
  let s ← get
  waitsOn s s.strand scope paths

/-- The pipeline paths P, F and H (R219). -/
def pipelinePaths : Nat := 0x61

/-- All seven paths. -/
def allPaths : Nat := 0x7F

/-- The wait of a TRIG: for the work of every path to covered locations, but, DEDUCED (log 18), for no far load that has not landed
(R425). -/
def trigWait (scope : Nat) : Op Unit := do
  let s ← get
  let others := s.strand.far.filter fun f => match f.kind with
    | .load _ => false
    | _ => true
  waitsOn s { s.strand with far := others } (some scope) allPaths

/-- A release waits for the earlier pipeline accesses to covered locations (R225). -/
def releaseWait (scope : Nat) : Op Unit := orderWait (some scope) pipelinePaths

/-- Whether anything that the strand issued has not landed or completed (R371). -/
def unlanded (s : State) (st : Strand) : Bool :=
  !st.pos.line.flights.isEmpty || !st.arr.ops.isEmpty || !st.arr.writes.isEmpty
    || st.spools.toList.any (fun o => match o with
      | some sp => spIsStore sp.desc && !sp.buf.isEmpty
      | none => false)
    || s.merges.any (fun m => m.uid == st.ident.uid)

/-- Whether two far accesses of a strand must perform in program order: the same path and a common byte, or, on F, a common
64-byte line (R223, R233); the sends of one sluice (R234). -/
def farOverlap (f g : FarOp) : Bool :=
  f.path == g.path &&
    match f.kind, g.kind with
    | .sluice q _, .sluice q' _ => q == q'
    | _, _ => f.pieces.any fun p => g.pieces.any fun r =>
      if f.path == 5 then p.1 / 64 * 64 < r.1 + r.2 && r.1 / 64 * 64 < p.1 + p.2 else p.1 < r.1 + r.2 && r.1 < p.1 + p.2

/-- Whether a far access may perform: no earlier one of the strand stands before it. -/
def mayPerform (st : Strand) (f : FarOp) : Bool :=
  (st.far.takeWhile fun g => g.id != f.id).all fun g => !farOverlap g f

end Sys2Proof.Machine
end

