-- ==== Sys2Proof/Machine/Levee.lean ====
section
/-!
DEFINITION. What the levee does (R35-R50, R236-R263): launch records, the frontier, placement, binding a strand to a context,
the ends of strands and points, task regions, predecessors and completion records.
-/
namespace Sys2Proof.Machine

open Sys2Proof

/-! ### The launch record (R241) -/

def lrKernel (r : Nat) : Nat := bits r 56 0
def lrArg (r : Nat) : Nat := bits r 127 64
def lrCmask (r : Nat) : Nat := bits r 191 128
def lrComp (r : Nat) : Nat := bits r 248 192
def lrExtField (r k : Nat) : Nat := bits r (280 + 32 * k) (256 + 32 * k)
def lrNdim (r : Nat) : Nat := bits r 353 352
def lrSweep (r : Nat) : Nat := bits r 355 354
def lrWin (r : Nat) : Nat := bits r 358 356
def lrNvec (r : Nat) : Nat := bits r 361 359
def lrPrio (r : Nat) : Nat := bits r 364 362
def lrCscope (r : Nat) : Nat := bits r 369 366
def lrAsid (r : Nat) : Nat := bits r 381 370
def lrTag (r : Nat) : Nat := bits r 399 384
def lrPred (r n : Nat) : Nat := bits r (415 + 16 * n) (400 + 16 * n)
def lrEarly (r n : Nat) : Bool := bit r (432 + n)
def lrVec (r i k : Nat) : Int := signedOf 24 (bits r (471 + 72 * i + 24 * k) (448 + 72 * i + 24 * k))
def lrAffBase (r : Nat) : Nat := bits r 792 736
def lrAffStride (r k : Nat) : Int := signedOf 32 (bits r (831 + 32 * k) (800 + 32 * k))

/-- The extent of dimension k; 1 for one that the launch lacks (R241). -/
def lrExt (r k : Nat) : Nat := if k < lrNdim r then lrExtField r k else 1

/-- The fields that must be zero (R241). -/
def lrReserved (r : Nat) : Bool :=
  bits r 1023 896 == 0 && bits r 799 793 == 0 && bits r 447 434 == 0 && bits r 383 382 == 0 && !bit r 365 && bits r 351 345 == 0
    && bits r 319 313 == 0 && bits r 287 281 == 0 && bits r 255 249 == 0 && bits r 63 57 == 0

/-! ### The frontier (R245-R248) -/

/-- The dimensions other than the sweep, in ascending order. -/
def otherDims (r : Nat) : Nat × Nat :=
  match lrSweep r with
  | 0 => (1, 2)
  | 1 => (0, 2)
  | _ => (0, 1)

/-- The number of columns (R245). -/
def columnCount (r : Nat) : Nat := lrExt r (otherDims r).1 * lrExt r (otherDims r).2

/-- A coordinate of a point. -/
def coord (x y z k : Nat) : Nat := match k with | 0 => x | 1 => y | _ => z

/-- The column of a point. -/
def columnOf (r x y z : Nat) : Nat := coord x y z (otherDims r).1 + lrExt r (otherDims r).1 * coord x y z (otherDims r).2

/-- Coordinate k of the point (c, h). -/
def coordOf (r c h k : Nat) : Nat :=
  if k == lrSweep r then h
  else if k == (otherDims r).1 then c % lrExt r (otherDims r).1
  else c / lrExt r (otherDims r).1

/-- The column word of column c. -/
def LaunchSlot.column (s : LaunchSlot) (c : Nat) : Column := (tabGet s.columns c).getD ⟨0, 0, 0, false⟩

/-- Puts a column word. -/
def LaunchSlot.setColumn (s : LaunchSlot) (c : Nat) (w : Column) : LaunchSlot := { s with columns := tabSet s.columns c w }

/-- Whether the point (c, h) is complete (R246). -/
def pointDone (s : LaunchSlot) (c h : Nat) : Bool :=
  let w := s.column c
  w.full || h < w.height || (w.height ≤ h && h < w.height + 8 && bit w.comp (h - w.height))

/-- The predecessor of a point along vector i, or none where it lies outside the space (R246). -/
def predecessor (r x y z i : Nat) : Option (Nat × Nat × Nat) :=
  let p (k : Nat) : Int := (coord x y z k : Int) - lrVec r i k
  if (List.range 3).all fun k => 0 ≤ p k && p k < lrExt r k then some ((p 0).toNat, (p 1).toNat, (p 2).toNat) else none

/-- The boundary mask of a point, x4 (R35). -/
def boundaryMask (r x y z : Nat) : Nat :=
  ((List.range (lrNvec r)).filter fun i => (predecessor r x y z i).isNone).foldl (fun m i => m + 2 ^ i) 0

/-- Whether a point lies in the window of its column, neither fired nor complete, with its predecessors complete (R246). -/
def eligible (s : LaunchSlot) (x y z : Nat) : Bool :=
  let r := s.record
  let c := columnOf r x y z
  let h := coord x y z (lrSweep r)
  let w := s.column c
  !w.full && w.height ≤ h && h ≤ w.height + lrWin r && h < lrExt r (lrSweep r) && !bit w.fired (h - w.height)
    && !bit w.comp (h - w.height)
    && (List.range (lrNvec r)).all fun i => match predecessor r x y z i with
      | none => true
      | some (a, b, d) => pointDone s (columnOf r a b d) (coord a b d (lrSweep r))

/-- Slides a column's window over its complete points (R247). -/
def slide : Nat → Column → Column
  | 0, w => w
  | n + 1, w =>
    if bit w.comp 0 then
      slide n (if w.height + 1 == 2 ^ 24 then ⟨0, w.comp / 2, w.fired / 2, true⟩ else ⟨w.height + 1, w.comp / 2, w.fired / 2, w.full⟩)
    else w

/-- The frontier after the point (c, h) completes (R247). -/
def completeColumn (w : Column) (h : Nat) : Column :=
  let k := h - w.height
  slide 8 { w with comp := w.comp ||| 2 ^ k, fired := if bit w.fired k then w.fired - 2 ^ k else w.fired }

/-- Whether every column holds all its points (R247). -/
def allComplete (s : LaunchSlot) : Bool :=
  let e := lrExt s.record (lrSweep s.record)
  s.columns.length == columnCount s.record && s.columns.all fun p => p.2.full || p.2.height == e

/-- Each dependence vector is positive and deep enough (R248). -/
def vectorOk (r i : Nat) : Bool :=
  let s := lrSweep r
  let (a, b) := otherDims r
  let ds := lrVec r i s
  let lex := match [ds, lrVec r i a, lrVec r i b].find? (· != 0) with
    | some d => 0 < d
    | none => false
  lex && ((lrWin r : Int) + 1 ≤ ds || (ds == 0 && lrWin r == 0))

/-- The points of a launch. -/
def pointTotal (r : Nat) : Nat := lrExt r 0 * lrExt r 1 * lrExt r 2

/-! ### Accesses of the hub units -/

/-- The hub units as an agent in an address space: they keep no TLB entry and have no strand's path entropy. -/
def hubAgent (asid : Nat) : Agent := ⟨2048, asid, false, 0, 0⟩

/-- A read by the hub units in an address space. -/
def hubRead (s : State) (asid va n : Nat) : Except Raise Nat :=
  match (engineRead s (hubAgent asid) va n).1 with
  | .ok b => .ok (leNat b)
  | .error r => .error r

/-- A write by the hub units in an address space. -/
def hubWrite (s : State) (asid va : Nat) (data : List Byte) : Option Raise × State :=
  let (r, s') := engineWrite s (hubAgent asid) va data
  (r, { s' with tlb := s.tlb })

/-! ### Kernel and skein images (R91, R92, R253) -/

def khSpools (h : Nat) : Nat := bits h 175 160
def khRegBytes (h : Nat) : Nat := bits h 147 128
def khEntry (h : Nat) : Nat := bits h 127 96
def khCodeLen (h : Nat) : Nat := bits h 95 64
def khCallDepth (h : Nat) : Nat := bits h 52 48

/-- Whether the partition of a context on some core of the core set holds the kernel (R92). -/
def roomSomewhere (s : State) (cmask regBytes : Nat) : Bool :=
  (List.range 512).any fun core => bit cmask (clusterOf core)
    && (List.range 2).any fun c => roundUp regBytes 4096 ≤ (partitionOf s (2 * core + c)).2

/-- The checks of R92 on a kernel header. -/
def kernelOk (s : State) (cmask h : Nat) : Bool :=
  bits h 31 0 == 0x4B4C5A4E && bits h 47 32 == 1 && bits h 511 176 == 0 && bits h 159 148 == 0 && bits h 63 53 == 0
    && khCallDepth h ≤ 16 && khCodeLen h != 0 && khCodeLen h % 64 == 0 && khEntry h < khCodeLen h
    && roomSomewhere s cmask (khRegBytes h)

/-- A skein header's pipes. -/
def skPipe (h m : Nat) : Nat := bits h (75 + 12 * m) (64 + 12 * m)
def skMembers (h : Nat) : Nat := bits h 51 48
def isSkein (h : Nat) : Bool := bits h 31 0 == 0x4B535A4E

/-- Whether a list holds no element twice. -/
def noRepeats : List Nat → Bool
  | [] => true
  | a :: l => !l.contains a && noRepeats l

/-- The checks of R253 on a skein header. -/
def skeinOk (h : Nat) : Bool :=
  let ps := ((List.range 16).map (skPipe h)).filter fun e => bit e 11
  bits h 31 0 == 0x4B535A4E && bits h 47 32 == 1 && bits h 511 256 == 0 && bits h 63 52 == 0 && 1 ≤ skMembers h && skMembers h ≤ 8
    && ((List.range 16).all fun m => bit (skPipe h m) 11 || skPipe h m == 0)
    && (ps.all fun e => !bit e 0 && pipeWM e < skMembers h && pipeRM e < skMembers h)
    && noRepeats (ps.flatMap fun e => [4 * pipeWM e + pipeWQ e, 4 * pipeRM e + pipeRQ e])

/-- The kernel images that a launch names: one for a plain launch, one for each member of a skein; none where its header cannot be read,
or R253 fails. DEDUCED (log 65): an image that is not 64-byte aligned, which R91 demands and R92 does not list, is rejected too. -/
def kernelImages (s : State) (r : Nat) : Option (List Nat) :=
  let asid := lrAsid r
  let k := lrKernel r
  match hubRead s asid k 64 with
  | .error _ => none
  | .ok h =>
    if k % 64 != 0 then none
    else if isSkein h then
      match hubRead s asid (k + 64) 64 with
      | .error _ => none
      | .ok es =>
        let ms := (List.range 8).map fun i => bits es (64 * i + 63) (64 * i)
        let n := skMembers h
        if skeinOk h && (ms.drop n).all (· == 0) then some (ms.take n) else none
    else some [k]

/-- The kernel images of a launch that pass the checks of its admission (R92, R253), the alignment of R91 among them (log 65). -/
def kernelsOf (s : State) (r : Nat) : Option (List Nat) :=
  let good (a : Nat) : Bool := match hubRead s (lrAsid r) a 64 with
    | .ok h => a % 64 == 0 && kernelOk s (lrCmask r) h
    | .error _ => false
  match kernelImages s r with
  | none => none
  | some l => if l.all good then some l else none

/-- Whether the launch binds skeins. -/
def launchIsSkein (s : State) (r : Nat) : Bool :=
  match hubRead s (lrAsid r) (lrKernel r) 64 with
  | .ok h => isSkein h
  | .error _ => false

/-! ### Placement (R122, R250, R251) -/

/-- The XOR of five chunks of 9 bits (R122). -/
def foldNine (g : Nat) : Nat := (List.range 5).foldl (fun acc i => acc ^^^ bits g (9 * i + 8) (9 * i)) 0

/-- The core that a physical address names as owner or target (R44, R122, R250). -/
def ownerCore (s : State) (a : Nat) : Option Nat :=
  if 2 ^ 40 ≤ a && a < 0x010100000000 then some ((a - 2 ^ 40) / 0x800000)
  else match s.space a with
    | .hbm => some (foldNine (a / 4096))
    | .tier => some (foldNine ((a - 0x080000000000) / 4096))
    | _ => none

/-- The affinity target of a point (R250). -/
def affinityTarget (s : State) (r x y z : Nat) : Option Nat :=
  if lrAffBase r == 0 then none
  else
    let a := wrap 57 (lrAffBase r + x * lrAffStride r 0 + y * lrAffStride r 1 + z * lrAffStride r 2)
    match walkTables s (lrAsid r) a with
    | some m => ownerCore s (m.phys a)
    | none => none

/-- The distance of a core to a target (R251). -/
def distanceTo (target : Option Nat) (core : Nat) : Nat :=
  match target with
  | none => 0
  | some t => if core == t then 0 else if clusterOf core == clusterOf t then 1 else if dieOf core == dieOf t then 2 else 3

/-- A context that may take a strand: FREE, a legal partition of enough bytes (R74, R251); a supervisor core has one context (R17). -/
def contextTakes (s : State) (key regBytes : Nat) : Bool :=
  let c := s.ctx key
  let p := c.part.toNat
  (key < 1024 || key % 2 == 0) && c.state == .free && c.strand.isNone && bits p 23 16 != 0 && bits p 6 0 + bits p 23 16 ≤ 128
    && roundUp regBytes 4096 ≤ (partitionOf s key).2

/-! ### Binding a strand to a context (R35, R258, R470) -/

/-- LAUNCH as the levee writes it (R258). -/
def launchWord (r slot member : Nat) (skein task : Bool) : Word :=
  w64 (packFields [(16, lrTag r), (3, lrPrio r), (4, 0), (3, member), (1, bit01 skein), (1, bit01 task), (6, slot), (18, 0),
    (12, lrAsid r)])

/-- What a new strand begins with beside R35's zeroes. -/
structure Start where
  ident : Ident
  entry : Nat
  x1 : Word
  x2 : Word
  x3 : Word
  x4 : Word
  x5 : Word
  launch : Word
  weight : Nat

/-- The strand at its kernel's entry (R35). -/
def Start.strand (b : Start) : Strand :=
  let z := Strand.init
  { z with
    ident := b.ident
    pos := { z.pos with pc := b.ident.image + 64 + b.entry }
    xs := ((((z.xs.setIfInBounds 1 b.x1).setIfInBounds 2 b.x2).setIfInBounds 3 b.x3).setIfInBounds 4 b.x4).setIfInBounds 5 b.x5
    sys := { z.sys with launch := b.launch, weight := w64 b.weight } }

/-- Binds a new strand to a FREE context, which becomes LOADING; the partition is zeroed unless the same launch used it last
(R32, R470). The trap bank holds zero when the context first holds a strand (R271). -/
def bindStrand (s : State) (key : Nat) (b : Start) : State :=
  let c := s.ctx key
  let (base, size) := partitionOf s key
  let keep := b.ident.launch.isSome && c.lastLaunch == b.ident.launch
  let s := if keep then s
    else { s with mem := memClear s.mem base size, poison := s.poison.filter fun w => !(base ≤ w && w < base + size) }
  s.setCtx key { c with state := .loading, lastLaunch := b.ident.launch, strand := some b.strand }

/-- The kernel facts that a strand keeps: image, code bytes, call depth, spools. -/
def kernelIdent (s : State) (asid image : Nat) (i : Ident) : Ident :=
  let h := match hubRead s asid image 64 with
    | .ok h => h
    | .error _ => 0
  { i with asid := asid, image := image, codeLen := khCodeLen h, callDepth := khCallDepth h, spoolMask := khSpools h }

/-- The entry offset in a kernel image. -/
def kernelEntry (s : State) (asid image : Nat) : Nat :=
  match hubRead s asid image 64 with
  | .ok h => khEntry h
  | .error _ => 0

/-- A context loses its strand and becomes FREE. -/
def freeContext (s : State) (key : Nat) : State := s.setCtx key { s.ctx key with state := .free, strand := none }

/-! ### Slots, regions and points -/

/-- A launch slot by its number. -/
def State.slot (s : State) (n : Nat) : LaunchSlot := (tabGet s.slots n).getD LaunchSlot.init

/-- Changes a launch slot. -/
def State.setSlot (s : State) (n : Nat) (x : LaunchSlot) : State := { s with slots := tabSet s.slots n x }

/-- Whether a launch is still in some slot. -/
def launchLives (s : State) (launch : Nat) : Bool := s.slots.any fun p => p.2.state != .free && p.2.launch == launch

/-- Whether every point of a launch has been fired and has executed TRIG or DONE (R244). -/
def launchEarly (s : State) (launch : Nat) : Bool :=
  s.slots.any fun p => p.2.state != .free && p.2.state != .saved && p.2.launch == launch && p.2.firedTotal == pointTotal p.2.record
    && p.2.signalled == pointTotal p.2.record

/-- Whether the predecessors of a slot are satisfied (R244). -/
def predsMet (s : State) (x : LaunchSlot) : Bool :=
  let met (n : Nat) (l : List Nat) : Bool := l.all fun launch => !launchLives s launch || (lrEarly x.record n && launchEarly s launch)
  met 0 x.pred0 && met 1 x.pred1

/-- Slots whose predecessors are satisfied begin to run (R244). -/
def settle (s : State) : State :=
  { s with slots := s.slots.map fun (n, x) => if x.state == .waiting && predsMet s x then (n, { x with state := .running }) else (n, x) }

/-- Changes the point in flight at some coordinates of a slot. -/
def LaunchSlot.modFlying (x : LaunchSlot) (a b c : Nat) (f : InFlight → InFlight) : LaunchSlot :=
  { x with flying := x.flying.map fun p => if p.x == a && p.y == b && p.z == c then f p else p }

/-- The point in flight at some coordinates of a slot. -/
def LaunchSlot.flyingAt (x : LaunchSlot) (a b c : Nat) : Option InFlight :=
  x.flying.find? fun p => p.x == a && p.y == b && p.z == c

/-- The point counts as triggered: its first TRIG, or its DONE where it has none (R230, R426). -/
def signalPoint (s : State) (slot a b c : Nat) : State :=
  let x := s.slot slot
  match x.flyingAt a b c with
  | none => s
  | some p =>
    if p.trig then s
    else settle (s.setSlot slot { x.modFlying a b c (fun p => { p with trig := true }) with signalled := x.signalled + 1 })

/-- Weight returns to a region (R45). -/
def returnWeight (s : State) (region : Option Nat) (w : Nat) : State :=
  { s with regions := s.regions.map fun r => if region == some r.id then { r with returned := r.returned + w } else r }

/-- Whether a region of a point is still open: its weights do not sum to 2^63 (R45). -/
def regionOpen (s : State) (slot launch a b c : Nat) : Bool :=
  s.regions.any fun r => r.slot == slot && r.launch == launch && r.x == a && r.y == b && r.z == c && r.returned != 2 ^ 63

/-- A strand of a point has executed its last DONE: the point waits for its regions only. A DONE wins over LVS, which has not stopped the
strand: the point is not returned, unless LVS has discarded tasks of its regions (R50, R261, log 38). -/
def retirePoint (s : State) (slot a b c : Nat) : State :=
  let s := signalPoint s slot a b c
  let x := s.slot slot
  let lost := regionOpen s slot x.launch a b c
  s.setSlot slot (x.modFlying a b c fun p => { p with retired := true, returning := p.returning && lost })

/-- The contexts that leave their cores together: the members of a skein, or the one strand (R39). -/
def partners (s : State) (key : Nat) : List Nat :=
  match (s.strandAt key).bind fun st => skeinOf s st with
  | some k => k.members
  | none => [key]

/-- The stronger of two reasons to leave: returned by LVS, then the budget, then a pre-emption or evacuation, then a time slice
(R264). -/
def strongerReason (a b : Nat) : Nat :=
  let rank (r : Nat) : Nat := match r with
    | 5 => 0
    | 1 => 1
    | 2 => 2
    | 4 => 3
    | _ => 4
  if rank a ≤ rank b then a else b

/-- A strand is to leave its core, and with it the members of its skein (R39, R277). -/
def askLeave (s : State) (key r : Nat) : State :=
  (partners s key).foldl (fun s k =>
    match s.strandAt k with
    | none => s
    | some st =>
      if k == key then s.setStrandAt k { st with leaving := some r }
      else
        let r' := if r == 1 then 3 else r
        s.setStrandAt k { st with leaving := some (strongerReason (st.leaving.getD r') r') }) s

/-- The strand in a context retires after its DONE (R36, R40, R371). -/
def retireStrand (s : State) (key : Nat) : State :=
  match s.strandAt key with
  | none => s
  | some st =>
    let s := returnWeight s st.ident.region st.ident.weight
    match st.ident.work with
    | .point slot a b c => retirePoint (freeContext s key) slot a b c
    | .member slot a b c m =>
      match skeinOf s st with
      | none => freeContext s key
      | some k =>
        let k := { k with done := k.done ++ [m] }
        if k.done.length == k.members.length then
          -- every member has executed DONE: all contexts retire at once
          let s := k.members.foldl freeContext { s with skeins := s.skeins.filter fun e => e.id != k.id }
          retirePoint s slot a b c
        else
          let s := s.setSkein k
          let s := if (List.range k.members.length).all fun i => k.done.contains i || k.trigs.contains i then signalPoint s slot a b c
            else s
          -- the context stays bound, and its strand issues no more
          s.setStrandAt key { st with dead := true, tags := Vector.replicate 16 ⟨0, 0, false, 0⟩
                                      pos := { st.pos with loops := [], rets := [] }, ident := { st.ident with weight := 0 } }
    | .task _ => freeContext { s with packets := s.packets.filter fun p => p.ident.uid != st.ident.uid } key
    | .firmware | .none => freeContext s key

/-! ### Completion records (R243) -/

/-- The 16 bytes of a completion record. -/
def completionRecord (time : Word) (tag cause : Nat) : List Byte :=
  leBytes 16 (packFields [(64, time.toNat), (16, tag), (8, cause), (39, 0), (1, 1)])

/-- Writes a completion record; the fault of a record that cannot be written, which for a poisoned word is POISON (R243). -/
def writeCompletion (s : State) (asid r cause : Nat) : Option Raise × State :=
  if lrComp r % 16 != 0 then (some ⟨cAlign, w64 (lrComp r), false⟩, s)
  else
    match hubWrite s asid (lrComp r) (completionRecord s.time.now (lrTag r) cause) with
    | (some e, s') => (some (if e.cause == cSubwordPoison then { e with cause := cPoison } else e), s')
    | out => out

/-- The end of an admitted launch: its record is written, its slot is freed, its dependants are freed; a record that cannot be
written posts COMP_LOST (R243). -/
def endLaunch (s : State) (slot cause : Nat) : State :=
  let r := (s.slot slot).record
  let (e, s1) := writeCompletion s (lrAsid r) r cause
  let s2 : State := { s1 with slots := tabSet s1.slots slot LaunchSlot.init }
  let s3 := match e with
    | none => s2
    | some f => postEvent s2 0 6 f.cause 0 0 (w64 (lrComp r)) false
  settle s3

/-- POINT_COMPLETION: the frontier advances, and the last point completes the launch (R36, R247). -/
def completePoint (s : State) (slot a b c : Nat) : State :=
  let x := s.slot slot
  let col := columnOf x.record a b c
  let x' := (x.setColumn col (completeColumn (x.column col) (coord a b c (lrSweep x.record))))
  let x' := { x' with flying := x'.flying.filter fun p => !(p.x == a && p.y == b && p.z == c) }
  let s' := { s.setSlot slot x' with
    regions := s.regions.filter fun r => !(r.slot == slot && r.launch == x.launch && r.x == a && r.y == b && r.z == c) }
  if allComplete x' then endLaunch s' slot 0 else s'

/-! ### Futures (R46, R259, R260) -/

/-- The wait that stands below `depth` suspended time lines of a strand takes a filling value (R279, R377). -/
def Strand.fillWait (st : Strand) (depth : Nat) (v : Word) : Strand :=
  let full (w : WaitState) : WaitState := { w with kind := 3, value := v }
  if depth == st.pos.susp.length then { st with waits := full st.waits }
  else
    -- the innermost suspended line stands first
    let at' := st.pos.susp.length - 1 - depth
    { st with pos := { st.pos with susp := st.pos.susp.modify at' fun l => { l with waits := full l.waits } } }

/-- The wait state of a saved strand's image takes a filling value (R279). -/
def fillImage (v : Word) (s : State) (x : Saved) : State :=
  (s.writePhys (x.block + 0x5C0) (leBytes 1 3)).writePhys (x.block + 0x5D0) (leBytes 8 v.toNat)

/-- A future fills: every parked packet re-enters its core's inbox and every waiting strand receives the value, also one that is
saved (R259, R279). -/
def releaseWaiters (s : State) (cell : Nat) (v : Word) : State :=
  let mine (w : Waiter) : Bool := w.cell == cell
  let woken := s.waiters.filter mine
  let fill (w : Waiter) (st : Strand) : Strand := if st.ident.uid == w.uid then st.fillWait w.depth v else st
  let s := (s.saved.filter fun x => woken.any fun w => w.uid == x.strand.ident.uid).foldl (fillImage v) s
  { s with
    packets := s.packets.map fun p => if p.parkedOn == some cell then { p with parkedOn := none, arrived := false } else p
    waiters := s.waiters.filter fun w => !mine w
    ctxs := s.ctxs.map fun (k, c) => (k, { c with strand := c.strand.map fun st => woken.foldl (fun t u => fill u t) st })
    saved := s.saved.map fun x => { x with strand := woken.foldl (fun t u => fill u t) x.strand } }

end Sys2Proof.Machine
end

