-- ==== Sys2Proof/Machine/LoadStore.lean ====
section
/-!
DEFINITION. The pipeline's accesses and their ordering (R329-R331, R344, R345, R372, R373, R380, R389-R391, R441, R442): loads,
stores, acquire, release, atomics, FENCE and DRAIN, with local accesses performing at issue and far ones sent out.
-/
namespace Sys2Proof.Machine

open Sys2Proof

/-! ### Local and far accesses -/

/-- Whether an access lies in the issuing core's own window, and so is local (R59, R390). -/
def localSpace (s : State) (sp : Space) : Bool :=
  match sp with
  | .scratch n | .regs n | .counter n | .ras n => n == s.coreNo
  | _ => false

/-- Whether a destination register is the one at hand. -/
def hitsX (s : State) (n : XReg) (d : Dest) : Bool := n.toNat != 0 && d.isX s.strand.bank n.toNat

/-- Sends a far access out (R60, R218). -/
def sendFar (a : Access) (kind : FarKind) (acquire : Bool) : Op Unit := do
  let id ← freshId
  modify fun s =>
    let st := s.strand
    s.setStrand { st with far := st.far ++ [⟨id, pathOfSpace a.space, a.va, a.pieces, kind, acquire, s.issue.seq⟩] }

/-- Whether an acquire or release at this scope orders anything: its location is covered (R225, R226). -/
def coveredAccess (s : State) (scope : Option Nat) (a : Access) : Bool :=
  match scope with
  | none => false
  | some sc => a.pieces.all fun p => covers s s.strand sc p.1

/-- The wait of a release whose location its scope covers (R225, R227). -/
def releaseAt (scope : Option Nat) (a : Access) : Op Unit := do
  let s ← get
  match scope with
  | some sc => if coveredAccess s scope a then releaseWait sc
  | none => pure ()

/-- A poisoned word makes a local read fault at its own bundle (R140). -/
def localPoison (a : Access) : Op Unit := do
  let s ← get
  match a.poison s with
  | some w => raiseNow ⟨cPoison, w64 (a.vaOf (s.eccUnit w) w), false⟩
  | none => pure ()

/-- A partly covered poisoned word makes a local write fault at its own bundle (R141). -/
def localSubword (a : Access) : Op Unit := do
  let s ← get
  match a.pieces.findSome? fun p => s.partialPoison p.1 p.2 with
  | some w => raiseNow ⟨cSubwordPoison, w64 (a.vaOf (s.eccUnit w) w), false⟩
  | none => pure ()

/-- A local write: it performs at the issue bundle-time, after every read of the bundle (R59). -/
def performLocal (a : Access) (data : List Byte) : Op Unit := do
  let rec go : List (Nat × Nat) → List Byte → Op Unit
    | [], _ => pure ()
    | (p, n) :: ps, d => do
      emit 0 (.bytes p (d.take n))
      go ps (d.drop n)
  go a.pieces data

/-- A load of `n` bytes into a destination: local data go to `put`, far data land later. -/
def pipelineLoad (va n : Nat) (word : Bool) (acquire : Option Nat) (dest : Dest) (put : Nat → Op Unit) : Op Unit := do
  acquireWait
  let a ← strandAccess va n .r word
  let s ← get
  if localSpace s a.space then do
    localPoison a
    put (leNat (s.readPieces a.pieces))
  else sendFar a (.load dest) (coveredAccess s acquire a)

/-- A store of some bytes. -/
def pipelineStore (va : Nat) (data : List Byte) (word : Bool) (release : Option Nat) : Op Unit := do
  acquireWait
  let a ← strandAccess va data.length .w word
  releaseAt release a
  let s ← get
  if localSpace s a.space then do
    localSubword a
    performLocal a data
  else if s.issue.mode == 1 then modify fun s => { s with issue := { s.issue with due := s.issue.issueBt } }
  else sendFar a (.store data) false
  markEffect

/-! ### LD, ST, LDA, STL (R389-R391) -/

/-- A base register plus a signed offset, modulo 2^64. -/
def addressOf (base : Word) (imm : Word) : Nat := (base + imm).toNat

/-- The access size of a format code 0-7. -/
def sizeOf (sz : BitVec 3) : Nat := fmtBytes sz.toNat

/-- The destination of a scalar far load. -/
def destX (s : State) (n : XReg) (fmt : Nat) : Dest := if n.toNat == 0 then .none else .x s.strand.bank n.toNat fmt

/-- A scalar load at an address. -/
def loadScalar (xd : XReg) (va : Nat) (sz : BitVec 3) (acquire : Option Nat) : Op Unit := do
  let s ← get
  touchDest (hitsX s xd)
  pipelineLoad va (sizeOf sz) (sizeOf sz == 8) acquire (destX s xd sz.toNat) fun v => putX 6 xd (w64 (intExtend sz.toNat v))

/-- A scalar store at an address. -/
def storeScalar (xs : XReg) (va : Nat) (sz : BitVec 3) (release : Option Nat) : Op Unit := do
  let v ← getX xs
  pipelineStore va (leBytes (sizeOf sz) v.toNat) (sizeOf sz == 8) release

def opLd (t : Tag) (xv xa : XReg) (sz : BitVec 3) (imm : BitVec 22) : Op Unit := guarded t do
  let a ← getX xa
  loadScalar xv (addressOf a (imm.signExtend 64)) sz none
def opSt (t : Tag) (xv xa : XReg) (sz : BitVec 3) (imm : BitVec 22) : Op Unit := guarded t do
  let a ← getX xa
  storeScalar xv (addressOf a (imm.signExtend 64)) sz none

/-- The alignment that LDA and STL need (R391). -/
def naturally (va n : Nat) : Op Unit := check (va % n == 0) cAlign va

def opLda (t : Tag) (xv xa : XReg) (sz : BitVec 3) (scope : BitVec 4) (imm : BitVec 18) : Op Unit := guarded t do
  let a ← getX xa
  let va := addressOf a (imm.signExtend 64)
  naturally va (sizeOf sz)
  loadScalar xv va sz (some scope.toNat)
def opStl (t : Tag) (xv xa : XReg) (sz : BitVec 3) (scope : BitVec 4) (imm : BitVec 18) : Op Unit := guarded t do
  let a ← getX xa
  let va := addressOf a (imm.signExtend 64)
  naturally va (sizeOf sz)
  storeScalar xv va sz (some scope.toNat)

/-! ### VLD, VST (R441, R442) -/

def opVld (t : Tag) (vv : VReg) (xa : XReg) (imm : BitVec 20) : Op Unit := guarded t do
  let x ← getX xa
  let s ← get
  formCheck (vectorFits s vv.toNat) cView
  let addr := vectorAddr s vv.toNat
  touchDest fun d => d.isV addr
  pipelineLoad (addressOf x (imm.signExtend 64)) 128 false none (.vec vv.toNat addr) fun v => putV 6 vv v
def opVst (t : Tag) (vv : VReg) (_ : Port) (xa : XReg) (imm : BitVec 20) : Op Unit := guarded t do
  let v ← getV vv
  let x ← getX xa
  pipelineStore (addressOf x (imm.signExtend 64)) (leBytes 128 v) false none

/-! ### Atomics (R329-R331, R344, R345) -/

/-- F(OP, old, b) on `k` bytes (R344). -/
def amoValue (op k old b : Nat) : Nat :=
  let n := 8 * k
  match op with
  | 0 => b
  | 1 => (old + b) % 2 ^ n
  | 2 => old &&& b
  | 3 => old ||| b
  | 4 => old ^^^ b
  | 5 => if signedOf n b < signedOf n old then b else old
  | 6 => if signedOf n old < signedOf n b then b else old
  | 7 => if b < old then b else old
  | _ => if old < b then b else old

/-- The scopes at which an ORD acquires and releases (R221, R225). -/
def ordAcquire (ord : BitVec 2) (scope : BitVec 4) : Option Nat := if ord == 1 || ord == 3 then some scope.toNat else none
def ordRelease (ord : BitVec 2) (scope : BitVec 4) : Option Nat := if ord == 2 || ord == 3 then some scope.toNat else none

/-- An atomic access of `n` bytes: `local'` performs it at its issue. -/
def atomicAccess (va n : Nat) (ord : BitVec 2) (scope : BitVec 4) (kind : FarKind) (local' : Access → Op Unit) : Op Unit := do
  acquireWait
  check (va % n == 0) cAtomicAlign va
  let a ← strandAccess va n .rw false
  releaseAt (ordRelease ord scope) a
  let s ← get
  if localSpace s a.space then do
    localPoison a
    local' a
  else sendFar a kind (coveredAccess s (ordAcquire ord scope) a)
  markEffect

def opAmo (t : Tag) (xd xa xb : XReg) (op : BitVec 4) (w : BitVec 1) (ord : BitVec 2) (scope : BitVec 4) : Op Unit := guarded t do
  let a ← getX xa
  let b ← getX xb
  let k := 4 + 4 * w.toNat
  let v := b.toNat % 2 ^ (8 * k)
  let s ← get
  touchDest (hitsX s xd)
  atomicAccess a.toNat k ord scope (.amo (destX s xd (if k == 4 then 6 else 7)) op.toNat k v) fun acc => do
    let s ← get
    let old := leNat (s.readPieces acc.pieces)
    performLocal acc (leBytes k (amoValue op.toNat k old v))
    putX 6 xd (w64 old)

/-- The upper register of an even pair. -/
def upper (n : XReg) : XReg := n + 1

/-- The 16 bytes of a register pair, the lower register first. -/
def getPair (n : XReg) : Op Nat := do
  let lo ← getX n
  let hi ← getX (upper n)
  pure (lo.toNat + 2 ^ 64 * hi.toNat)

def opAcas (t : Tag) (xd xa xb xc : XReg) (ord : BitVec 2) (scope : BitVec 4) : Op Unit := guarded t do
  let a ← getX xa
  let expect ← getPair xb
  let new ← getPair xc
  let s ← get
  touchDest fun d => hitsX s xd d || hitsX s (upper xd) d
  atomicAccess a.toNat 16 ord scope (.acas (.pair s.strand.bank xd.toNat) expect new) fun acc => do
    let s ← get
    let old := leNat (s.readPieces acc.pieces)
    if old == expect then performLocal acc (leBytes 16 new)
    putX 6 xd (w64 old)
    putX 6 (upper xd) (w64 (old / 2 ^ 64))

/-! ### FENCE, DRAIN (R372, R373, R380) -/

def opFence (t : Tag) (scope : BitVec 4) (src _dst : BitVec 7) : Op Unit := guarded t do
  orderWait (some scope.toNat) src.toNat
def opDrain (t : Tag) (paths : BitVec 7) : Op Unit := guarded t do
  orderWait none paths.toNat

/-! ### The meanings -/

def execLd (t : Tag) (xv xa : XReg) (sz : BitVec 3) (imm : BitVec 22) (s : State) : Host.Outcome State Fault Refusal :=
  issueOne (.ld t xv xa sz imm) (opLd t xv xa sz imm) s
def execSt (t : Tag) (xv xa : XReg) (sz : BitVec 3) (imm : BitVec 22) (s : State) : Host.Outcome State Fault Refusal :=
  issueOne (.st t xv xa sz imm) (opSt t xv xa sz imm) s
def execLda (t : Tag) (xv xa : XReg) (sz : BitVec 3) (scope : BitVec 4) (imm : BitVec 18) (s : State) :
    Host.Outcome State Fault Refusal := issueOne (.lda t xv xa sz scope imm) (opLda t xv xa sz scope imm) s
def execStl (t : Tag) (xv xa : XReg) (sz : BitVec 3) (scope : BitVec 4) (imm : BitVec 18) (s : State) :
    Host.Outcome State Fault Refusal := issueOne (.stl t xv xa sz scope imm) (opStl t xv xa sz scope imm) s
def execVld (t : Tag) (vv : VReg) (xa : XReg) (imm : BitVec 20) (s : State) : Host.Outcome State Fault Refusal :=
  issueOne (.vld t vv xa imm) (opVld t vv xa imm) s
def execVst (t : Tag) (vv : VReg) (pv : Port) (xa : XReg) (imm : BitVec 20) (s : State) : Host.Outcome State Fault Refusal :=
  issueOne (.vst t vv pv xa imm) (opVst t vv pv xa imm) s
def execAmo (t : Tag) (xd xa xb : XReg) (op : BitVec 4) (w : BitVec 1) (ord : BitVec 2) (scope : BitVec 4) (s : State) :
    Host.Outcome State Fault Refusal := issueOne (.amo t xd xa xb op w ord scope) (opAmo t xd xa xb op w ord scope) s
def execAcas (t : Tag) (xd xa xb xc : XReg) (ord : BitVec 2) (scope : BitVec 4) (s : State) : Host.Outcome State Fault Refusal :=
  issueOne (.acas t xd xa xb xc ord scope) (opAcas t xd xa xb xc ord scope) s
def execFence (t : Tag) (scope : BitVec 4) (src dst : BitVec 7) (s : State) : Host.Outcome State Fault Refusal :=
  issueOne (.fence t scope src dst) (opFence t scope src dst) s
def execDrain (t : Tag) (paths : BitVec 7) (s : State) : Host.Outcome State Fault Refusal :=
  issueOne (.drain t paths) (opDrain t paths) s

end Sys2Proof.Machine
end

