-- ==== Sys2Proof/Machine/Spools.lean ====
section
/-!
DEFINITION. SCFG and SREL (R143, R144, R415-R417), and the engine events of the spools (R142, R145-R149).
-/
namespace Sys2Proof.Machine

open Sys2Proof

/-- The conditions of R143 and R144 on a descriptor by itself. -/
def spoolDescOk (d : Nat) : Bool :=
  let k := spKind d
  let f := spFmt d
  bits d 255 224 == 0 && bits d 79 74 == 0 && bits d 63 57 == 0 &&
    match k with
    | 0 | 1 => bits d 223 72 == 0 && f ≤ 13
    | 4 => bits d 223 72 == 0 && (f == 6 || f == 7)
    | 2 | 3 => bits d 511 392 == 0 && bits d 351 256 == 0 && f ≤ 12 && (!spSene d || spBound d ≤ spSent d)
    | 5 | 6 => d == k * 2 ^ 64
    | _ => false

/-- A spool that may serve as index spool of sd (R144). -/
def indexOk (st : Strand) (sd n : Nat) : Bool :=
  n != sd &&
    match st.spools.getD n none with
    | none => false
    | some ix => (((spKind ix.desc == 0 || spKind ix.desc == 4) && (spFmt ix.desc == 6 || spFmt ix.desc == 7)) || spKind ix.desc == 6)
        && !(isBound { st with spools := st.spools.setIfInBounds sd none } n)

/-- Whether the format of the bank that holds BASE agrees with the descriptor (R130, R144). -/
def bankAgrees (s : State) (key d : Nat) : Bool :=
  if spKind d == 5 || spKind d == 6 then true
  else
    match enginePhys s key (spBase d) with
    | none => true
    | some pa =>
      match bankAt s pa with
      | none => true
      | some (start, bf) => bankOk bf && (dataEnd bf ≤ pa - start || bits bf.toNat 3 0 == spFmt d)

/-- SCFG (R143, R415). DEDUCED (log 64): one that fails leaves a configured sd as it was, as R415 words it, where R143 says unconfigured. -/
def opScfg (t : Tag) (va : VReg) (_ : Port) (sd : SpoolNo) : Op Unit := guarded t do
  acquireWait
  let v ← getV va
  let s ← get
  formCheck (bit s.strand.ident.spoolMask sd.toNat && !isBound s.strand sd.toNat) cSpoolConfig
  onceRead do
    let d := v % 2 ^ 512
    let st := s.strand
    check (spoolDescOk d && bankAgrees s s.focus d && (!spIsIndirect d || indexOk st sd.toNat (spIdx d))) cSpoolConfig
    emit 0 (.spoolConfig sd.toNat d (bankFormats s) s.priv st.entropy)

def opSrel (t : Tag) (sd : SpoolNo) : Op Unit := guarded t do
  let st ← getStrand
  formCheck (!isBound st sd.toNat) cSpoolConfig
  emit 0 (.spoolRelease sd.toNat)

def execScfg (t : Tag) (va : VReg) (pa : Port) (sd : SpoolNo) (s : State) : Host.Outcome State Fault Refusal :=
  issueOne (.scfg t va pa sd) (opScfg t va pa sd) s
def execSrel (t : Tag) (sd : SpoolNo) (s : State) : Host.Outcome State Fault Refusal := issueOne (.srel t sd) (opSrel t sd) s

/-- Context key of a core and a context number. -/
def keyOf (core ctx : Nat) : Nat := 2 * core + ctx % 2

/-- SPOOL_ELEMENT_FETCH: the stream engine fetches the next element of a load spool (R142). -/
def execSpoolElementFetch (core ctx : Nat) (n : SpoolNo) (s : State) : Host.Outcome State Fault Refusal :=
  .next (fetchElement s (keyOf core ctx) n.toNat)

/-- STORE_SPOOL_WRITE: the stream engine writes the oldest pushed element of a store spool (R148). -/
def execStoreSpoolWrite (core ctx : Nat) (n : SpoolNo) (s : State) : Host.Outcome State Fault Refusal :=
  .next (writeElement s (keyOf core ctx) n.toNat)

end Sys2Proof.Machine
end

