-- ==== Sys2Proof/Machine/Array.lean ====
section
/-!
DEFINITION. The X slot (R173, R188, R319, R328, R332, R333, R336-R343, R347-R352, R364, R365): the array's settings and the
instructions that enter its queue. What they do there is in ArrayEngine.lean.
-/
namespace Sys2Proof.Machine

open Sys2Proof

/-! ### Settings (R173, R328) -/

/-- A setting, which the X slots of later bundles see. -/
def setSetting (f : Arr → Arr) : Op Unit := modStrand fun st => { st with arr := f st.arr }

/-- CPROG (R169, R365): a valid image whose other bytes are zero. -/
def opCprog (t : Tag) (pg : BitVec 2) (va : VReg) (_pa : Port) : Op Unit := guarded t do
  forbidden true true
  let v ← getV va
  onceRead do
    check (bits v 1023 96 == 0 && progValid (bits v 95 0)) cCellProg
    setSetting fun a => { a with progs := a.progs.setIfInBounds pg.toNat (bits v 95 0) }

/-- CSEL (R365). -/
def opCsel (t : Tag) (pg : BitVec 2) : Op Unit := guarded t do
  forbidden true true
  setSetting fun a => { a with sel := pg.toNat }

/-- A value that AFLOW takes (R173). -/
def flowOk (v : Nat) : Bool := bits v 63 4 == 0 && bits v 1 0 ≤ 1 && bits v 3 2 ≤ 1

/-- AFLOW (R173, R339). -/
def opAflow (t : Tag) (xa : XReg) : Op Unit := guarded t do
  forbidden true true
  let v ← getX xa
  check (flowOk v.toNat) cArrayFormat
  setSetting fun a => { a with statC := bits v.toNat 1 0 == 1, skewRow := bits v.toNat 3 2 == 1 }

/-- ASCL (R179, R352). -/
def opAscl (t : Tag) (am : BitVec 2) (ta : TileNo) (bm : BitVec 2) (tb : TileNo) : Op Unit := guarded t do
  forbidden true true
  setSetting fun a => { a with am := am.toNat, ta := ta.toNat, bm := bm.toNat, tb := tb.toNat }

/-! ### The X queue (R188) -/

/-- The settings as an instruction captures them at its issue (R78, R173). -/
def capturedSettings (st : Strand) : ArrSettings :=
  let a := st.arr
  { prog := a.progs.getD a.sel 0, statC := a.statC, skewRow := a.skewRow
    am := a.am, aview := if a.am == 2 then viewReg st a.ta else 0
    bm := a.bm, bview := if a.bm == 2 then viewReg st a.tb else 0 }

/-- An instruction as it enters the queue. -/
def newArrOp (s : State) (kind : ArrKind) (rows cols : Nat) : ArrOp :=
  let (base, size) := partitionOf s s.focus
  { seq := s.issue.seq * 8 + s.issue.slot, sword := s.issue.sword, kind := kind, set := capturedSettings s.strand
    base := base, size := size, issued := s.issue.issueBt, start := none, done := 0, rows := rows, cols := cols, lat := none
    codes := [], ascale := [], bscale := [], tag0 := 0, aelems := [], belems := [], cast := none, paused := none, held := [] }

/-- The queue holds four instructions that have not started: a fifth freezes the core (R188). -/
def queueFull (a : Arr) : Bool := 4 ≤ (a.ops.filter fun o => o.start.isNone).length

/-- The first cause of a list of checks, in the order of R267, faults at issue. -/
def checkAll (l : List (Bool × Nat)) : Op Unit :=
  match firstOf l with
  | some c => fail c
  | none => pure ()

/-- An array instruction at issue: the wait for room, its checks, and its place in the queue. -/
def enqueue (kind : Strand → ArrKind) (rows cols : Strand → Nat) (checks : State → Strand → Nat → List (Bool × Nat)) : Op Unit := do
  forbidden true true
  let s ← get
  let st := s.strand
  waitWhile (queueFull st.arr) .arrayQueue
  checkAll (checks s st (partitionOf s s.focus).2)
  let o := newArrOp s (kind st) (rows st) (cols st)
  modStrand fun st => { st with arr := { st.arr with ops := st.arr.ops ++ [o] } }

/-- The view of a tile register and of an accumulator register. -/
def tileView (st : Strand) (n : TileNo) : Word := viewReg st n.toNat
def accView (st : Strand) (n : AccNo) : Word := viewReg st (16 + n.toNat)

/-- Cell rows that a stationary of `kr` rows takes. -/
def cellRows (kr e : Nat) : Nat := (kr + e - 1) / e

/-- ALDB from a view (R340). -/
def opAldbLocal (t : Tag) (tv : TileNo) (_pt : Port) : Op Unit := guarded t do
  let view (st : Strand) : Word := tileView st tv
  let e (st : Strand) : Nat := laneTerms (vwFmt (view st))
  enqueue (fun st => .loadLocal (view st)) (fun st => cellRows (vwRows (view st)) (e st)) (fun st => vwCols (view st))
    fun _ st size =>
      [ (!viewOk (view st) size || (e st != 0 && 128 * e st < vwRows (view st)) || 128 < vwCols (view st), cView),
        (e st == 0, cArrayFormat) ]

/-- The issue checks on the shape word of a cluster ALDB (R341). -/
def castShapeOk (core shape : Nat) : Bool :=
  bits shape 55 52 == 0 && bits shape 39 17 == 0 && bits shape 51 40 != 0 && bit (bits shape 63 56) (memberNo core)

/-- ALDB.cl (R341). -/
def opAldbCluster (t : Tag) (xa xb : XReg) : Op Unit := guarded t do
  forbidden true true
  acquireWait
  let a ← getX xa
  let b ← getX xb
  let s ← get
  waitWhile (queueFull s.strand.arr) .arrayQueue
  check (castShapeOk s.coreNo b.toNat) cArrayFormat
  check (a.toNat % 16 == 0) cAlign a.toNat
  enqueue (fun _ => .loadCluster a b) (fun _ => 0) (fun _ => 0) fun _ _ _ => []

/-- A source of a run: a spool, or nothing. -/
def sourceSpool (sp : BitVec 1) (n : TileNo) : Option Nat := if sp == 1 then some n.toNat else none

/-- The checks of a run at its issue: those of the program and the sources, and those of the stationary as far as it is known
(R349, R351). -/
def issueChecks (s : State) (st : Strand) (size : Nat) (acc : Word) (asp : Option Nat) (aview : Word) (bsp : Option Nat)
    (bview : Word) (m : Nat) (sparse : Option Word) : List (Bool × Nat) :=
  let set := capturedSettings st
  runChecks s s.focus st set size acc asp aview bsp bview m sparse ++
    match knownStationary st.arr with
    | none => stationaryChecks set acc m sparse none
    | some none => []
    | some (some f) => stationaryChecks set acc m sparse (some f)

/-- ARUN (R319, R347-R350). -/
def opArun (t : Tag) (av : AccNo) (asp : BitVec 1) (an : TileNo) (pan : Port) (bsp : BitVec 1) (bn : TileNo) (pbn : Port)
    (mm1 : BitVec 12) : Op Unit := guarded t do
  let m := mm1.toNat + 1
  let acc (st : Strand) : Word := accView st av
  let a (st : Strand) : Word := if asp == 1 then 0 else tileView st an
  let b (st : Strand) : Word := if bsp == 1 then 0 else tileView st bn
  let _ := pan
  enqueue (fun st => .run (acc st) (sourceSpool asp an) (a st) (sourceSpool bsp bn) (b st) m none) (fun _ => 0) (fun _ => 0)
    fun s st size =>
      (if st.arr.statC then av != 0 else bsp != 0 || bn != 0 || pbn != 0, cArrayFormat) ::
        issueChecks s st size (acc st) (sourceSpool asp an) (a st) (sourceSpool bsp bn) (b st) m none

/-- ARUNS (R181, R182, R351). -/
def opAruns (t : Tag) (av : AccNo) (asp : BitVec 1) (an : TileNo) (pan : Port) (mv : TileNo) (pmv : Port) (mm1 : BitVec 12) :
    Op Unit := guarded t do
  let m := mm1.toNat + 1
  let a (st : Strand) : Word := if asp == 1 then 0 else tileView st an
  let _ := (pan, pmv)
  enqueue (fun st => .run (accView st av) (sourceSpool asp an) (a st) none 0 m (some (tileView st mv))) (fun _ => 0) (fun _ => 0)
    fun s st size => issueChecks s st size (accView st av) (sourceSpool asp an) (a st) none 0 m (some (tileView st mv))

/-- The accumulation of the selected program, where it is valid. -/
def selectedAcc (st : Strand) : Option (Nat × Nat) :=
  let img := st.arr.progs.getD st.arr.sel 0
  if progValid img then (parseProg img).acc else none

/-- ACLR of a view (R332). -/
def opAclrView (t : Tag) (av : AccNo) : Op Unit := guarded t do
  enqueue (fun st => .clearView (accView st av)) (fun st => vwRows (accView st av)) (fun st => vwCols (accView st av))
    fun _ st size =>
      [ (!viewOk (accView st av) size, cView), ((selectedAcc st).isNone, cCellProg),
        ((selectedAcc st).any fun a => a.2 != vwFmt (accView st av), cArrayFormat) ]

/-- ACLR of the array (R332). -/
def opAclrArray (t : Tag) : Op Unit := guarded t do
  enqueue (fun _ => .clearArray) (fun _ => 1) (fun _ => 0) fun _ st _ => [((selectedAcc st).isNone, cCellProg)]

/-- ADRN (R336-R338). -/
def opAdrn (t : Tag) (td : TileNo) (sk : BitVec 2) (av : AccNo) (_pav : Port) (sat : BitVec 1) : Op Unit := guarded t do
  let dst (st : Strand) : Word := tileView st td
  let src (st : Strand) : Word := if sk == 0 then accView st av else 0
  enqueue (fun st => .drain (dst st) sk.toNat (src st) (sat == 1)) (fun st => vwRows (dst st)) (fun st => vwCols (dst st))
    fun _ st size =>
      let d := dst st
      let a := src st
      [ (!viewOk d size, cView),
        (sk == 0 && (!viewOk a size || vwRows a < vwRows d || vwCols a < vwCols d), cView),
        (sk != 0 && (128 < vwRows d || 128 < vwCols d), cView),
        (sk == 1 && (selectedAcc st).isNone, cCellProg),
        (12 < vwFmt d, cArrayFormat),
        (sk == 0 && !(vwFmt a == 8 || vwFmt a == 2 || vwFmt a == 1 || vwFmt a == 6), cArrayFormat) ]

/-! ### The meanings -/

def execCprog (t : Tag) (pg : BitVec 2) (va : VReg) (pa : Port) (s : State) : Host.Outcome State Fault Refusal :=
  issueOne (.cprog t pg va pa) (opCprog t pg va pa) s
def execCsel (t : Tag) (pg : BitVec 2) (s : State) : Host.Outcome State Fault Refusal := issueOne (.csel t pg) (opCsel t pg) s
def execAflow (t : Tag) (xa : XReg) (s : State) : Host.Outcome State Fault Refusal := issueOne (.aflow t xa) (opAflow t xa) s
def execAldbLocal (t : Tag) (tv : TileNo) (pt : Port) (s : State) : Host.Outcome State Fault Refusal :=
  issueOne (.aldbLocal t tv pt) (opAldbLocal t tv pt) s
def execAldbCluster (t : Tag) (xa xb : XReg) (s : State) : Host.Outcome State Fault Refusal :=
  issueOne (.aldbCluster t xa xb) (opAldbCluster t xa xb) s
def execArun (t : Tag) (av : AccNo) (asp : BitVec 1) (an : TileNo) (pan : Port) (bsp : BitVec 1) (bn : TileNo) (pbn : Port)
    (mm1 : BitVec 12) (s : State) : Host.Outcome State Fault Refusal :=
  issueOne (.arun t av asp an pan bsp bn pbn mm1) (opArun t av asp an pan bsp bn pbn mm1) s
def execAruns (t : Tag) (av : AccNo) (asp : BitVec 1) (an : TileNo) (pan : Port) (mv : TileNo) (pmv : Port) (mm1 : BitVec 12)
    (s : State) : Host.Outcome State Fault Refusal :=
  issueOne (.aruns t av asp an pan mv pmv mm1) (opAruns t av asp an pan mv pmv mm1) s
def execAscl (t : Tag) (am : BitVec 2) (ta : TileNo) (bm : BitVec 2) (tb : TileNo) (s : State) :
    Host.Outcome State Fault Refusal := issueOne (.ascl t am ta bm tb) (opAscl t am ta bm tb) s
def execAclrView (t : Tag) (av : AccNo) (s : State) : Host.Outcome State Fault Refusal :=
  issueOne (.aclrView t av) (opAclrView t av) s
def execAclrArray (t : Tag) (s : State) : Host.Outcome State Fault Refusal := issueOne (.aclrArray t) (opAclrArray t) s
def execAdrn (t : Tag) (td : TileNo) (sk : BitVec 2) (av : AccNo) (pav : Port) (sat : BitVec 1) (s : State) :
    Host.Outcome State Fault Refusal := issueOne (.adrn t td sk av pav sat) (opAdrn t td sk av pav sat) s

end Sys2Proof.Machine
end

