-- ==== Sys2Proof/Machine/Merge.lean ====
section
/-!
DEFINITION. The merge engine (R162-R165, R404): MERGE, and the start and the end of a merge.
-/
namespace Sys2Proof.Machine

open Sys2Proof

/-! ### Issue (R162, R404) -/

/-- The limits of R162. -/
def mergeDescOk (d : Nat) : Bool :=
  bits d 511 249 == 0 && bits d 191 185 == 0 && bits d 127 96 == 0 && bits d 63 30 == 0 && !bit d 23 && bits d 15 12 == 0
    && bits d 7 4 == 0 && mdOp d ≤ 4 && (mdVfmt d == 2 || mdVfmt d == 6 || (mdVfmt d == 8 && mdOp d != 3)) && 1 ≤ mdNf d
    && mdNf d ≤ 64 && (mdOp d != 4 || mdMinocc d == 0) && 1 ≤ mdCap d && mdFibt d % 32 == 0 && mdOutb d % 8 == 0

/-- A MERGE spool that may be armed: it delivers no earlier merge (R404). -/
def mergeSpoolOk (st : Strand) (n : Nat) : Bool :=
  match st.spools.getD n none with
  | none => false
  | some sp => spKind sp.desc == 5 && !isBound st n && jobDelivered sp

/-- A read for the focus strand that its bundle waits for: the core freezes before the bundle issues until the data have returned
(R206, R404). -/
def readWaited (va n : Nat) : Op Nat := do
  let _ ← strandAccess va n .r false
  let s ← get
  if scanTainted s then pure 0
  else
    match s.strand.asked.find? fun q => q.1 == va with
    | none => throw (.hold .pending fun s => s.setStrand { s.strand with asked := s.strand.asked ++ [(va, false)] })
    | some (_, false) => throw (.freeze .pending)
    | some (_, true) =>
      match engineRead s (agentFor s.focus s.strand) va n with
      | (.error r, _) => raiseNow r
      | (.ok b, s') => do
        set s'
        pure (leNat b)

def opMerge (t : Tag) (xa : XReg) (sd : SpoolNo) : Op Unit := guarded t do
  acquireWait
  let a ← getX xa
  let st ← getStrand
  formCheck (mergeSpoolOk st sd.toNat) cSpoolConfig
  check (a.toNat % 64 == 0) cAlign a.toNat
  let d ← readWaited a.toNat 64
  check (mergeDescOk d) cSpoolConfig
  let id ← freshId
  modify fun s =>
    { s with merges := s.merges ++ [⟨id, clusterOf s.coreNo, s.focus, s.strand.ident.uid, sd.toNat, d, s.strand.ident.asid,
      s.priv, s.strand.entropy, s.issue.seq * 8 + s.issue.slot, false⟩] }
  emit 0 (.spoolArm sd.toNat (mdOutb d) id)

def execMerge (t : Tag) (xa : XReg) (sd : SpoolNo) (s : State) : Host.Outcome State Fault Refusal :=
  issueOne (.merge t xa sd) (opMerge t xa sd) s

/-! ### The merge (R163, R164) -/

/-- A fibre as the engine stands in it: its entry's address, bases, length, position, and the coordinate at hand. -/
structure Fibre where
  entry : Nat
  coords : Nat
  vals : Nat
  len : Nat
  pos : Nat
  head : Option Nat
deriving DecidableEq, Repr

/-- A bad fibre (R164). -/
def Fibre.bad (entry : Nat) : Raise := ⟨cSpoolConfig, w64 entry, false⟩

/-- The next coordinate of a fibre, which must exceed the last (R164). -/
def fibreNext (g : Agent) (f : Fibre) (pos : Nat) (last : Option Nat) : Eng Fibre :=
  if f.len ≤ pos then pure { f with pos := pos, head := none }
  else do
    let x ← g.read (f.coords + 4 * pos) 4
    if x == 0xFFFFFFFF || last.any (x ≤ ·) then throw (Fibre.bad f.entry)
    else pure { f with pos := pos, head := some x }

/-- Opens fibre number `i`. DEDUCED (log 34): a reserved field of its entry makes it a bad one. -/
def fibreOpen (j : MergeJob) (i : Nat) : Eng Fibre := do
  let a := mdFibt j.desc + 32 * i
  let e ← j.agent.read a 32
  if bits e 255 160 != 0 || bits e 127 121 != 0 || bits e 63 57 != 0 || bits e 120 64 % 4 != 0 then throw (Fibre.bad a)
  else fibreNext j.agent ⟨a, bits e 56 0, bits e 120 64, bits e 159 128, 0, none⟩ 0 none

/-- OP on two values in VFMT (R163). -/
def mergeOp (op vf a b : Nat) : Nat :=
  if vf == 8 then
    match op with
    | 0 => (fAdd 8 .rne a b).1
    | 1 => fMinMax 8 false a b
    | 2 => fMinMax 8 true a b
    | _ => (fMul 8 .rne a b).1
  else
    match op with
    | 0 => (a + b) % 2 ^ 32
    | 1 => if intValue vf b < intValue vf a then b else a
    | 2 => if intValue vf a < intValue vf b then b else a
    | 3 => a ||| b
    | _ => (a * b) % 2 ^ 32

/-- The values of coordinate x, in ascending fibre number. -/
def valuesAt (g : Agent) (x : Nat) (fs : List Fibre) : Eng (List Nat) :=
  (fs.filter fun f => f.head == some x).mapM fun f => g.read (f.vals + 4 * f.pos) 4

/-- Moves past coordinate x in the fibres that hold it. -/
def passCoord (g : Agent) (x : Nat) (fs : List Fibre) : Eng (List Fibre) :=
  fs.mapM fun f => if f.head == some x then fibreNext g f (f.pos + 1) (some x) else pure f

/-- What a merge has come to: pairs written and pairs kept. -/
structure MergeEnd where
  written : Nat
  kept : Nat
deriving DecidableEq, Repr

/-- A pair of the output area. -/
def putPair (j : MergeJob) (n x v : Nat) : Eng Unit := j.agent.write (mdOutb j.desc + 8 * n) (leBytes 4 x ++ leBytes 4 v)

/-- The values of a kept coordinate as one (R163). -/
def combined (j : MergeJob) : List Nat → Nat
  | [] => 0
  | v :: rest => rest.foldl (mergeOp (mdOp j.desc) (mdVfmt j.desc)) v

/-- The merge, coordinate by coordinate, with what it has come to (R163, R164): a pair stands before the fibres move on. The fuel is the
number of entries of all fibres, and one more. -/
def mergeRun (j : MergeJob) : Nat → List Fibre → MergeEnd → State → MergeEnd × Option Raise × State
  | 0, _, m, s => (m, none, s)
  | n + 1, fs, m, s =>
    match (fs.filterMap Fibre.head).min? with
    | none =>
      match (putPair j m.written 0xFFFFFFFF (min m.kept 0xFFFFFFFF)).on s with
      | (.error r, s') => (m, some r, s')
      | (.ok _, s') => ({ m with written := m.written + 1 }, none, s')
    | some x =>
      let count := (fs.filter fun f => f.head == some x).length
      let keep := if mdOp j.desc ≤ 3 then mdMinocc j.desc + 1 ≤ count else count == mdNf j.desc
      let put : Eng Unit := if keep then do
        let vs ← valuesAt j.agent x fs
        if m.written < mdCap j.desc then putPair j m.written x (combined j vs) else pure ()
        else pure ()
      match put.on s with
      | (.error r, s1) => (m, some r, s1)
      | (.ok _, s1) =>
        let m1 : MergeEnd := ⟨m.written + bit01 (keep && m.written < mdCap j.desc), m.kept + bit01 keep⟩
        match (passCoord j.agent x fs).on s1 with
        | (.error r, s2) => (m1, some r, s2)
        | (.ok gs, s2) => mergeRun j n gs m1 s2

/-- A merge from its fibre table to its terminal pair: what it came to, and the fault that stopped it. -/
def mergeAll (j : MergeJob) (s : State) : MergeEnd × Option Raise × State :=
  match ((List.range (mdNf j.desc)).mapM (fibreOpen j)).on s with
  | (.error r, s1) => (⟨0, 0⟩, some r, s1)
  | (.ok fs, s1) => mergeRun j ((fs.map Fibre.len).sum + 1) fs ⟨0, 0⟩ s1

/-- The spool that a job arms publishes what the engine has written (R149). -/
def publish (job published ids : Nat) (failure : Option Raise) (st : Strand) : Strand :=
  { st with spools := st.spools.map fun o => o.map fun sp =>
      if sp.job == some job then { sp with published := published, ids := ids, closed := true, failure := failure } else sp }

/-- The probes of a cluster's cores that hand their unions to its merge engine, with the places that they hold (R165, R207). -/
def unionsOf (s : State) (cluster : Nat) : List ProbeReq :=
  (s.cores.filter fun c => c.1 < 512 && clusterOf c.1 == cluster).flatMap fun c => c.2.probes.filter fun q => q.union.isSome

/-- How many places of a cluster's merge engine are taken: eight run at once (R165). -/
def mergesRunning (s : State) (cluster : Nat) : Nat :=
  (s.merges.filter fun m => m.cluster == cluster && m.running).length + ((unionsOf s cluster).filter fun q => q.union == some 0).length

/-- The arrival numbers of the requests that wait for a place. -/
def mergesWaiting (s : State) (cluster : Nat) : List Nat :=
  ((s.merges.filter fun m => m.cluster == cluster && !m.running).map fun m => m.id) ++ ((unionsOf s cluster).filterMap fun q => q.union).filter (· != 0)

/-- A request of this arrival number takes a place now. -/
def mergePlace (s : State) (cluster arrival : Nat) : Bool :=
  mergesRunning s cluster < 8 && (mergesWaiting s cluster).all fun n => arrival ≤ n

/-- Store-spool pushes of its strand before the MERGE are still to be written (R223, log 52). -/
def mergeWaits (s : State) (j : MergeJob) : Bool :=
  s.ctxs.any fun c => c.2.strand.any fun st => st.ident.uid == j.uid && !(unwritten st j.seq).isEmpty

/-- MERGE_START: a waiting merge takes one of the eight places of its cluster, in arrival order (R165). -/
def mergeStart (s : State) (id : Nat) : State :=
  match s.merges.find? fun m => m.id == id with
  | none => s
  | some j =>
    if j.running || !mergePlace s j.cluster id || mergeWaits s j then s
    else { s with merges := s.merges.map fun m => if m.id == id then { m with running := true } else m }

/-- MERGE_END: the merge is made, its pairs stand, and its spool sees them (R163, R164). -/
def mergeEnd (s : State) (id : Nat) : State :=
  match s.merges.find? fun m => m.id == id with
  | none => s
  | some j =>
    if !j.running then s
    else
      let (m, failure, s1) := mergeAll j s
      let elems := if failure.isSome then m.written / 16 else (m.written + 15) / 16
      let s2 := s1.modByUid j.uid (publish id elems m.written failure)
      { s2 with merges := s2.merges.filter fun x => x.id != id }

def execMergeStart (id : Nat) (s : State) : Host.Outcome State Fault Refusal := .next (mergeStart s id)
def execMergeEnd (id : Nat) (s : State) : Host.Outcome State Fault Refusal := .next (mergeEnd s id)

end Sys2Proof.Machine
end

