-- ==== Sys2Proof/Machine/Collectives.lean ====
section
/-!
DEFINITION. Fabric collectives (R290-R292, R366, R367): CRED, and the start and the end of a collective.
-/
namespace Sys2Proof.Machine

open Sys2Proof

/-! ### Issue (R290, R366) -/

/-- The conditions of R290 that give FABRIC_ERROR. -/
def collectiveOk (s : State) (d mask : Nat) : Bool :=
  bits d 511 311 == 0 && bits d 255 249 == 0 && bits d 191 185 == 0 && bits d 127 121 == 0 && bits d 63 57 == 0 && cdOp d ≤ 5
    && [2, 3, 6, 7, 8, 10].contains (cdFmt d) && !(8 ≤ cdFmt d && (cdOp d == 1 || 4 ≤ cdOp d)) && cdCount d != 0
    && (bitSet 1024 mask).any s.isOwn && s.collectives.length < 256

def opCred (t : Tag) (xa : XReg) : Op Unit := guarded t do
  acquireWait
  let x ← getX xa
  check (x.toNat % 64 == 0) cAlign x.toNat
  let a ← strandAccess x.toNat 64 .r false
  let s ← get
  let own : Bool := match a.space with
    | .scratch n | .regs n => n == s.coreNo
    | _ => false
  if !own then fail cProtection x.toNat
  localPoison a
  let d := leNat (s.readPieces a.pieces)
  check (cdCmpl d % 8 == 0) cAlign (cdCmpl d)
  check (cdPart d % 8 == 0) cAlign (cdPart d)
  let mask ← readWaited (cdPart d) 128
  let s ← get
  check (collectiveOk s d mask) cFabricError
  markEffect
  let id ← freshId
  modify fun s =>
    { s with collectives := s.collectives ++ [⟨id, s.focus, s.strand.ident.uid, d, mask, s.strand.ident.asid, s.priv,
      s.strand.entropy, false, s.issue.seq * 8 + s.issue.slot⟩] }

def execCred (t : Tag) (xa : XReg) (s : State) : Host.Outcome State Fault Refusal := issueOne (.cred t xa) (opCred t xa) s

/-- A node of a fabric reduction (R113, R291). -/
def reduceNode (op f a b : Nat) : Nat :=
  if 8 ≤ f then
    match op with
    | 0 => (fAdd f .rne a b).1
    | 2 => fMinMax f false a b
    | _ => fMinMax f true a b
  else
    let x := intValue f a
    let y := intValue f b
    match op with
    | 0 => intEncode f (x + y)
    | 1 => satInt f (x + y)
    | 2 => if y < x then b else a
    | 3 => if x < y then b else a
    | 4 => a ||| b
    | _ => a &&& b

/-- The reduction of contributions in ascending identifier: element by element by the tree of R112. -/
def reduceAll (op f count : Nat) (cs : List (List Byte)) : List Byte :=
  let w := fmtBytes f
  (List.range count).flatMap fun e =>
    leBytes w ((treeReduce (reduceNode op f) 10 (cs.map fun c => leNat ((c.drop (w * e)).take w))).headD 0)

/-- COLLECTIVE_START: a collective that waits starts while fewer than eight run, in issue order (R290). -/
def collectiveStart (s : State) (id : Nat) : State :=
  if 8 ≤ (s.collectives.filter fun c => c.running).length || (s.collectives.find? fun c => !c.running).map (fun c => c.id) != some id then s
  else { s with collectives := s.collectives.map fun c => if c.id == id then { c with running := true } else c }

/-- The fabric engine at work for a collective. -/
def Collective.agent (c : Collective) : Agent := ⟨keyCore c.ctx, c.asid, c.priv, c.fent, c.uid⟩

/-- The completion word (R291). -/
def collectiveWord (d cause : Nat) : List Byte := leBytes 8 (1 + 2 ^ 8 * cause + 2 ^ 32 * cdCid d)

/-- The data phase of a collective: SRC is read and DST written, or it fails (R291). -/
def collectiveData (c : Collective) (below : Nat) (others : List (List Byte)) : Eng Unit := do
  let d := c.desc
  let len := cdCount d * fmtBytes (cdFmt d)
  let own ← c.agent.readLong (len / 64 + 1) (cdSrc d) len
  let all := others.take below ++ own :: others.drop below
  c.agent.writeLong (len / 64 + 1) (cdDst d) (reduceAll (cdOp d) (cdFmt d) (cdCount d) all)

/-- COLLECTIVE_END (R291): `others` are the contributions of the other participants in ascending identifier; `down` says that a
descriptor differs or a participant has left. -/
def collectiveEnd (s : State) (id : Nat) (others : List (List Byte)) (down : Bool) : State :=
  match s.collectives.find? fun c => c.id == id with
  | none => s
  | some c =>
    let d := c.desc
    let n := (bitSet 1024 c.mask).length
    let len := cdCount d * fmtBytes (cdFmt d)
    if !c.running || (!down && (others.length + 1 != n || others.any fun o => o.length != len)) then s
    else
      let failed := down || (1 < n && !s.inFabric)
      let below := (bitSet 1024 c.mask).takeWhile fun j => !s.isOwn j
      let (ok, s1) : Bool × State := if failed then (false, s) else
        let (r, s1) := (collectiveData c below.length others).on s
        (r.isOk, s1)
      let (r, s2) := engineWrite s1 c.agent (cdCmpl d) (collectiveWord d (if ok then 0 else cFabricError))
      let s3 := match r with
        | none => s2
        | some r => s2.modByUid c.uid fun st => { st with reports := st.reports ++ [(⟨5, { r with info := w64 (cdCmpl d) }, false⟩ : Report)] }
      { s3 with collectives := s3.collectives.filter fun x => x.id != id }

def execCollectiveStart (id : Nat) (s : State) : Host.Outcome State Fault Refusal := .next (collectiveStart s id)
def execCollectiveEnd (id : Nat) (others : List (List Byte)) (down : Bool) (s : State) : Host.Outcome State Fault Refusal :=
  .next (collectiveEnd s id others down)

end Sys2Proof.Machine
end

