-- ==== Sys2Proof/Machine/Copies.lean ====
section
/-!
DEFINITION. Tensor copies (R131, R152-R161, R368, R369, R374, R455): layout records, DCP, DSTAT and the copy engines.
-/
namespace Sys2Proof.Machine

open Sys2Proof

/-! ### Layout records (R152, R153) -/

/-- PERM is a permutation. -/
def tlPermOk (r : Nat) : Bool := noRepeats ((List.range 4).map (tlPerm r))

/-- Some element of the window lies beyond the record's edge. -/
def tlBeyond (r : Nat) : Bool :=
  (List.range 4).any fun k => tlOrg r k < 0 || (tlExt r k : Int) < tlOrg r k + tlWsz r k

/-- The inside coordinates of dimension k: how many there are, and the first. -/
def tlInside (r k : Nat) : Nat × Int :=
  let lo := max 0 (tlOrg r k)
  let hi := min (tlExt r k : Int) (tlOrg r k + tlWsz r k)
  ((hi + 1 - lo).toNat, lo)

/-- Every inside element of an interleaved record has o ≥ 0 and ends within its bank (R155). A bound on the last element settles
the plain cases. -/
def tlBanksOk (r : Nat) : Bool :=
  let w := fmtBytes (tlFmt r)
  let dims := (List.range 4).map (tlInside r)
  let ends (k : Nat) (d : Nat × Int) : Int × Int :=
    let a := d.2 * tlStride r k
    let b := (d.2 + (d.1 : Int) - 1) * tlStride r k
    (min a b, max a b)
  let es := ((List.range 4).zip dims).map fun (k, d) => ends k d
  let lo := (es.map Prod.fst).sum
  let hi := (es.map Prod.snd).sum
  if dims.any fun d => d.1 == 0 then true
  else if lo < 0 then false
  else
    let g := 2 ^ (tlGran r + 6)
    let c := (bitSet 16 (tlBmask r)).length
    let b := bits (tlBase r) 17 0
    if b + hi.toNat / (g * c) * g + g - 1 + w ≤ 0x40000 then true
    else
      let run (k : Nat) : List Int := match dims[k]? with
        | some (n, x) => (List.range n).map fun (i : Nat) => (x + (i : Int)) * tlStride r k
        | none => [0]
      (run 0).all fun o0 => (run 1).all fun o1 => (run 2).all fun o2 => (run 3).all fun o3 =>
        tlBankOff r (o0 + o1 + o2 + o3).toNat + w ≤ 0x40000

/-- A record's own conditions of R153 that need no translation. -/
def tlOwnOk (r : Nat) : Bool :=
  tlFmt r ≤ 12 && tlFillm r ≤ 2 && tlPermOk r && tlGran r ≤ 12 && !(tlFillm r == 2 && tlBeyond r)
    && (tlBmask r == 0 || (bits (tlBase r) 21 18 == 0 && tlBanksOk r))

/-- The window sizes of two records agree, and the points number at most 2^40. -/
def tlAgree (src dst : Nat) : Bool :=
  ((List.range 4).all fun m => tlExtent src m == tlExtent dst m) && tlPoints src ≤ 2 ^ 40

/-! ### The copy queue (R156, R157) -/

/-- Copies running on an engine of a cluster. -/
def engineLoad (s : State) (cluster e : Nat) : Nat := (s.copies.filter fun c => c.cluster == cluster && c.engine == some e).length

/-- Copies waiting in the queue of a cluster. -/
def copyQueue (s : State) (cluster : Nat) : Nat := (s.copies.filter fun c => c.cluster == cluster && c.engine.isNone).length

/-- The engines of a cluster take waiting copies in arrival order (R156). -/
def takeCopies (cluster : Nat) : Nat → State → State
  | 0, s => s
  | n + 1, s =>
    match s.copies.find? fun c => c.cluster == cluster && c.engine.isNone with
    | none => s
    | some c =>
      let free := if engineLoad s cluster 0 < 16 then some 0 else if engineLoad s cluster 1 < 16 then some 1 else none
      match free with
      | none => s
      | some e => takeCopies cluster n { s with copies := s.copies.map fun x => if x.id == c.id then { x with engine := some e } else x }

/-- Enters a copy into its cluster's queue. -/
def enterCopy (s : State) (c : Copy) : State := takeCopies c.cluster 32 { s with copies := s.copies ++ [{ c with engine := none }] }

/-- The status word of a tag (R157). -/
def tagStatus (w : TagWord) : Word :=
  w64 (packFields [(8, w.cause), (8, w.out), (7, 0), (1, bit01 w.err), (40, w.prog)])

/-- A copy of a strand before its first element, with what it captures: address space, privilege, path entropy and bank formats (R130,
R134, R285). -/
def strandCopy (s : State) (key : Nat) (st : Strand) (tag src dst : Nat) : Copy :=
  { id := 0, cluster := clusterOf (keyCore key), ctx := key, uid := st.ident.uid, tag := tag, src := src, dst := dst, asid := st.ident.asid
    priv := st.sys.priv || isSupervisor (keyCore key), fent := st.entropy, banks := bankFormats s, engine := none, next := 0, seq := s.issue.seq * 8 + s.issue.slot }

/-- An interleaved record's BASE must translate into a scratchpad (R155). -/
def tlBaseOk (r : Nat) (need : Need) : Op Bool := do
  if tlBmask r == 0 then pure true
  else
    let m ← strandMap (tlBase r)
    let s ← get
    match m with
    | none => pure false
    | some m => pure (permitted need s.priv m.perms && (bankAt s (m.phys (tlBase r))).isSome)

/-- DCP (R157, R368): it waits for its tag and for room in the queue before anything of it is checked (R471). -/
def opDcp (t : Tag) (tag : BitVec 4) (vs : VReg) (_ : Port) (vd : VReg) (_ : Port) : Op Unit := guarded t do
  acquireWait
  let s ← get
  waitWhile ((s.strand.tags.getD tag.toNat ⟨0, 0, false, 0⟩).out == 255 || 64 ≤ copyQueue s (clusterOf s.coreNo)) .copyQueue
  let src ← getV vs
  let dst ← getV vd
  onceRead do
    let src := src % 2 ^ 768
    let dst := dst % 2 ^ 768
    match tlReserved src, tlReserved dst with
    | some i, _ => fail cLayoutReserved i
    | none, some i => fail cLayoutReserved (some (1024 + i))
    | none, none => pure ()
    let sOk ← if tlOwnOk src then tlBaseOk src .r else pure false
    check sOk cLayoutRange (some 0)
    let dOk ← if tlOwnOk dst then tlBaseOk dst .w else pure false
    check (dOk && tlAgree src dst) cLayoutRange (some 1024)
    let s ← get
    let st := s.strand
    let w := st.tags.getD tag.toNat ⟨0, 0, false, 0⟩
    markEffect
    let id ← freshId
    let s ← get
    modStrand fun st => { st with tags := st.tags.setIfInBounds tag.toNat (if w.out == 0 then ⟨0, 1, false, 0⟩ else { w with out := w.out + 1 }) }
    modify fun t => enterCopy t { strandCopy s s.focus st tag.toNat src dst with id := id }

/-- Clears the CPEND bit of a tag (R273). -/
def clearPending (y : SysRegs) (tag : Nat) : SysRegs := { y with umask := y.umask &&& ~~~(w64 (2 ^ (32 + tag))) }

def opDstat (t : Tag) (xd : XReg) (tag : BitVec 4) : Op Unit := guarded t do
  let s ← get
  let w := s.strand.tags.getD tag.toNat ⟨0, 0, false, 0⟩
  putX 1 xd (tagStatus w)
  if w.out == 0 then modStrand fun st => { st with sys := clearPending st.sys tag.toNat }

def execDcp (t : Tag) (tag : BitVec 4) (vs : VReg) (ps : Port) (vd : VReg) (pd : Port) (s : State) : Host.Outcome State Fault Refusal :=
  issueOne (.dcp t tag vs ps vd pd) (opDcp t tag vs ps vd pd) s
def execDstat (t : Tag) (xd : XReg) (tag : BitVec 4) (s : State) : Host.Outcome State Fault Refusal :=
  issueOne (.dstat t xd tag) (opDstat t xd tag) s

/-! ### The copy engines (R131, R154, R158) -/

/-- How a copy sees an element: by the format of a scratchpad bank's data area, as raw bytes of a scale area, or by its
record's format (R131). -/
inductive Side where
  | fmt (f : Nat)
  | raw
deriving DecidableEq, Repr

/-- The format of a side, from where the element lies; `none` where R130 or R131 fails. -/
def sideOf (s : State) (c : Copy) (r va : Nat) : Option Side :=
  let pa := (homePiece s (va, 1)).1
  match s.space pa with
  | .scratch _ =>
    let (_, start, off) := bankOf pa
    let bf := bankFmt c.banks start
    let f := bits bf.toNat 3 0
    if !bankOk bf || f == 13 then none
    else if dataEnd bf ≤ off then (if fmtBytes (tlFmt c.src) == 4 && fmtBytes (tlFmt c.dst) == 4 then some .raw else none)
    else some (.fmt f)
  | _ => some (.fmt (tlFmt r))

/-- Bytes of an element on a side. -/
def Side.bytes : Side → Nat
  | .fmt f => fmtBytes f
  | .raw => 4

/-- A copy engine of a cluster at work for a copy. -/
def Copy.agent (c : Copy) : Agent := ⟨1024 + c.cluster, c.asid, c.priv, c.fent, c.uid⟩

/-- The side of an element at a virtual address, or the fault of the access (R130, R158). -/
def locate (s : State) (c : Copy) (r va : Nat) (need : Need) : Except Raise Side × State :=
  match engineAccess s c.agent va 1 need with
  | (.error e, s') => (.error e, s')
  | (.ok a, s') =>
    match sideOf s' c r (a.pieces.headD (0, 0)).1 with
    | none => (.error (bare s' cLayoutRange), s')
    | some side => (.ok side, s')

/-- Whether a stretch of bytes touches the scale area of a scaled bank, as a copy captured its format (R129, R130). -/
def inScales (s : State) (c : Copy) (p : Nat × Nat) : Bool :=
  match s.space p.1 with
  | .scratch _ =>
    let (_, start, off) := bankOf p.1
    let bf := bankFmt c.banks start
    bits bf.toNat 9 8 != 0 && dataEnd bf < off + p.2
  | _ => false

/-- An element that starts outside every scale area and runs into one fails (R130). -/
def overrun (s : State) (c : Copy) (va n : Nat) (need : Need) : Bool :=
  match (engineAccess s c.agent va n need).1 with
  | .ok a =>
    let ps := a.pieces.map (homePiece s)
    ps.any (inScales s c) && !inScales s c ((ps.headD (0, 0)).1, 1)
  | .error _ => false

/-- The two sides of an element: with either in a scale area, both are 4 raw bytes (R131). -/
def pairSides (a b : Side) : Side × Side := if a == .raw || b == .raw then (.raw, .raw) else (a, b)

/-- A source element's code in the destination's format: raw when the formats are equal or a scale area is involved (R131). -/
def moveElem (sat : Bool) (src dst : Side) (v : Nat) : Nat :=
  match src, dst with
  | .fmt f, .fmt g => if f == g then v else (convert g f .rne sat v).1
  | _, _ => v

/-- Writes an element of a copy whose destination lies on side `d`, from code `v` of side `src`. -/
def copyWrite (s : State) (c : Copy) (da : Nat) (src d : Side) (v : Nat) : Option Raise × State :=
  if overrun s c da d.bytes .w then (some (bare s cLayoutRange), s)
  else engineWrite s c.agent da (leBytes d.bytes (moveElem (tlSat c.dst) src d v))

/-- One iteration point (R154): its fault or the state after it. The source is read before the destination's access is judged. -/
def copyPoint (s : State) (c : Copy) : Option Raise × State :=
  let i := tlPoint c.src c.next
  let (dIn, da) := tlElem c.dst i
  let (sIn, sa) := tlElem c.src i
  if !dIn then (none, s)
  else if sIn then
    match locate s c c.src sa .r with
    | (.error e, s') => (some e, s')
    | (.ok a, s') =>
      let (dst, s2) := locate s' c c.dst da .w
      let (a', b') := pairSides a (dst.toOption.getD a)
      if overrun s2 c sa a'.bytes .r then (some (bare s2 cLayoutRange), s2)
      else
        match engineRead s2 c.agent sa a'.bytes, dst with
        | (.error e, s3), _ => (some e, s3)
        | (.ok _, s3), .error e => (some e, s3)
        | (.ok v, s3), .ok _ => copyWrite s3 c da a' b' (leNat v)
  else if tlFillm c.src == 0 then
    match locate s c c.dst da .w with
    | (.error e, s') => (some e, s')
    | (.ok d, s') =>
      let f := tlFmt c.src
      copyWrite s' c da (.fmt f) d (tlFill c.src % 2 ^ (8 * fmtBytes f))
  else (none, s)

/-- Changes the strand that a copy belongs to. -/
def modOwner (s : State) (key uid : Nat) (f : Strand → Strand) : State :=
  match s.strandAt key with
  | some st => if st.ident.uid == uid then s.setStrandAt key (f st) else s
  | none => s

/-- One iteration point of a copy is moved (R154, R158): an error is recorded once in the tag's status word and ends the copy. -/
def copyStep (s : State) (id : Nat) : State :=
  match s.copies.find? fun c => c.id == id with
  | none => s
  | some c =>
    if c.engine.isNone || tlPoints c.src ≤ c.next then s
    else
      let put (s : State) (n : Nat) : State := { s with copies := s.copies.map fun x => if x.id == id then { x with next := n } else x }
      match copyPoint s c with
      | (none, s') => put s' (c.next + 1)
      | (some r, s') =>
        let s'' := modOwner s' c.ctx c.uid fun st =>
          let w := st.tags.getD c.tag ⟨0, 0, false, 0⟩
          if w.err then st else { st with tags := st.tags.setIfInBounds c.tag { w with err := true, cause := r.cause, prog := c.next } }
        put s'' (tlPoints c.src)

/-- The lines of 64 bytes that a point of a copy writes the first and the last byte of; none where it writes nothing. -/
def copyLines (s : State) (c : Copy) (n : Nat) : Option (Nat × Nat) :=
  let (dIn, da) := tlElem c.dst (tlPoint c.src n)
  if tlPoints c.src ≤ n || !dIn then none
  else match (locate s c c.dst da .w).1 with
    | .ok side => some (da / 64, (da + side.bytes - 1) / 64)
    | .error _ => none

/-- COPY_ELEMENT: a point of a copy is moved, and with it those behind it that go on in the line of 64 bytes that it writes: a line lands
whole (R125). -/
def copyMove : Nat → State → Nat → State
  | 0, s, _ => s
  | n + 1, s, id =>
    let s1 := copyStep s id
    match s.copies.find? (fun c => c.id == id), s1.copies.find? fun c => c.id == id with
    | some c, some c1 =>
      match copyLines s c c.next, copyLines s1 c1 (c.next + 1) with
      | some (_, last), some (first, _) => if c1.next == c.next + 1 && first == last then copyMove n s1 id else s1
      | _, _ => s1
    | _, _ => s1

/-- How many points a copy has. -/
def copyPoints (s : State) (id : Nat) : Nat := ((s.copies.find? fun c => c.id == id).map fun c => tlPoints c.src).getD 0

/-- COPY_COMPLETION (R157, R159): OUT falls, and a tag whose OUT returns to 0 signals. -/
def copyEnd (s : State) (id : Nat) : State :=
  match s.copies.find? fun c => c.id == id with
  | none => s
  | some c =>
    if c.engine.isNone || c.next < tlPoints c.src then s
    else
      let s1 := modOwner s c.ctx c.uid fun st =>
        let w := st.tags.getD c.tag ⟨0, 0, false, 0⟩
        let w' := { w with out := w.out - 1 }
        { st with
          tags := st.tags.setIfInBounds c.tag w'
          sys := if w'.out == 0 then { st.sys with umask := st.sys.umask ||| w64 (2 ^ (32 + c.tag)) } else st.sys }
      takeCopies c.cluster 32 { s1 with copies := s1.copies.filter fun x => x.id != id }

def execCopyElement (id : Nat) (s : State) : Host.Outcome State Fault Refusal := .next (copyMove (copyPoints s id) s id)
def execCopyCompletion (id : Nat) (s : State) : Host.Outcome State Fault Refusal := .next (copyEnd s id)

end Sys2Proof.Machine
end

