-- ==== Sys2Proof/Machine/Image.lean ====
section
/-!
DEFINITION. The context-save image (R279), word by word, as the streaming save engine writes and reads it and as a debugger sees
it (R281). Where R279 gives only what a part holds, its fields stand packed in the order that R279 names them (log 11).
-/
namespace Sys2Proof.Machine

open Sys2Proof

/-! ### System registers in the image -/

/-- The system registers at 0x400, in order (R279). -/
def imageSysOrder : List Nat :=
  [0x000, 0x002, 0x004, 0x005, 0x008, 0x028, 0x029, 0x030, 0x031, 0x032, 0x033, 0x038] ++ (List.range 16).map (fun k => 0x040 + k)
    ++ (List.range 8).map (fun k => 0x050 + k) ++ [0x021, 0x022]

/-- A strand-scope system register. -/
def strandSys (key : Nat) (st : Strand) (n : Nat) : Word :=
  let y := st.sys
  match n with
  | 0x000 => statusWord key st
  | 0x002 => y.vview
  | 0x004 => y.frm
  | 0x005 => y.fflags
  | 0x008 => y.budget
  | 0x021 => y.tcause
  | 0x022 => y.tinfo
  | 0x028 => y.uvec
  | 0x029 => y.umask
  | 0x030 => y.polder
  | 0x031 => y.launch
  | 0x032 => y.weight
  | 0x033 => y.trigscope
  | 0x038 => y.fent
  | _ => if n < 0x050 then y.tviews.getD (n - 0x040) 0 else y.aviews.getD (n - 0x050) 0

/-- Puts a strand-scope system register as an image holds it: STATUS brings PRIV, UIE and UIH, UMASK its pending bits. -/
def putStrandSys (y : SysRegs) (n : Nat) (v : Word) : SysRegs :=
  if n == 0x000 then { y with priv := bit v.toNat 0, uie := bit v.toNat 2, uih := bit v.toNat 3 }
  else if n == 0x029 then { y with umask := v &&& 0x000FFFFF000FFFFF }
  else writeStrandSys y n v

/-! ### Loop levels and spool records -/

/-- The iterations of a LOOPS level that have begun. -/
def Level.begun (l : Level) : Nat := if l.drained then l.index else l.index + 1 - l.tail

/-- Word `k` of a loop level: start, end, count with the iterations begun of a LOOPS level in its high half, index with the
LOOPS level's S and first stage predicate above it (log 11). -/
def levelWord (l : Level) (k : Nat) : Nat :=
  match k with
  | 0 => l.start
  | 1 => l.stop
  | 2 => l.count + (if l.stages == 0 then 0 else 2 ^ 32 * l.begun)
  | _ => l.index + 2 ^ 32 * (l.stages + 16 * l.run)

/-- A loop level after a word of it is put. -/
def putLevelWord (l : Level) (k v : Nat) : Level :=
  match k with
  | 0 => { l with start := bits v 56 0 }
  | 1 => { l with stop := bits v 56 0 }
  | 2 =>
    let begun := bits v 63 32
    if l.stages == 0 then { l with count := bits v 31 0 }
    else if l.drained then { l with count := bits v 31 0, index := begun }
    else { l with count := bits v 31 0, index := max l.index (begun - 1), tail := max l.index (begun - 1) + 1 - begun }
  | _ => { l with index := bits v 31 0, stages := bits v 35 32, run := bits v 42 36 }

/-- The index of sIDX's stream behind an INDIRECT spool's position (R151). -/
def indexBehind (sp : Spool) : Nat := if spIsIndirect sp.desc then consumedIndices sp else 0

/-- A spool record: descriptor, position count, index position, state (R279). -/
def spoolRecord (o : Option Spool) : Nat :=
  match o with
  | none => 0
  | some sp => packFields [(376, 0), (8, if sp.ended && sp.buf.isEmpty then 2 else 1), (64, indexBehind sp), (64, sp.count), (512, sp.desc)]

/-- The state of a spool at a recorded position: nothing buffered, elements to be fetched again (R151). -/
def standAt (sp : Spool) (count index : Nat) (ended : Bool) : Spool :=
  let per := 128 / fmtBytes (spFmt sp.desc)
  let base := if ended then index else if spRows sp.desc == 0 then index - count * per else index - count / spRows sp.desc
  { sp with
    buf := [], moved := count, count := count, issued := count, ended := ended, idxEnd := if ended && spIsIndirect sp.desc then some index else none
    idxBase := if spIsIndirect sp.desc then base else sp.idxBase }

/-- The spool that a record gives, over what stands there; with nothing there, it captures these bank formats. -/
def spoolOfRecord (st : Strand) (banks : Tab Word) (old : Option Spool) (r : Nat) : Option Spool :=
  let fresh (d : Nat) : Spool := newSpool st d banks st.sys.priv st.entropy 0
  let d := bits r 511 0
  if bits r 647 640 == 0 then none
  else some (standAt { (old.getD (fresh d)) with desc := d } (bits r 575 512) (bits r 639 576) (bits r 647 640 == 2))

/-- The record of spool `n`, as a debugger has edited it or as the spool stands (R279, R281). -/
def Strand.recordAt (st : Strand) (n : Nat) : Nat := (tabGet st.drafts n).getD (spoolRecord (st.spools.getD n none))

/-! ### The words from 0x40 to 0xFFF -/

/-- Word `i` of a number. -/
def wordOf (v i : Nat) : Nat := elemOf 8 i v

/-- Word `i` of the wait state in an image: WKIND, its value, and the filling value (R279). -/
def WaitState.word (w : WaitState) (i : Nat) : Nat :=
  match i, w.arrived with
  | 0, some _ => 1
  | 0, .none => w.kind
  | 1, some phase => phase
  | 1, .none => if w.kind == 0 then 0 else w.arg
  | _, some _ => 0
  | _, .none => if w.kind == 3 then w.value.toNat else 0

/-- A wait state after word `i` of its image is put. An FRD's answer that stands beside a BAR's arrival, which the image has no place for,
stays (log 59). -/
def WaitState.putWord (w : WaitState) (i v : Nat) : WaitState :=
  match i, w.arrived with
  | 0, a => if bits v 7 0 == 1 then { w with arrived := some (a.getD 0) } else { w with kind := bits v 7 0, arrived := .none }
  | 1, some _ => { w with arrived := some v }
  | 1, .none => { w with arg := v }
  | _, some _ => w
  | _, .none => { w with value := w64 v }

/-- The 8 bytes at an offset of the image of a strand, between the header and the array state (R279). -/
def strandWord (key : Nat) (st : Strand) (off : Nat) : Nat :=
  let at' (b : Nat) : Nat := (off - b) / 8
  if off < 0x048 then 0
  else if off < 0x200 then (st.xs.getD (at' 0x040) 0).toNat
  else if off < 0x210 then wordOf (st.ps.toNat ||| 1) (at' 0x200)
  else if off < 0x250 then (st.bs.getD (at' 0x210) 0).toNat
  else if off < 0x310 then
    match st.pos.loops[at' 0x250 / 4]? with
    | some l => levelWord l (at' 0x250 % 4)
    | none => 0
  else if off < 0x390 then st.pos.rets.reverse.getD (at' 0x310) 0
  else if off < 0x398 then st.pos.pc
  else if off < 0x3D8 then (st.shadowX.getD (at' 0x398) 0).toNat
  else if off < 0x3E0 then st.shadowP.toNat
  else if off < 0x400 then 0
  else if off < 0x530 then (strandSys key st (imageSysOrder.getD (at' 0x400) 0)).toNat
  else if off < 0x540 then 0
  else if off < 0x5C0 then (tagStatus (st.tags.getD (at' 0x540) ⟨0, 0, false, 0⟩)).toNat
  else if off < 0x5D8 then st.waits.word (at' 0x5C0)
  else if off < 0x600 then 0
  else if off < 0x800 then wordOf (st.hfam.getD (at' 0x600 / 8) 0) (at' 0x600 % 8)
  else if off < 0x1000 then wordOf (st.recordAt (at' 0x800 / 16)) (at' 0x800 % 16)
  else 0

/-- A number with word `i` replaced. -/
def putWord (v i w : Nat) : Nat := v - wordOf v i * 2 ^ (64 * i) + w % 2 ^ 64 * 2 ^ (64 * i)

/-- A strand after the 8 bytes at an offset of its image are put (R279, R281). -/
def putStrandWord (st : Strand) (off v : Nat) : Strand :=
  let at' (b : Nat) : Nat := (off - b) / 8
  if off < 0x048 then st
  else if off < 0x200 then { st with xs := st.xs.setIfInBounds (at' 0x040) (w64 v) }
  else if off < 0x210 then { st with ps := BitVec.ofNat 96 (putWord st.ps.toNat (at' 0x200) v) }
  else if off < 0x250 then { st with bs := st.bs.setIfInBounds (at' 0x210) (BitVec.ofNat 57 v) }
  else if off < 0x310 then
    match st.pos.loops[at' 0x250 / 4]? with
    | some l => { st with pos := { st.pos with loops := st.pos.loops.set (at' 0x250 / 4) (putLevelWord l (at' 0x250 % 4) v) } }
    | none => st
  else if off < 0x390 then
    { st with pos := { st.pos with rets := (st.pos.rets.reverse.set (at' 0x310) (bits v 56 0)).reverse } }
  else if off < 0x398 then { st with pos := { st.pos with pc := bits v 56 0 } }
  else if off < 0x3D8 then { st with shadowX := st.shadowX.setIfInBounds (at' 0x398) (w64 v) }
  else if off < 0x3E0 then { st with shadowP := BitVec.ofNat 8 v }
  else if off < 0x400 then st
  else if off < 0x530 then { st with sys := putStrandSys st.sys (imageSysOrder.getD (at' 0x400) 0) (w64 v) }
  else if off < 0x540 then st
  else if off < 0x5C0 then
    { st with tags := st.tags.setIfInBounds (at' 0x540) ⟨bits v 63 56, bits v 55 48, bit v 40, bits v 39 0⟩ }
  else if off < 0x5D8 then { st with waits := st.waits.putWord (at' 0x5C0) v }
  else if off < 0x600 then st
  else if off < 0x800 then
    { st with hfam := st.hfam.setIfInBounds (at' 0x600 / 8) (putWord (st.hfam.getD (at' 0x600 / 8) 0) (at' 0x600 % 8) v) }
  else if off < 0x1000 then
    let n := at' 0x800 / 16
    { st with drafts := tabSet st.drafts n (putWord (st.recordAt n) (at' 0x800 % 16) v) }
  else st

/-! ### The array state (R191, R279) -/

/-- The facts of a set of latches in 32 bytes: present, format, rows, columns, scales (log 11). -/
def latchFacts (l : Option Latches) : List Byte :=
  match l with
  | none => List.replicate 32 0
  | some l =>
    let sc := l.scales.getD []
    leBytes 1 1 ++ leBytes 1 l.fmt ++ leBytes 2 l.rows ++ leBytes 2 l.cols ++ leBytes 1 (bit01 l.scales.isSome) ++ leBytes 1 sc.length
      ++ leBytes 8 0 ++ (List.range 4).flatMap (fun i => leBytes 4 (sc.getD i 0))

/-- Latches from their facts and cells. -/
def latchesOf (b : Nat) (cells : Cells) : Option Latches :=
  if elemOf 1 0 b == 0 then none
  else
    let sc := (List.range (elemOf 1 7 b)).map fun i => elemOf 4 (4 + i) b
    some ⟨elemOf 1 1 b, elemOf 2 1 b, elemOf 2 2 b, cells, if elemOf 1 6 b == 0 then none else some sc⟩

/-- A cluster ALDB, withdrawn or at hand. -/
def aldbWords (o : ArrOp) : List Nat :=
  match o.kind with
  | .loadCluster a b => [a.toNat, b.toNat, o.sword + 2 ^ 63]
  | _ => [0, 0, 0]

/-- The array control bytes at 0x1000: programs, selection, flow, bindings, tag counter, pending mark, shapes, withdrawn ALDB
(log 11). -/
def arrayControl (a : Arr) : List Byte :=
  a.progs.toList.flatMap (leBytes 12) ++ leBytes 1 a.sel ++ leBytes 1 (bit01 a.statC + 4 * bit01 a.skewRow) ++ leBytes 1 a.am
    ++ leBytes 1 a.ta ++ leBytes 1 a.bm ++ leBytes 1 a.tb ++ leBytes 2 0 ++ leBytes 4 a.tag ++ leBytes 4 (bit01 a.pending)
    ++ latchFacts a.active ++ latchFacts a.shadow ++ (a.ops.head?.elim [0, 0, 0] aldbWords).flatMap (leBytes 8)

/-- The array state that the control bytes and the cell arrays of an image give. -/
def arrayOf (b : Nat) (c0 c1 bl sh events : Cells) (tbuf : Tab Nat) (old : Arr) : Arr :=
  { old with
    progs := Vector.ofFn fun (i : Fin 4) => bits b (96 * i.val + 95) (96 * i.val)
    sel := elemOf 1 48 b % 4, statC := bit (elemOf 1 49 b) 0, skewRow := bit (elemOf 1 49 b) 2
    am := elemOf 1 50 b, ta := elemOf 1 51 b, bm := elemOf 1 52 b, tb := elemOf 1 53 b
    tag := elemOf 4 14 b, pending := elemOf 4 15 b != 0
    active := latchesOf (bits (b / 2 ^ 512) 255 0) bl, shadow := latchesOf (bits (b / 2 ^ 768) 255 0) sh
    c0 := c0, c1 := c1, events := events, tbuf := tbuf }

/-- Writes the entries of a cell array from an address. -/
def writeCells (a : Nat) (t : Cells) (s : State) : State := t.foldl (fun s e => s.writePhys (a + 4 * e.1) (leBytes 4 e.2)) s

/-- Reads a cell array. -/
def readCells (s : State) (a : Nat) : Cells :=
  (List.range 16384).filterMap fun k =>
    let v := s.readNat (a + 4 * k) 4
    if v == 0 then none else some (k, v)

/-- Writes the event bits: two for each cell. -/
def writeEvents (a : Nat) (t : Cells) (s : State) : State :=
  t.foldl (fun s e =>
    let p := a + e.1 / 4
    s.writePhys p (leBytes 1 (s.readNat p 1 ||| (e.2 * 4 ^ (e.1 % 4))))) s

/-- Reads the event bits. -/
def readEvents (s : State) (a : Nat) : Cells :=
  (List.range 16384).filterMap fun k =>
    let v := s.readNat (a + k / 4) 1 / 4 ^ (k % 4) % 4
    if v == 0 then none else some (k, v)

/-! ### Replay entries, copy and pipe records -/

/-- A copy record of 256 bytes. -/
def copyRecord (c : Copy) : List Byte := leBytes 96 c.src ++ leBytes 96 c.dst ++ leBytes 8 c.tag ++ leBytes 8 c.next ++ List.replicate 48 0

/-- A copy as its record gives it, over one that holds what no record holds. -/
def copyOf (old : Copy) (r : Nat) : Copy :=
  { old with src := bits r 767 0, dst := bits r 1535 768, tag := bits r 1599 1536 % 16, next := bits r 1663 1600 }

/-- A replay entry as its 32 bytes give it at a boundary, over one that holds the operands it captured. -/
def entryOf (b : Nat) (old : Replay) (r : Nat) : Replay :=
  { old with info := w64 (bits r 255 192), prog := bits r 191 160, cause := bits r 143 136, slot := bits r 135 133, sword := bits r 55 0
             due := if old.due == 0 then 0 else b + bits r 159 144 }

/-- A pipe record of 256 bytes. -/
def pipeRecord (n : Nat) (l : List Word) : List Byte :=
  leBytes 1 n ++ leBytes 1 l.length ++ leBytes 6 0 ++ leBytes 248 (leNat (l.flatMap fun v => leBytes 8 v.toNat))

/-- The pipe and the elements that a pipe record gives. -/
def pipeOf (r : Nat) : Nat × List Word := (bits r 7 0, (List.range (min 31 (bits r 15 8))).map fun i => w64 (elemOf 8 (i + 1) r))

/-- The pipes that a member reads, with their numbers in the skein's map. -/
def memberPipes (s : State) (st : Strand) : List (Nat × List Word) :=
  match skeinOf s st with
  | none => []
  | some k => (k.pipes.zip (List.range k.pipes.length)).filterMap fun ((e, l), i) => if pipeRM e == memberOf st then some (i, l) else none

/-! ### The whole image -/

/-- What the header says beside the fixed fields. -/
structure ImageFacts where
  psize : Nat
  dcause : Nat
  daddr : Word
deriving DecidableEq, Repr

/-- The header (R279). -/
def imageHeader (st : Strand) (copies pipes : Nat) (f : ImageFacts) : Nat :=
  packFields [(352, 0), (64, f.daddr.toNat), (8, f.dcause), (6, st.residue), (5, pipes), (8, copies), (6, st.faults.length), (8, f.psize),
    (7, 0), (16, 1), (32, 0x43585A4E)]

/-- Bytes move with their poison: an ECC word of the copy that holds a poisoned byte is poisoned. -/
def moveBytes (s : State) (src dst n : Nat) : State :=
  let hit := (s.poison.filter fun w => w < src + n && src < w + s.eccUnit w).map fun w => (w - src) + dst
  let s1 : State := { s with mem := memMove s.mem src dst n, poison := s.poison.filter fun w => !(dst ≤ w && w < dst + n) }
  let unit := s1.eccUnit dst
  { s1 with poison := hit.foldl (fun l w => let u := if unit == 0 then w else w / unit * unit
                                            if l.contains u then l else u :: l) s1.poison }

/-- Writes the image of the strand of a context at a block (R277, R279). -/
def writeImage (s : State) (key block : Nat) (st : Strand) (copies : List Copy) (f : ImageFacts) : State :=
  let pipes := memberPipes s st
  let s0 : State := { s with mem := memClear s.mem block 0x100000, poison := s.poison.filter fun w => !(block ≤ w && w < block + 0x100000) }
  let s1 := s0.writePhys block (leBytes 64 (imageHeader st copies.length pipes.length f))
  let s2 := s1.writePhys (block + 0x40) ((List.range 504).flatMap fun i => leBytes 8 (strandWord key st (0x40 + 8 * i)))
  let s3 := s2.writePhys (block + 0x1000) (arrayControl st.arr)
  let s4 := st.arr.tbuf.foldl (fun s e => s.writePhys (block + 0x2000 + 128 * e.1) (leBytes 128 e.2)) s3
  let s5 := writeCells (block + 0x6000) st.arr.c0 s4
  let s6 := writeCells (block + 0x16000) st.arr.c1 s5
  let s7 := writeCells (block + 0x26000) (st.arr.active.elim [] fun l => l.cells) s6
  let s8 := writeCells (block + 0x36000) (st.arr.shadow.elim [] fun l => l.cells) s7
  let s9 := writeEvents (block + 0x46000) st.arr.events s8
  let tail := (sortEntries st.faults).flatMap (entryBytes st.pos.line.bt) ++ copies.flatMap copyRecord
    ++ pipes.flatMap (fun p => pipeRecord p.1 p.2)
  moveBytes (s9.writePhys (block + 0x47000) tail) (partitionOf s key).1 (block + 0x80000) (f.psize * 4096)

/-- Where the variable part of an image holds its copy records and its pipe records. -/
def imageCopiesAt (header : Nat) : Nat := 0x47000 + 32 * bits header 68 63
def imagePipesAt (header : Nat) : Nat := imageCopiesAt header + 256 * bits header 76 69

/-- An image that a strand can resume from: its header is whole, and every reserved field is zero (R5, log 51). -/
def imageOk (s : State) (block : Nat) : Bool :=
  let h := s.readNat block 64
  let word (off : Nat) : Nat := s.readNat (block + off) 8
  let zero (off n : Nat) : Bool := s.readNat (block + off) n == 0
  let entry (i : Nat) : Bool := let e := s.readNat (block + 0x47000 + 32 * i) 32; bits e 132 128 == 0 && bits e 127 56 == 0
  let spool (i : Nat) : Bool :=
    let r := s.readNat (block + 0x800 + 128 * i) 128
    bits r 1023 648 == 0 && bits r 647 640 ≤ 2 && (bits r 647 640 == 0 || spoolDescOk (bits r 511 0))
  bits h 31 0 == 0x43585A4E && bits h 47 32 == 1 && bits h 54 48 == 0 && bits h 511 160 == 0 && zero 0x20C 4 && zero 0x3D9 7 && zero 0x530 16
    && (List.range 16).all (fun i => bits (word (0x540 + 8 * i)) 47 41 == 0) && word 0x5C0 ≤ 3 && zero 0x5D8 40 && (List.range 16).all spool
    && (List.range (bits h 68 63)).all entry
    && (List.range (bits h 76 69)).all fun i =>
      let r := s.readNat (block + imageCopiesAt h + 256 * i) 256
      bits r 2047 1664 == 0 && (tlReserved (bits r 767 0)).isNone && (tlReserved (bits r 1535 768)).isNone

/-- The copies that an image records; those of the strand that left hold their captures, and one beyond them takes the strand's own
(R280). -/
def imageCopies (s : State) (block : Nat) (base : Copy) (old : List Copy) : List Copy :=
  let h := s.readNat block 64
  (List.range (bits h 76 69)).map fun i =>
    copyOf (old.getD i base) (s.readNat (block + imageCopiesAt h + 256 * i) 256)

/-- The pipes that an image records (R279). -/
def imagePipes (s : State) (block : Nat) : List (Nat × List Word) :=
  let h := s.readNat block 64
  (List.range (bits h 81 77)).map fun i => pipeOf (s.readNat (block + imagePipesAt h + 256 * i) 256)

/-- A loop level as a save leaves it: a LOOPS level stands drained, with the iterations begun that its count word holds (R89, R279). -/
def savedLevel (s : State) (block i : Nat) (l : Level) : Level :=
  if l.stages == 0 then l else { l with drained := true, tail := 0, index := bits (s.readNat (block + 0x250 + 32 * i + 16) 8) 63 32 }

/-- The strand that an image gives, over one that holds what no image holds: the fault that it records is a deferred report, with its
replay entries (R280); only spools marked in SPOOLS are restored (R92). -/
def readImage (s : State) (block : Nat) (phys : Bool) (old : Strand) : Strand :=
  let word (off : Nat) : Nat := s.readNat (block + off) 8
  let h := s.readNat block 64
  let offs := ((List.range 248).map fun i => 0x40 + 8 * i)
  let st := offs.foldl (fun st off => putStrandWord st off (word off)) old
  let spools := (List.range 16).foldl (fun (l : Vector (Option Spool) 16) n =>
    l.setIfInBounds n (if bit st.ident.spoolMask n
      then spoolOfRecord st (bankFormats s) (st.spools.getD n none) (s.readNat (block + 0x800 + 128 * n) 128) else none)) st.spools
  let tbuf := (List.range 128).filterMap fun r =>
    let v := s.readNat (block + 0x2000 + 128 * r) 128
    if v == 0 then none else some (r, v)
  let loops := (st.pos.loops.zip (List.range st.pos.loops.length)).map fun (l, i) => savedLevel s block i l
  let entries := (st.faults.zip (List.range (bits h 68 63))).map fun (e, i) =>
    entryOf st.pos.line.bt e (s.readNat (block + 0x47000 + 32 * i) 32)
  let cause := bits h 95 88
  let report : List Report := if cause == 0 then [] else [⟨0, ⟨cause, w64 (bits h 159 96), phys⟩, false⟩]
  { st with
    spools := spools, residue := bits h 87 82, faults := entries, reports := report ++ st.reports
    pos := { st.pos with loops := loops }
    arr := arrayOf (s.readNat (block + 0x1000) 256) (readCells s (block + 0x6000)) (readCells s (block + 0x16000))
      (readCells s (block + 0x26000)) (readCells s (block + 0x36000)) (readEvents s (block + 0x46000)) tbuf st.arr }

end Sys2Proof.Machine
end

