-- ==== Sys2Proof/Machine/Room.lean ====
section
/-!
DEFINITION. Which waiting work may take a context, and what goes first (R44, R47, R48, R249-R252, R280, R450): saved strands, points to
fire, and the tasks of an inbox.
-/
namespace Sys2Proof.Machine

open Sys2Proof

/-- Work is taken up only outside an evacuation that has begun (R299). -/
def takesWork (s : State) : Bool := s.host.evacState == 0 || s.host.evacState == 7

/-- Whether a strand's launch stands SAVED and runs in no slot: its strands do not run (R261, R301). -/
def launchSaved (s : State) (launch : Option Nat) : Bool :=
  let at' (saved : Bool) : Bool := s.slots.any fun p => p.2.state != .free && (p.2.state == .saved) == saved && launch == some p.2.launch
  at' true && !at' false

/-! ### Saved strands (R37, R39, R276, R280, R283) -/

/-- The partition bytes that a saved strand needs: PSIZE units (R280). -/
def savedBytes (s : State) (x : Saved) : Nat := bits (s.readNat x.block 64) 62 55 * 4096

/-- A record about a saved strand that waits for room in its die's event ring keeps it saved (R283). -/
def recordWaits (s : State) (x : Saved) : Bool :=
  (s.host.rings.getD (dieOf (keyCore x.ctx)) ⟨0, 0, 0, 0, []⟩).waiting.any fun r =>
    (bits r 63 56 == 1 || bits r 63 56 == 4) && bits r 191 128 == x.block

/-- The BUDGET of an image has run out: the strand waits for system software (R276). -/
def budgetSpent (s : State) (x : Saved) : Bool :=
  let budget := s.readNat (x.block + 0x420) 8
  bit budget 48 && bits budget 47 0 == 0

/-- The saved strands that come back with one: the members of its skein (R39). -/
def groupOf (s : State) (x : Saved) : List Saved :=
  match x.strand.ident.skein with
  | some id => s.saved.filter fun y => y.strand.ident.skein == some id
  | none => [x]

/-- Every member of a saved strand's skein is saved (R39). -/
def skeinWhole (s : State) (x : Saved) : Bool :=
  match s.skeins.find? fun k => some k.id == x.strand.ident.skein with
  | some k => k.members.all fun m => s.saved.any fun y => y.ctx == m && y.strand.ident.skein == some k.id
  | none => true

/-- A saved strand waits for a context: with its whole skein saved, nothing else keeps it or a partner away. -/
def mayReturn (s : State) (x : Saved) : Bool :=
  takesWork s && skeinWhole s x
    && (groupOf s x).all fun y => !recordWaits s y && !budgetSpent s y && !launchSaved s y.strand.ident.launch

/-- Whether a context can take a saved strand: on its core, FREE, with a legal partition that holds it, and a whole image. -/
def canResume (s : State) (x : Saved) (key : Nat) : Bool :=
  keyCore key == keyCore x.ctx && imageOk s x.block && contextTakes s key (savedBytes s x)

/-- The lowest context that can take a saved strand. -/
def resumeContext (s : State) (x : Saved) : Option Nat :=
  [2 * keyCore x.ctx, 2 * keyCore x.ctx + 1].find? (canResume s x)

/-! ### Points to fire (R38, R249-R252) -/

/-- The context of a core, not among those barred, that takes a point of a launch: a strand of the launch switched out there goes first
(R48). -/
def coreTakes (s : State) (barred : List Nat) (launch core regBytes : Nat) : Option Nat :=
  if s.saved.any fun v => keyCore v.ctx == core && v.strand.ident.launch == some launch && mayReturn s v then none
  else [2 * core, 2 * core + 1].find? fun key => contextTakes s key regBytes && !barred.contains key

/-- The first of the cores by distance, then by number, with a context that takes the point (R251). -/
def placeOn (s : State) (barred : List Nat) (launch cmask regBytes : Nat) (target : Option Nat) : Option Nat :=
  let fit := (List.range 512).filterMap fun core =>
    if bit cmask (clusterOf core) then (coreTakes s barred launch core regBytes).map fun key => (distanceTo target core, key) else none
  (fit.foldl (fun best c => match best with
    | none => some c
    | some b => if c.1 < b.1 then some c else some b) none).map Prod.snd

/-- Members in order on cores in order: each takes the lowest core, after those taken, that holds its kernel. DESIGN CHOICE (log 20): of
the sets of cores that R38 and R252 allow, that is the one chosen. -/
def pickMembers (s : State) (barred : List Nat) (launch : Nat) : List Nat → List Nat → Option (List Nat)
  | _, [] => some []
  | [], _ :: _ => none
  | core :: cores, r :: rs =>
    match coreTakes s barred launch core r with
    | some key => (pickMembers s barred launch cores rs).map fun ks => key :: ks
    | none => pickMembers s barred launch cores (r :: rs)

/-- The contexts for the members of a skein: distinct cores of one cluster, lowest numbers first (R38, R252). -/
def placeSkein (s : State) (barred : List Nat) (launch cmask : Nat) (regBytes : List Nat) (target : Option Nat) : Option (List Nat) :=
  let inCluster (cl : Nat) : Option (List Nat) := pickMembers s barred launch ((List.range 8).map fun i => 8 * cl + i) regBytes
  let order := match target with
    | some t => clusterOf t :: List.range 64
    | none => List.range 64
  order.findSome? fun cl => if bit cmask cl then inCluster cl else none

/-- The register bytes of the kernels of a launch, in member order, as their headers stand. DESIGN CHOICE (log 55): of a header that fails R92
only after the admission nothing else is checked again. -/
def launchRegBytes (s : State) (r : Nat) : Option (List Nat) :=
  (kernelImages s r).bind fun l => l.mapM fun a => match hubRead s (lrAsid r) a 64 with
    | .ok h => some (khRegBytes h)
    | .error _ => none

/-- The contexts that take a point of a launch now: none while its kernel headers cannot be read (R251, R252, log 55). -/
def placePoint (s : State) (barred : List Nat) (x : LaunchSlot) (a b c : Nat) : Option (List Nat) :=
  let r := x.record
  let target := affinityTarget s r a b c
  (launchRegBytes s r).bind fun regs =>
    if launchIsSkein s r then placeSkein s barred x.launch (lrCmask r) regs target
    else (placeOn s barred x.launch (lrCmask r) (regs.headD 0) target).map fun k => [k]

/-- A point that the levee would fire, and the contexts of its strands in member order. -/
structure Shot where
  slot : Nat
  x : Nat
  y : Nat
  z : Nat
  keys : List Nat
deriving DecidableEq, Repr

/-- The first point of a launch, by increasing h and then c, that is eligible and can be placed (R249). -/
def launchShot (s : State) (barred : List Nat) (n : Nat) (x : LaunchSlot) : Option Shot :=
  let r := x.record
  let found : Option (Nat × Nat × Shot) :=
    (List.range (columnCount r)).foldl (fun best c => (List.range (lrWin r + 1)).foldl (fun best i =>
      let h := (x.column c).height + i
      let (a, b, d) := (coordOf r c h 0, coordOf r c h 1, coordOf r c h 2)
      let earlier : Bool := match best with
        | some (h0, c0, _) => h < h0 || (h == h0 && c < c0)
        | none => true
      if earlier && eligible x a b d then
        match placePoint s barred x a b d with
        | some ks => some (h, c, ⟨n, a, b, d, ks⟩)
        | none => best
      else best) best) none
  found.map fun q => q.2.2

/-- The launches that may fire now, by slot. -/
def firingSlots (s : State) : Tab LaunchSlot :=
  if s.host.en && takesWork s then s.slots.filter fun p => p.2.state == .running && !p.2.saving else []

/-! ### Tasks (R44) -/

/-- The packet at the head of a core's inbox. -/
def inboxHead (s : State) (core : Nat) : Option Packet :=
  (s.core core).inbox.head?.bind fun id => s.packets.find? fun p => p.id == id

/-- Whether a context takes a task: its kernel's header can be read and its partition holds the kernel (R92, log 55). -/
def taskFits (s : State) (p : Packet) (key : Nat) : Bool :=
  takesWork s && !launchSaved s p.ident.launch && match hubRead s p.ident.asid p.ident.image 64 with
    | .ok h => contextTakes s key (khRegBytes h)
    | .error _ => false

/-! ### What waits for a core (R47, R450) -/

/-- The contexts whose strands work of class `p` may displace, as if FREE (R47, R48). -/
def spared (spare : Nat → Nat → Bool) (s : State) (p : Nat) : State :=
  { s with ctxs := s.ctxs.map fun c =>
      if c.1 < 1024 && c.2.strand.any fun o => spare p o.ident.prio then (c.1, { c.2 with state := .free, strand := none }) else c }

/-- The other context of the core holds a READY strand of a class that counts. -/
def readyBeside (s : State) (key : Nat) (counts : Nat → Bool) : Bool :=
  let c := s.ctx (if key % 2 == 0 then key + 1 else key - 1)
  c.state == .ready && c.strand.any fun o => (!o.dead || o.leaving.isSome) && counts o.ident.prio

/-- Whether the levee would place an eligible point of a launch on a core. -/
def leveeWants (s : State) (x : LaunchSlot) (core : Nat) : Bool :=
  let r := x.record
  (List.range (columnCount r)).any fun c => (List.range (lrWin r + 1)).any fun i =>
    let h := (x.column c).height + i
    let (a, b, d) := (coordOf r c h 0, coordOf r c h 1, coordOf r c h 2)
    eligible x a b d && (placePoint s [] x a b d).any fun ks => ks.any fun k => keyCore k == core

/-- Whether work of a class that counts would be bound to this core if this strand's context were FREE: a saved strand that can come back
to it, the head of its inbox, or a point that would be placed here (R47, R450). A skein finds its place by the contexts of the strands
that `spare` holds for, by its class and theirs, as if they were FREE as well (R48). -/
def workWaits (s : State) (key : Nat) (st : Strand) (spare : Nat → Nat → Bool) (counts : Nat → Bool) : Bool :=
  let core := keyCore key
  let s' : State := { s with ctxs := tabSet s.ctxs key { s.ctx key with state := .free, strand := none } }
  let comes (v : Saved) : Bool := v.ctx / 2 == key / 2 && counts v.strand.ident.prio && v.strand.ident.uid != st.ident.uid && mayReturn s v
    && (groupOf s v).all fun y =>
      if keyCore y.ctx == core then canResume s' y key else (resumeContext (spared spare s' v.strand.ident.prio) y).isSome
  s.saved.any comes
    || (inboxHead s core).any (fun p => counts p.ident.prio && taskFits s' p key)
    || (firingSlots s).any fun p => counts (lrPrio p.2.record)
      && leveeWants (if launchIsSkein s p.2.record then spared spare s' (lrPrio p.2.record) else s') p.2 core

/-- Whether other work of a class that counts waits for the core of a strand. -/
def coreWantedBy (s : State) (key : Nat) (st : Strand) (spare : Nat → Nat → Bool) (counts : Nat → Bool) : Bool :=
  readyBeside s key counts || workWaits s key st spare counts

/-! ### Which of the waiting work goes first (R47-R49) -/

/-- Work that waits for contexts: its class, the moment since which it has held none, and the contexts. -/
structure Claim where
  prio : Nat
  stamp : Nat
  /-- The launch whose unfired points it is. -/
  launch : Option Nat
  keys : List Nat
deriving DecidableEq, Repr

/-- The moment of a launch's last firing, or of its admission. -/
def LaunchSlot.stamp (x : LaunchSlot) : Nat := if x.lastFired == 0 then x.launch else x.lastFired

/-- What a launch that fires would take. -/
def launchClaim (s : State) (p : Nat × LaunchSlot) : List Claim :=
  (launchShot s [] p.1 p.2).toList.map fun shot => ⟨lrPrio p.2.record, p.2.stamp, some p.2.launch, shot.keys⟩

/-- What the unfired points of plain launches would take. -/
def pointClaims (s : State) : List Claim := ((firingSlots s).filter fun p => !launchIsSkein s p.2.record).flatMap (launchClaim s)

/-- What saved strands, skeins to bind and tasks hold against others. A skein holds the contexts that it will take when the strands of its
class and below have left them; so it is bound, and comes back, whole (R48). -/
def heldClaims (s : State) : List Claim :=
  let away (p : Nat) : State := spared (fun p o => o ≤ p) s p
  (s.saved.filter (mayReturn s)).map (fun x =>
      let p := x.strand.ident.prio
      ⟨p, x.stamp, none, if x.strand.ident.skein.isSome then (resumeContext (away p) x).toList
        else [2 * keyCore x.ctx, 2 * keyCore x.ctx + 1].filter (canResume s x)⟩)
    ++ ((firingSlots s).filter fun p => launchIsSkein s p.2.record).flatMap (fun p => launchClaim (away (lrPrio p.2.record)) p)
    ++ s.cores.flatMap fun c => (inboxHead s c.1).toList.map fun p =>
      ⟨p.ident.prio, p.id, none, [2 * c.1, 2 * c.1 + 1].filter (taskFits s p)⟩

/-- A claim goes before work of a class that has waited since a moment: one of a higher class, or of the same class waiting longer. -/
def Claim.before (c : Claim) (prio stamp : Nat) : Bool := prio < c.prio || (c.prio == prio && c.stamp < stamp)

/-- The contexts that claims take from such work. -/
def barredTo (l : List Claim) (prio stamp : Nat) : List Nat := (l.filter fun c => c.before prio stamp).flatMap Claim.keys

/-- Some claim on a context goes before such work. DEDUCED (log 61): what R48 promises each launch, skein, fired point and task. -/
def goesFirst (l : List Claim) (key prio stamp : Nat) : Bool := (barredTo l prio stamp).contains key

end Sys2Proof.Machine
end

