-- ==== Sys2Proof/Machine/Control.lean ====
section
/-!
DEFINITION. The C slot (R353-R361, R371, R393, R397-R399, R405-R407, R410-R413, R422, R425, R426, R429, R448, R450): branches,
calls, loops, predicate logic, retirement, waits, traps and system registers.
-/
namespace Sys2Proof.Machine

open Sys2Proof

/-! ### Branches and calls -/

/-- Control is to leave for an address, as a taken branch (R62). -/
def branchTo (a : Nat) : Op Unit := modify fun s => { s with issue := { s.issue with target := some a } }

/-- The header address of the bundle plus a signed offset, as a 57-bit address (R357, R407). -/
def pcPlus (off : BitVec 32) : Op Nat := do
  let s ← get
  pure (wrap 57 ((s.issue.pc : Int) + off.toInt))

/-- A branch-target register, read at issue. -/
def getB (b : BReg) : Op Nat := do
  let st ← getStrand
  pure (st.bs.getD b.toNat 0).toNat

def opBrLabel (off : BitVec 32) : Op Unit := do branchTo (← pcPlus off)
def opBrReg (b : BReg) : Op Unit := do branchTo (← getB b)

/-- Whether a BTREE test holds (R84). -/
def leafHolds (t : LeafTest) : Op Bool := do
  let v ← getP t.pred
  pure (v != (t.polarity == 1))

/-- The first test that holds decides the leaf; leaf 5 falls through (R360). -/
def opBtree (t0 t1 t2 t3 : LeafTest) : Op Unit := do
  let h0 ← leafHolds t0
  let h1 ← leafHolds t1
  let h2 ← leafHolds t2
  let h3 ← leafHolds t3
  let pick (leaf : Nat) (b : BReg) : Op Unit := do
    modify fun s => { s with issue := { s.issue with leaf := leaf } }
    branchTo (← getB b)
  if h0 then pick 1 t0.target
  else if h1 then pick 2 t1.target
  else if h2 then pick 3 t2.target
  else if h3 then pick 4 t3.target
  else modify fun s => { s with issue := { s.issue with leaf := 5 } }

/-- CALL to an address (R361). -/
def callTo (a : Nat) : Op Unit := do
  forbidden true true
  let st ← getStrand
  check (st.pos.rets.length != st.ident.callDepth) cCallDepth
  modify fun s => s.setStrand { s.strand with pos := { s.strand.pos with rets := s.issue.next :: s.strand.pos.rets } }
  branchTo a

def opCallLabel (off : BitVec 32) : Op Unit := do callTo (← pcPlus off)
def opCallReg (b : BReg) : Op Unit := do callTo (← getB b)

/-- RET (R412). -/
def opRet : Op Unit := do
  forbidden true true
  let st ← getStrand
  match st.pos.rets with
  | [] => fail cCallDepth
  | a :: rest => do
    modStrand fun st => { st with pos := { st.pos with rets := rest } }
    branchTo a

/-- MOVB (R407). -/
def opMovb (xf : BitVec 1) (bd : BReg) (xa : XReg) (off : BitVec 32) : Op Unit := do
  if xf == 0 then emit 1 (.b bd.toNat (BitVec.ofNat 57 (← pcPlus off)))
  else do
    let v ← getX xa
    emit 1 (.b bd.toNat (BitVec.ofNat 57 v.toNat))

/-! ### Loops -/

/-- Where a LOOP stands: its own header and the bundle after it, captured for a replay. -/
def loopPlace : Op (Nat × Nat) := do
  let pc ← operand do
    let s ← get
    pure s.issue.pc
  let next ← operand do
    let s ← get
    pure s.issue.next
  pure (pc, next)

/-- The checks that every loop makes of the loop stack (R398). -/
def loopChecks (pc : Nat) : Op Unit := do
  let st ← getStrand
  check (st.pos.loops.length < 6) cLoopStack
  check (st.pos.loops.all fun l => l.stop != pc) cLoopStack

/-- Pushes a level, whose start fetch moves to the first header from there on (`startAt`), or passes over a loop of count 0 (R85, R86). -/
def enterLoop (pc next : Nat) (endOff : BitVec 20) (count stages run : Nat) : Op Unit := do
  check (count < 2 ^ 32) cLoopStack
  let stop := pc + endOff.toNat
  if count == 0 then branchTo (← afterEnd stop)
  else do
    let level : Level := ⟨next, stop, count, 0, stages, run, 0, false⟩
    modStrand fun st => { st with pos := { st.pos with loops := st.pos.loops ++ [level] } }
    if stages != 0 then do
      emit 1 (.p .main run true)
      for i in List.range (stages - 1) do emit 1 (.p .main (run + 1 + i) false)

def opLoopImm (endOff : BitVec 20) (count : BitVec 28) : Op Unit := do
  let (pc, next) ← loopPlace
  forbidden true true
  loopChecks pc
  enterLoop pc next endOff count.toNat 0 0

def opLoopX (endOff : BitVec 20) (xa : XReg) : Op Unit := do
  let (pc, next) ← loopPlace
  forbidden true true
  let v ← getX xa
  loopChecks pc
  enterLoop pc next endOff v.toNat 0 0

/-- The counts of an element; a DIFF stream pads its last one with zero counts (R145). -/
def countsOf (sp : Spool) (v : Nat) : List Nat :=
  let w := fmtBytes (spFmt sp.desc)
  (List.range (128 / w)).map fun i => elemOf w i v

/-- Whether a spool gives counts: a configured AFFINE or DIFF load spool of n32 or n64, bound to no other (R398). -/
def countSpool (st : Strand) (n : Nat) : Bool :=
  match st.spools.getD n none with
  | none => false
  | some sp => (spKind sp.desc == 0 || spKind sp.desc == 4) && (spFmt sp.desc == 6 || spFmt sp.desc == 7) && !isBound st n

/-- Leaves a spool with these counts over. -/
def keepCounts (n : Nat) (l : List Nat) : Op Unit := modStrand fun st =>
  { st with spools := st.spools.setIfInBounds n ((st.spools.getD n none).map fun sp => { sp with counts := l }) }

/-- The next count of a spool: from the counts left over, or from a new element (R85, R398). A capture takes none: the replay pops
again. -/
def nextCount (n : Nat) : Op Nat := do
  let st ← getStrand
  let left : List Nat := (st.spools.getD n none).elim [] Spool.counts
  match left with
  | c :: rest => do
    keepCounts n rest
    pure c
  | [] => do
    let v ← popSpool n
    if ← capturing then pure 0
    else
      match (st.spools.getD n none).elim [] fun sp => countsOf sp v with
      | [] => failForm cSpoolConfig
      | c :: rest => do
        keepCounts n rest
        pure c

def opLoopSpool (endOff : BitVec 20) (s : SpoolNo) : Op Unit := do
  let (pc, next) ← loopPlace
  forbidden true true
  let st ← getStrand
  formCheck (countSpool st s.toNat) cSpoolConfig
  loopChecks pc
  let count ← nextCount s.toNat
  onceRead (enterLoop pc next endOff count 0 0)

/-- LOOPS (R88, R399). -/
def opLoops (endOff : BitVec 20) (sm1 : BitVec 3) (pk : PReg) (xf : BitVec 1) (count : BitVec 17) : Op Unit := do
  let (pc, next) ← loopPlace
  forbidden true true
  let n ← if xf == 0 then pure count.toNat else do
    let v ← getX (BitVec.ofNat 6 count.toNat)
    pure v.toNat
  loopChecks pc
  enterLoop pc next endOff n (sm1.toNat + 1) pk.toNat

/-- LEAVE (R87, R393). -/
def opLeave (n : BitVec 3) : Op Unit := do
  forbidden true true
  let st ← getStrand
  let ls := st.pos.loops
  check (n.toNat ≤ ls.length) cLoopStack
  match ls[ls.length - n.toNat]? with
  | none => fail cLoopStack
  | some l => do
    let a ← afterEnd l.stop
    modStrand fun st => { st with pos := { st.pos with loops := ls.take (ls.length - n.toNat) } }
    branchTo a

/-! ### Predicate logic (R410) -/

/-- A predicate operand with its inversion. -/
def getPN (n : BitVec 1) (p : PReg) : Op Bool := do
  let v ← getP p
  pure (v != (n == 1))

def opPand (na nb : BitVec 1) (pd pa pb : PReg) : Op Unit := do
  let a ← getPN na pa
  let b ← getPN nb pb
  putP 1 pd (a && b)
def opPor (na nb : BitVec 1) (pd pa pb : PReg) : Op Unit := do
  let a ← getPN na pa
  let b ← getPN nb pb
  putP 1 pd (a || b)
def opPxor (na nb : BitVec 1) (pd pa pb : PReg) : Op Unit := do
  let a ← getPN na pa
  let b ← getPN nb pb
  putP 1 pd (a != b)
def opPnot (pd pa : PReg) : Op Unit := do putP 1 pd (!(← getP pa))
def opPmov (na : BitVec 1) (pd pa : PReg) : Op Unit := do putP 1 pd (← getPN na pa)

/-! ### Retirement, waits and signals -/

/-- The bundle has itself fixed where the strand stands. -/
def endIssue : Op Unit := modify fun s => { s with issue := { s.issue with final := true } }

/-- DONE waits for everything that the strand issued, then retires it (R36, R228, R371). -/
def opDone : Op Unit := do
  let s ← get
  let st := s.strand
  forbidden true true
  waitWhile (unlanded s st || !st.far.isEmpty || outstanding s st none 2 || outstanding s st none 4 || outstanding s st none 5) .done
  modify fun s => retireStrand s s.focus
  endIssue

/-- What makes a YIELD give up the core (R450). -/
def coreWanted (s : State) (key : Nat) : Bool :=
  readyBeside s key (fun _ => true) || workWaits s key s.strand (fun _ _ => false) fun p => s.strand.ident.prio ≤ p

/-- YIELD: at a quiescent point with other work for the core the strand asks to be switched out; when it comes back, the bundle
issues (R450). -/
def opYield : Op Unit := do
  forbidden true false
  let s ← get
  let st := s.strand
  let quiet := s.issue.q || st.pos.backEdge || st.pos.loopQuiet
  if st.sys.uih || st.resumed || !quiet || !coreWanted s s.focus then pure ()
  else throw (.hold .yielded fun s => askLeave s s.focus (s.strand.leaving.getD 3))

/-- WAITT waits until TIME reaches the operand (R295, R448). -/
def opWaitt (xa : XReg) : Op Unit := do
  let v ← getX xa
  let s ← get
  if v.toNat ≤ s.time.now.toNat then pure ()
  else if scanTainted s then pure ()
  else throw (.hold .time fun s => s.setStrand { s.strand with waits := { s.strand.waits with wake := v } })

/-- The polder that a strand names: level, number and domain (R255). -/
def polderKey (key : Nat) (v : Word) : Nat × Nat × Nat :=
  let core := keyCore key
  let domain := match polderLevel v with
    | 0 => clusterOf core
    | 1 => dieOf core
    | _ => 0
  (polderLevel v, polderPid v, domain)

/-- The hub units' record of a polder (R256). -/
def polderAt (s : State) (k : Nat × Nat × Nat) : Polder :=
  (s.polders.find? fun p => p.level == k.1 && p.pid == k.2.1 && p.domain == k.2.2).getD ⟨k.1, k.2.1, k.2.2, 0, 0, 0⟩

/-- Puts a polder's record. -/
def setPolder (s : State) (p : Polder) : State :=
  { s with polders := p :: s.polders.filter fun q => !(q.level == p.level && q.pid == p.pid && q.domain == p.domain) }

/-- Whether the fabric group holds another package (R255, R284). -/
def othersInGroup (s : State) : Bool := (List.range 1024).any fun j => !s.isOwn j && inGroup s j

/-- Whether the `rest` arrivals that a polder still misses have come in other packages: only a polder of the fabric group has
members there, and their arrivals are free (R256, log 10). -/
def restArrived (s : State) (level pid rest : Nat) : Bool :=
  let arrived := if level == 3 && othersInGroup s then Config.foreignArrivals s.ticks pid % (rest + 1) else 0
  arrived == rest

/-- The last arrival of a phase releases every member (BARRIER_RELEASE, R256). -/
def releasePolder (s : State) (p : Polder) (members : Nat) : State :=
  setPolder s { p with count := 0, phase := (p.phase + 1) % 2 ^ 64, members := members }

/-- BAR (R256, R353, R354). -/
def opBar (o : BitVec 1) (paths : BitVec 7) : Op Unit := do
  forbidden true false
  let s ← get
  let st := s.strand
  let v := st.sys.polder
  let k := polderKey s.focus v
  let p := polderAt s k
  if !polderEn v then pure ()
  else match st.waits.arrived with
  | some phase =>
    if p.phase == phase && !restArrived s p.level p.pid (p.members - p.count) then waitLast .barrier id
    else do
      if p.phase == phase then modify fun s => releasePolder s p p.members
      modStrand fun st => { st with waits := { st.waits with arrived := none } }
  | none => do
    if o == 1 then orderWait (some 8) paths.toNat
    let m := polderMembers v
    check (1 ≤ m && m ≤ 2 ^ 20) cProtection
    check (p.count == 0 || p.members == m) cProtection
    check (!(polderLevel v == 3 && !s.inFabric)) cFabricError
    if restArrived s p.level p.pid (m - (p.count + 1)) then modify fun s => releasePolder s p m
    else
      waitLast .barrier fun s =>
        (setPolder s { p with count := p.count + 1, members := m }).setStrand { s.strand with waits := { s.strand.waits with arrived := some p.phase } }

/-- TRIG waits for the earlier work of every path within its scope, merges among it and far loads not, and signals once (R230, R425,
R426, log 18). -/
def opTrig : Op Unit := do
  let s ← get
  let st := s.strand
  trigWait (bits st.sys.trigscope.toNat 3 0)
  match st.ident.work with
  | .point slot a b c => modify fun s => signalPoint s slot a b c
  | .member slot a b c m =>
    match skeinOf s st with
    | none => pure ()
    | some k => do
      let k := { k with trigs := if k.trigs.contains m then k.trigs else k.trigs ++ [m] }
      modify fun s => s.setSkein k
      if (List.range k.members.length).all fun i => k.done.contains i || k.trigs.contains i then
        modify fun s => signalPoint s slot a b c
  | _ => pure ()

/-! ### Traps and system registers -/

/-- A Call-class trap at the next boundary (R359, R422). -/
def callTrap (cause : Nat) (code : BitVec 16) : Op Unit :=
  modStrand fun st => { st with call := some ⟨cause, w64 code.toNat, false⟩ }

def opSysc (code : BitVec 16) : Op Unit := callTrap cSyscall code
def opBrk (code : BitVec 16) : Op Unit := callTrap cBreakpoint code

/-- The place in issue order of the first bundle of the handler that runs. -/
def Strand.handlerFrom (st : Strand) : Nat :=
  match st.pos.susp with
  | [] => 0
  | top :: _ => top.seq

/-- Whether operations of a handler have not landed (R272, R413): what it issued, not what the program did. -/
def handlerBusy (st : Strand) : Bool := !st.pos.line.flights.isEmpty || st.far.any fun f => st.handlerFrom ≤ f.seq

/-- Whether operations of a handler have not landed or completed: copies, store-spool writes and engine requests among them (R429). -/
def handlerOpen (s : State) (st : Strand) : Bool :=
  let from' := st.handlerFrom
  let mine (uid seq : Nat) : Bool := uid == st.ident.uid && 8 * from' ≤ seq
  handlerBusy st || s.copies.any (fun c => mine c.uid c.seq) || s.merges.any (fun m => mine m.uid m.seq)
    || s.collectives.any (fun c => mine c.uid c.seq) || (s.probesOf st.ident.uid).any (fun q => mine q.uid q.seq && (q.kind == 0 || !updatesEnded s st))
    || st.spools.any fun o => o.any fun sp => spIsStore sp.desc && sp.buf.any fun e => 8 * from' ≤ e.seq

/-- The entries of the frame that the handler did not drop (R270, R272). -/
def keptEntries (drops : List Byte) (es : List Replay) : List Replay :=
  (es.zip (List.range es.length)).filterMap fun (e, i) =>
    if ((drops.getD (32 * i + 16) 0).toNat) % 2 == 1 then none else some e

/-- Every reserved bit of a frame of `n` entries is zero (R5, R270). -/
def frameOk (b : List Byte) (n : Nat) : Bool :=
  leNat ((b.drop 32).take 32) == 0 && (List.range n).all fun i =>
    let e := leNat ((b.drop (64 + 32 * i)).take 32)
    bits e 132 129 == 0 && bits e 127 56 == 0

/-- RFT (R272, R413). The kept entries stand in the strand for re-injection at B. -/
def opRft : Op Unit := do
  let st ← getStrand
  match st.trapFrame with
  | none => fail cPrivilege
  | some frame => do
    waitWhile (handlerBusy st) .results
    let n := 64 + 32 * st.replay.length
    let _ ← strandAccess frame n .r false
    let s ← get
    match engineRead s (agentFor s.focus st) frame n with
    | (.error r, _) => raiseNow r
    | (.ok b, s') => do
      set s'
      if !frameOk b st.replay.length then raiseNow ⟨Config.frameCause s.ticks % 256, w64 frame, false⟩
      else do
        let kept := keptEntries (b.drop 64) st.replay
        modStrand fun st => { st with stepping := false }
        modify fun s => refetchSpools (leaveTrap s s.focus (leNat ((b.drop 24).take 8)) (leNat ((b.drop 8).take 8)) kept) s.focus
        endIssue

/-- The return from a user-level handler, once its operations have landed; the bundle counts against BUDGET (R275, R276, R429). -/
def leaveHandler (st : Strand) : Strand :=
  match st.pos.susp with
  | [] => st
  | top :: rest =>
    { spendBudget st 1 with
      sys := { (spendBudget st 1).sys with uih := false }
      ran := st.ran + 1, stepping := false, call := top.call, waits := top.waits
      pos := { st.pos with pc := (st.shadowX.getD 1 0).toNat, susp := rest, line := top.line, loopQuiet := top.loopQuiet
                           backEdge := true } }

/-- URET (R275, R429). -/
def opUret : Op Unit := do
  let s ← get
  let st := s.strand
  if st.trapFrame.isSome then fail cIllegal s.issue.pc
  check st.sys.uih cIllegal
  waitWhile (st.sys.uih && handlerOpen s st) .results
  modStrand leaveHandler
  endIssue

/-- MFS (R405, R406). -/
def opMfs (xd : XReg) (srn : BitVec 12) : Op Unit := do
  let s ← get
  check (sysAccess srn.toNat s.priv != .none) cPrivilege
  putX 1 xd (readSys s srn.toNat)

/-- MTS (R405, R406). -/
def opMts (xa : XReg) (srn : BitVec 12) : Op Unit := do
  let s ← get
  check (sysAccess srn.toNat s.priv == .rw) cPrivilege
  let v ← getX xa
  emit 1 (.sys srn.toNat v)

/-! ### The meanings -/

def execBrLabel (off : BitVec 32) (s : State) : Host.Outcome State Fault Refusal := issueOne (.brLabel off) (opBrLabel off) s
def execBrReg (b : BReg) (s : State) : Host.Outcome State Fault Refusal := issueOne (.brReg b) (opBrReg b) s
def execBtree (t0 t1 t2 t3 : LeafTest) (s : State) : Host.Outcome State Fault Refusal :=
  issueOne (.btree t0 t1 t2 t3) (opBtree t0 t1 t2 t3) s
def execCallLabel (off : BitVec 32) (s : State) : Host.Outcome State Fault Refusal := issueOne (.callLabel off) (opCallLabel off) s
def execCallReg (b : BReg) (s : State) : Host.Outcome State Fault Refusal := issueOne (.callReg b) (opCallReg b) s
def execRet (s : State) : Host.Outcome State Fault Refusal := issueOne .ret opRet s
def execMovb (xf : BitVec 1) (bd : BReg) (xa : XReg) (off : BitVec 32) (s : State) : Host.Outcome State Fault Refusal :=
  issueOne (.movb xf bd xa off) (opMovb xf bd xa off) s
def execLoopImm (endOff : BitVec 20) (count : BitVec 28) (s : State) : Host.Outcome State Fault Refusal :=
  issueOne (.loopImm endOff count) (opLoopImm endOff count) s
def execLoopX (endOff : BitVec 20) (xa : XReg) (s : State) : Host.Outcome State Fault Refusal :=
  issueOne (.loopX endOff xa) (opLoopX endOff xa) s
def execLoopSpool (endOff : BitVec 20) (n : SpoolNo) (s : State) : Host.Outcome State Fault Refusal :=
  issueOne (.loopSpool endOff n) (opLoopSpool endOff n) s
def execLoops (endOff : BitVec 20) (sm1 : BitVec 3) (pk : PReg) (xf : BitVec 1) (count : BitVec 17) (s : State) :
    Host.Outcome State Fault Refusal := issueOne (.loops endOff sm1 pk xf count) (opLoops endOff sm1 pk xf count) s
def execLeave (n : BitVec 3) (s : State) : Host.Outcome State Fault Refusal := issueOne (.leave n) (opLeave n) s
def execPand (na nb : BitVec 1) (pd pa pb : PReg) (s : State) : Host.Outcome State Fault Refusal :=
  issueOne (.pand na nb pd pa pb) (opPand na nb pd pa pb) s
def execPor (na nb : BitVec 1) (pd pa pb : PReg) (s : State) : Host.Outcome State Fault Refusal :=
  issueOne (.por na nb pd pa pb) (opPor na nb pd pa pb) s
def execPxor (na nb : BitVec 1) (pd pa pb : PReg) (s : State) : Host.Outcome State Fault Refusal :=
  issueOne (.pxor na nb pd pa pb) (opPxor na nb pd pa pb) s
def execPnot (pd pa : PReg) (s : State) : Host.Outcome State Fault Refusal := issueOne (.pnot pd pa) (opPnot pd pa) s
def execPmov (na : BitVec 1) (pd pa : PReg) (s : State) : Host.Outcome State Fault Refusal :=
  issueOne (.pmov na pd pa) (opPmov na pd pa) s
def execDone (s : State) : Host.Outcome State Fault Refusal := issueOne .done opDone s
def execYield (s : State) : Host.Outcome State Fault Refusal := issueOne .yield opYield s
def execWaitt (xa : XReg) (s : State) : Host.Outcome State Fault Refusal := issueOne (.waitt xa) (opWaitt xa) s
def execBar (o : BitVec 1) (paths : BitVec 7) (s : State) : Host.Outcome State Fault Refusal := issueOne (.bar o paths) (opBar o paths) s
def execTrig (s : State) : Host.Outcome State Fault Refusal := issueOne .trig opTrig s
def execSysc (code : BitVec 16) (s : State) : Host.Outcome State Fault Refusal := issueOne (.sysc code) (opSysc code) s
def execBrk (code : BitVec 16) (s : State) : Host.Outcome State Fault Refusal := issueOne (.brk code) (opBrk code) s
def execRft (s : State) : Host.Outcome State Fault Refusal := issueOne .rft opRft s
def execUret (s : State) : Host.Outcome State Fault Refusal := issueOne .uret opUret s
def execMfs (xd : XReg) (srn : BitVec 12) (s : State) : Host.Outcome State Fault Refusal := issueOne (.mfs xd srn) (opMfs xd srn) s
def execMts (xa : XReg) (srn : BitVec 12) (s : State) : Host.Outcome State Fault Refusal := issueOne (.mts xa srn) (opMts xa srn) s

end Sys2Proof.Machine
end

