-- ==== Sys2Proof/Machine/Tasks.lean ====
section
/-!
DEFINITION. Futures and tasks (R44-R46, R231, R257-R260, R376, R377, R419, R420): FRD, FWR, FCLR, SPAWN, the squash of a task,
and the arrival and binding of task packets.
-/
namespace Sys2Proof.Machine

open Sys2Proof

/-! ### Futures -/

/-- The scope PACKAGE (R220). -/
def scopePackage : Nat := 5

/-- The cell of a future: its physical address and its 16 bytes, read in the one atomic access (R259, R376). -/
def futureCell (va : Nat) : Op (Nat × Nat) := do
  acquireWait
  check (va % 16 == 0) cAtomicAlign va
  let a ← strandAccess va 16 .rw false
  let outside : Bool := match a.space with
    | .host | .fabric _ => true
    | _ => false
  check (!outside) cProtection va
  let s ← get
  let pa := (a.pieces.headD (0, 0)).1
  waitValue (s.strand.far.any fun f => f.pieces.any fun p => p.1 < pa + 16 && pa < p.1 + p.2) .future
  let s ← get
  match a.poison s with
  | some w => failAnswer ⟨cPoison, w64 (a.vaOf (s.eccUnit w) w), false⟩
  | none => do
    let c := leNat (s.readPieces a.pieces)
    if bits c 95 65 != 0 then failAnswer ⟨cProtection, w64 va, false⟩ else pure (pa, c)

/-- A cell of these fields. -/
def futureBytes (waiters full value : Nat) : List Byte :=
  leBytes 16 (packFields [(32, waiters % 2 ^ 32), (31, 0), (1, full), (64, value)])

/-- WAITERS of a cell moves by one. -/
def waitersBy (s : State) (pa : Nat) (up : Bool) : State :=
  let w := s.readNat (pa + 12) 4
  s.writePhys (pa + 12) (leBytes 4 ((if up then w + 1 else w + 2 ^ 32 - 1) % 2 ^ 32))

/-- Packets parked at hub N (R260). -/
def parkedCount (s : State) : Nat := (s.packets.filter fun p => p.parkedOn.isSome).length

/-- The task of a context is squashed: its packet is parked on the future and its context freed (R46). -/
def squash (s : State) (key pa : Nat) : State :=
  match s.strandAt key with
  | none => s
  | some st =>
    let park (p : Packet) : Packet := if p.ident.uid == st.ident.uid then { p with parkedOn := some pa, ident := { p.ident with uid := 0 } } else p
    freeContext { waitersBy s pa true with packets := s.packets.map park } key

/-- The strand of a context begins to wait on an empty future (R46, R377); a wait of the same boundary on another future is at an end. -/
def awaitFuture (s : State) (key va pa : Nat) : State :=
  match s.strandAt key with
  | none => s
  | some st =>
    let s1 := waitersBy s pa true
    let others := s1.waiters.filter fun w => !(w.uid == st.ident.uid && w.depth == st.pos.susp.length)
    ({ s1 with waiters := others ++ [⟨key, st.ident.uid, pa, st.pos.susp.length⟩] } : State).setStrandAt key
      { st with waits := { st.waits with kind := 2, arg := va, value := 0 } }

/-- A task strand (R44). -/
def Strand.isTask (st : Strand) : Bool :=
  match st.ident.work with
  | .task _ => true
  | .point .. | .member .. | .firmware | .none => false

def opFrd (t : Tag) (xd xa : XReg) : Op Unit := guarded t do
  let x ← getX xa
  let s ← get
  touchDest (hitsX s xd)
  let w := s.strand.waits
  if w.kind == 3 && w.arg == x.toNat then do
    modStrand fun st => { st with waits := { st.waits with kind := 0, arg := 0, value := 0 } }
    putX 1 xd w.value
  else if w.kind == 2 && w.arg == x.toNat then waitLast .future id
  else do
    let (pa, c) ← futureCell x.toNat
    if bit c 64 then putX 1 xd (w64 c)
    else do
      let s ← get
      if s.strand.isTask && s.issue.hadEffect then failAnswer (bare s cFutureLate)
      else if s.strand.isTask && parkedCount s < 65536 then waitLast .squashed fun s => squash s s.focus pa
      else waitLast .future fun s => awaitFuture s s.focus x.toNat pa

def opFwr (t : Tag) (xa xb : XReg) : Op Unit := guarded t do
  let x ← getX xa
  let v ← getX xb
  releaseWait scopePackage
  let (pa, c) ← futureCell x.toNat
  let s ← get
  if bit c 64 then failAnswer (bare s cFutureRewrite)
  markEffect
  modify fun s => releaseWaiters (s.writePhys pa (futureBytes 0 1 v.toNat)) pa v

def opFclr (t : Tag) (xa : XReg) : Op Unit := guarded t do
  let x ← getX xa
  let (pa, c) ← futureCell x.toNat
  markEffect
  if bit c 64 then modify fun s => s.writePhys pa (futureBytes (bits c 127 96) 0 (bits c 63 0))

def execFrd (t : Tag) (xd xa : XReg) (s : State) : Host.Outcome State Fault Refusal := issueOne (.frd t xd xa) (opFrd t xd xa) s
def execFwr (t : Tag) (xa xb : XReg) (s : State) : Host.Outcome State Fault Refusal := issueOne (.fwr t xa xb) (opFwr t xa xb) s
def execFclr (t : Tag) (xa : XReg) (s : State) : Host.Outcome State Fault Refusal := issueOne (.fclr t xa) (opFclr t xa) s

/-! ### SPAWN (R419, R420) -/

/-- Packets of a core that are in its inbox or on their way to it. -/
def inboxLoad (s : State) (core : Nat) : Nat :=
  (s.packets.filter fun p => p.core == core && p.parkedOn.isNone && p.ident.uid == 0).length

/-- LAUNCH and the root launch's ARG for a child of this strand (R257, R258). -/
def childLaunch (s : State) (st : Strand) : Word × Word :=
  let root (slot m : Nat) (skein : Bool) : Word × Word :=
    let r := (s.slot slot).record
    (launchWord r slot m skein true, w64 (lrArg r))
  match st.ident.work with
  | .point slot _ _ _ => root slot 0 false
  | .member slot _ _ _ m => root slot m true
  | .task _ =>
    match s.packets.find? fun p => p.ident.uid == st.ident.uid with
    | some p => (p.launchWord, p.arg)
    | none => (0, 0)
  | .firmware | .none => (w64 (2 ^ 36), 0)

/-- The region that a strand's child joins, opened at a root's first SPAWN (R45). -/
def childRegion (s : State) (st : Strand) : Nat × State :=
  match st.ident.region with
  | some r => (r, s)
  | none =>
    let opened (slot a b c : Nat) : Nat × State :=
      (s.fresh, { s with fresh := s.fresh + 1, regions := s.regions ++ [⟨s.fresh, slot, (s.slot slot).launch, a, b, c, 0⟩] })
    match st.ident.work with
    | .point slot a b c | .member slot a b c _ => opened slot a b c
    | .task r => (r, s)
    | .firmware | .none => (0, s)

def opSpawn (t : Tag) (xe xa xb xc : XReg) : Op Unit := guarded t do
  forbidden true false
  acquireWait
  let entry ← getX xe
  let x ← getX xa
  let arg0 ← getX xb
  let arg1 ← getX xc
  let st ← getStrand
  let w := if !st.isTask && st.ident.weight == 0 then 2 ^ 63 else st.ident.weight
  orderWait none pipelinePaths
  check (w != 1) cSpawnWeight
  check (x.toNat < 2 ^ 57) cPage x.toNat
  match ← strandMap x.toNat with
  | none => fail cPage x.toNat
  | some m => do
    let s ← get
    check (s.priv || bit m.perms 3) cProtection x.toNat
    match ownerCore s (m.phys x.toNat) with
    | none => fail cProtection x.toNat
    | some core => do
      waitValue (256 ≤ inboxLoad s core) .inbox
      markEffect
      let id ← freshId
      modify fun s =>
        let st := s.strand
        let (region, s1) := childRegion s st
        let (word, arg) := childLaunch s st
        let child : Ident := { st.ident with uid := 0, work := .task region, skein := none, region := some region, weight := w / 2 }
        let p : Packet :=
          { id := id, addr := bits x.toNat 56 0, arg0 := arg0, arg1 := arg1, entry := bits entry.toNat 31 0, weight := w / 2
            region := region, core := core, parkedOn := none, arrived := false, ident := child, launchWord := word, arg := arg }
        ({ s1 with packets := s1.packets ++ [p] } : State).setStrand
          { st with ident := { st.ident with weight := w - w / 2, region := some region } }
      emit 1 (.sys 0x032 (w64 (w - w / 2)))

def execSpawn (t : Tag) (xe xa xb xc : XReg) (s : State) : Host.Outcome State Fault Refusal :=
  issueOne (.spawn t xe xa xb xc) (opSpawn t xe xa xb xc) s

/-! ### Packets (R44, R257) -/

/-- TASK_PACKET_ARRIVAL: a packet enters its core's inbox, which holds 256. DEDUCED (log 65): the inbox priority that a squashed task keeps is
its launch's, and it enters behind the packets that stand there (R260). -/
def packetArrival (s : State) (id : Nat) : State :=
  match s.packets.find? fun p => p.id == id with
  | none => s
  | some p =>
    let c := s.core p.core
    if p.arrived || p.parkedOn.isSome || p.ident.uid != 0 || 256 ≤ c.inbox.length then s
    else
      ({ s with packets := s.packets.map fun q => if q.id == id then { q with arrived := true } else q } : State).setCore p.core
        { c with inbox := c.inbox ++ [id] }

/-- TASK_BIND: the oldest packet of an inbox is bound to a FREE context of its core that holds its kernel and that no waiting work goes
before it on; DESIGN CHOICE (log 55): the kernel's REGBYTES are read again, what else its header says stands as it was read at the
firing (R44, R48, R92). -/
def taskBind (s : State) (core ctx : Nat) : State :=
  let key := keyOf core ctx
  let c := s.core core
  match c.inbox with
  | [] => s
  | id :: rest =>
    match s.packets.find? fun p => p.id == id with
    | none => s.setCore core { c with inbox := rest }
    | some p =>
      if !taskFits s p key || goesFirst (heldClaims s ++ pointClaims s) key p.ident.prio p.id then s
      else
        let ident : Ident := { p.ident with uid := s.fresh, weight := p.weight }
        let b : Start :=
          { ident := ident, entry := p.entry, x1 := w64 p.addr, x2 := p.arg0, x3 := p.arg1, x4 := 0, x5 := p.arg
            launch := p.launchWord, weight := p.weight }
        let s1 : State := { s with fresh := s.fresh + 1, packets := s.packets.map fun q => if q.id == id then { q with ident := ident } else q }
        bindStrand (s1.setCore core { c with inbox := rest }) key b

def execTaskPacketArrival (id : Nat) (s : State) : Host.Outcome State Fault Refusal := .next (packetArrival s id)
def execTaskBind (core ctx : Nat) (s : State) : Host.Outcome State Fault Refusal := .next (taskBind s core ctx)

end Sys2Proof.Machine
end

