-- ==== Sys2Proof/Machine/Launch.lean ====
section
/-!
DEFINITION. Work queues and launches (R236-R254, R395, R396): LNCH, doorbells, admission, the firing of points, the binding of
skeins and the completion of points.
-/
namespace Sys2Proof.Machine

open Sys2Proof

/-! ### Queue descriptors (R236) -/

/-- The address of queue descriptor q. -/
def queueAddr (s : State) (q : Nat) : Nat := bits s.host.qtab.toNat 56 12 * 4096 + 32 * q

/-- The descriptor of queue q. -/
def queueDesc (s : State) (q : Nat) : Nat := s.readNat (queueAddr s q) 32

def qdEn (d : Nat) : Bool := bit d 0
def qdDev (d : Nat) : Bool := bit d 1
def qdLog2n (d : Nat) : Nat := bits d 8 4
def qdWeight (d : Nat) : Nat := bits d 16 9
def qdPriomax (d : Nat) : Nat := bits d 19 17
def qdAsid (d : Nat) : Nat := bits d 31 20
def qdBase (d : Nat) : Nat := bits d 120 64
def qdHead (d : Nat) : Nat := bits d 191 160

/-- A descriptor that may be served. -/
def queueDescOk (d : Nat) : Bool :=
  bits d 255 200 == 0 && bits d 159 121 == 0 && bits d 63 32 == 0 && bits d 3 2 == 0 && qdWeight d != 0 && 1 ≤ qdLog2n d && qdLog2n d ≤ 16

/-- The device disables a queue: ERR takes the cause, EN becomes 0 (R236, R237, R243). -/
def disableQueue (s : State) (q cause : Nat) : State :=
  let d := queueDesc s q
  (s.writePhys (queueAddr s q) (leBytes 1 (d % 256 - d % 2))).writePhys (queueAddr s q + 24) (leBytes 1 cause)

/-- A queue's tail and shares. -/
def State.queue (s : State) (q : Nat) : Queue := (tabGet s.queues q).getD ⟨0, [], Vector.replicate 8 0⟩

/-- Records pending, counted modulo 2^32 (R237). -/
def pendingOf (d tail : Nat) : Nat := (tail + 2 ^ 32 - qdHead d) % 2 ^ 32

/-- TAIL moves: the write is remembered with the order of its arrival (R239). -/
def moveTail (s : State) (q tail : Nat) : State :=
  let x := s.queue q
  { s with fresh := s.fresh + 1, queues := tabSet s.queues q { x with tail := tail, writes := x.writes ++ [(tail, s.fresh)] } }

/-- The address of record `i` of a queue. -/
def recordAddr (d i : Nat) : Nat := qdBase d + 128 * (i % 2 ^ qdLog2n d)

/-- HEAD advances by one, and the record counts in its level's round (R239). -/
def advanceHead (s : State) (q prio : Nat) : State :=
  let d := queueDesc s q
  let head := (qdHead d + 1) % 2 ^ 32
  let x := s.queue q
  let s1 := s.writePhys (queueAddr s q + 20) (leBytes 4 head)
  { s1 with queues := tabSet s1.queues q { x with
    served := x.served.setIfInBounds prio (x.served.getD prio 0 + 1), writes := x.writes.filter fun w => (w.1 + 2 ^ 32 - head) % 2 ^ 32 - 1 < 2 ^ 16 && w.1 != head } }

/-! ### LNCH (R238, R395, R396) -/

def opLnch (t : Tag) (xa : XReg) (va : VReg) (_ : Port) : Op Unit := guarded t do
  forbidden true false
  acquireWait
  let x ← getX xa
  let r ← getV va
  orderWait none pipelinePaths
  let q := x.toNat
  if 16384 ≤ q then fail cProtection
  let s ← get
  let d := queueDesc s q
  check (qdDev d && qdEn d && queueDescOk d) cProtection
  let tail := (s.queue q).tail
  waitValue (2 ^ qdLog2n d ≤ pendingOf d tail) .workQueue
  let a := recordAddr d tail
  let g : Agent := { agentFor s.focus s.strand with asid := qdAsid d }
  let denied : Option Nat := match (engineAccess s g a 128 .w).1 with
    | .error f => some f.cause
    | .ok _ => none
  match denied with
  | some cause => fail cause a
  | none => onceRead do
    match engineWrite s g a (leBytes 128 (r % 2 ^ 1024)) with
    | (some f, _) => raiseNow { f with info := w64 a }
    | (none, s1) => do
      set (moveTail s1 q ((tail + 1) % 2 ^ 32))
      markEffect

def execLnch (t : Tag) (xa : XReg) (va : VReg) (pa : Port) (s : State) : Host.Outcome State Fault Refusal :=
  issueOne (.lnch t xa va pa) (opLnch t xa va pa) s

/-! ### Doorbells (R237) -/

/-- DOORBELL: the host writes the tail of a queue. -/
def doorbell (s : State) (q : Nat) (v : Word) : State :=
  if 16384 ≤ q then s
  else
    let d := queueDesc s q
    let new := v.toNat % 2 ^ 32
    let old := (s.queue q).tail
    if new == old then s
    else if 2 ^ qdLog2n d < pendingOf d new || pendingOf d new < pendingOf d old then disableQueue s q cLaunchInvalid
    else moveTail s q new

def execDoorbell (q : Nat) (tail : Word) (s : State) : Host.Outcome State Fault Refusal := .next (doorbell s q tail)

/-! ### Admission (R239-R244) -/

/-- The checks of R242 that need neither queue nor memory. -/
def recordFields (r : Nat) : Bool :=
  lrReserved r && 1 ≤ lrNdim r && lrSweep r < lrNdim r && lrCscope r ≤ 11
    && ((List.range 3).all fun k => if k < lrNdim r then lrExtField r k ≤ 2 ^ 24 else lrExtField r k == 0)
    && ((List.range 4).all fun i => (List.range 3).all fun k => (i < lrNvec r && k < lrNdim r) || lrVec r i k == 0)
    && lrCmask r != 0 && lrComp r % 16 == 0 && columnCount r ≤ 65536 && lrNvec r ≤ 4
    && (List.range (lrNvec r)).all (vectorOk r)

/-- The entry of an address space is valid (R132). -/
def spaceValid (s : State) (asid : Nat) : Bool := bit (s.readNat (bits s.host.astab.toNat 56 12 * 4096 + 8 * asid) 8) 0

/-- The checks of R242 but for the two that refer to a queue. -/
def recordOk (s : State) (r : Nat) : Bool := recordFields r && spaceValid s (lrAsid r) && (kernelsOf s r).isSome

/-- Slots that are not FREE. -/
def slotsTaken (s : State) : Nat := (s.slots.filter fun p => p.2.state != .free).length

/-- The lowest FREE slot. -/
def freeSlot (s : State) : Option Nat := (List.range 64).find? fun n => (s.slot n).state == .free

/-- The launches that a predecessor tag binds at admission (R244). -/
def bindTag (s : State) (tag : Nat) : List Nat :=
  if tag == 0 then [] else (s.slots.filter fun p => p.2.state != .free && lrTag p.2.record == tag).map fun p => p.2.launch

/-- A record is admitted into a slot (R240, R244). -/
def admitRecord (s : State) (n r : Nat) : State :=
  settle ({ s with fresh := s.fresh + 1 }.setSlot n
    { LaunchSlot.init with
      state := .waiting, record := r, launch := s.fresh, pred0 := bindTag s (lrPred r 0), pred1 := bindTag s (lrPred r 1) })

/-- The head record of a queue as the device reads it. -/
def headRecord (s : State) (d : Nat) : Except Raise Nat := hubRead s (qdAsid d) (recordAddr d (qdHead d)) 128

/-- Whether a record of this priority finds a slot (R240). -/
def slotFor (s : State) (prio : Nat) : Bool := slotsTaken s < 57 + prio && (freeSlot s).isSome

/-- The order of arrival of the tail write that covers a queue's head record. -/
def headOrder (s : State) (q d : Nat) : Nat :=
  ((s.queue q).writes.find? fun w => pendingOf d w.1 != 0 && pendingOf d w.1 ≤ 2 ^ 16).elim 0 Prod.snd

/-- A queue that waits to be served: number, priority, arrival, and whether its share of the round is spent. -/
structure Waiting where
  queue : Nat
  prio : Nat
  order : Nat
  spent : Bool
deriving DecidableEq, Repr

/-- The queues with a pending head record that can be taken now. -/
def waitingQueues (s : State) : List Waiting :=
  s.queues.filterMap fun (q, x) =>
    let d := queueDesc s q
    if !qdEn d || !queueDescOk d || pendingOf d x.tail == 0 then none
    else
      match headRecord s d with
      | .error _ => none
      | .ok r =>
        let good := recordOk s r && lrAsid r == qdAsid d && lrPrio r ≤ qdPriomax d
        if good && pointTotal r != 0 && !slotFor s (lrPrio r) then none
        else some ⟨q, lrPrio r, headOrder s q d, qdWeight d ≤ x.served.getD (lrPrio r) 0⟩

/-- The queue that R239 serves next. -/
def nextQueue (s : State) : Option Waiting :=
  (waitingQueues s).foldl (fun best w => match best with
    | none => some w
    | some b =>
      if b.prio < w.prio || (b.prio == w.prio && ((b.spent && !w.spent) || (b.spent == w.spent && w.order < b.order))) then some w
      else some b) none

/-- A new round begins at a priority level (R239). -/
def newRound (s : State) (prio : Nat) : State :=
  { s with queues := s.queues.map fun (q, x) => (q, { x with served := x.served.setIfInBounds prio 0 }) }

/-- LAUNCH_ADMISSION: the device serves a queue: a bad descriptor or an unreadable record disables it, a bad record is rejected
into its completion record, an empty launch completes, another takes a slot (R236, R239-R244). -/
def admission (s : State) (q : Nat) : State :=
  let d := queueDesc s q
  let tail := (s.queue q).tail
  if !s.host.en || !takesWork s || !qdEn d then s
  else if !queueDescOk d then disableQueue s q cLaunchInvalid
  else if pendingOf d tail == 0 then s
  else
    match headRecord s d with
    | .error r => disableQueue s q r.cause
    | .ok r =>
      match nextQueue s with
      | none => s
      | some w =>
        if w.queue != q then s
        else
          let s := if w.spent then newRound s w.prio else s
          if !(recordOk s r && lrAsid r == qdAsid d && lrPrio r ≤ qdPriomax d) then
            match writeCompletion s (qdAsid d) r cLaunchInvalid with
            | (some e, s1) => disableQueue s1 q e.cause
            | (none, s1) => advanceHead s1 q w.prio
          else if pointTotal r == 0 then
            match writeCompletion s (lrAsid r) r 0 with
            | (some e, s1) => advanceHead (postEvent s1 0 6 e.cause 0 0 (w64 (lrComp r)) false) q w.prio
            | (none, s1) => advanceHead s1 q w.prio
          else
            match freeSlot s with
            | none => s
            | some n => advanceHead (admitRecord s n r) q w.prio

def execLaunchAdmission (q : Nat) (s : State) : Host.Outcome State Fault Refusal := .next (admission s q)

/-! ### Firing (R246, R249-R252) -/

/-- The shot of R249: launches by priority, then by order of admission, to contexts that no waiting work goes before it on (R48). -/
def nextShot (s : State) : Option Shot :=
  let claims := heldClaims s
  let running := s.slots.filter fun p => p.2.state == .running && !p.2.saving
  let best := running.foldl (fun (best : Option (Nat × Nat × Shot)) p =>
    match launchShot s (barredTo claims (lrPrio p.2.record) p.2.stamp) p.1 p.2 with
    | none => best
    | some shot =>
      let prio := lrPrio p.2.record
      match best with
      | some (p0, l0, _) => if p0 < prio || (p0 == prio && p.2.launch < l0) then some (prio, p.2.launch, shot) else best
      | none => some (prio, p.2.launch, shot)) none
  if s.host.en && takesWork s then best.map fun q => q.2.2 else none

/-- What a point's strand begins with, as member `m` of a skein or by itself (R35, R252, R258). -/
def pointStart (s : State) (shot : Shot) (x : LaunchSlot) (uid m : Nat) (skein : Option Nat) (image : Nat) : Start :=
  let r := x.record
  let work : Work := match skein with
    | some _ => .member shot.slot shot.x shot.y shot.z m
    | none => .point shot.slot shot.x shot.y shot.z
  let ident := kernelIdent s (lrAsid r) image
    { Ident.init with uid := uid, work := work, launch := some x.launch, prio := lrPrio r, cscope := lrCscope r, skein := skein }
  { ident := ident, entry := kernelEntry s (lrAsid r) image, x1 := w64 shot.x, x2 := w64 shot.y, x3 := w64 shot.z
    x4 := w64 (boundaryMask r shot.x shot.y shot.z), x5 := w64 (lrArg r), launch := launchWord r shot.slot m skein.isSome false
    weight := 0 }

/-- The slot after a point has fired (R246). -/
def fired (x : LaunchSlot) (order a b c : Nat) : LaunchSlot :=
  let r := x.record
  let col := columnOf r a b c
  let w := x.column col
  { x.setColumn col { w with fired := w.fired ||| 2 ^ (coord a b c (lrSweep r) - w.height) } with
    flying := x.flying ++ [⟨a, b, c, order, false, false, false, false⟩], firedTotal := x.firedTotal + 1, lastFired := order }

/-- Binds the members of a fired point in order. -/
def bindMembers (shot : Shot) (x : LaunchSlot) (skein : Option Nat) : Nat → List (Nat × Nat) → State → State
  | _, [], s => s
  | m, (key, image) :: rest, s =>
    let s1 := bindStrand { s with fresh := s.fresh + 1 } key (pointStart s shot x s.fresh m skein image)
    bindMembers shot x skein (m + 1) rest s1

/-- POINT_FIRE: the levee's next point, a plain one, is bound to its context (R246, R251). -/
def pointFire (s : State) (slot a b c key : Nat) : State :=
  match nextShot s with
  | none => s
  | some shot =>
    let x := s.slot slot
    if shot != ⟨slot, a, b, c, [key]⟩ || launchIsSkein s x.record then s
    else
      let s1 := bindMembers shot x none 0 ([key].zip ((kernelImages s x.record).getD [])) s
      s1.setSlot slot (fired x s1.fresh a b c)

/-- The pipes of a skein image, empty. -/
def skeinPipes (s : State) (r : Nat) : List (Nat × List Word) :=
  match hubRead s (lrAsid r) (lrKernel r) 64 with
  | .ok h => (((List.range 16).map (skPipe h)).filter fun e => bit e 11).map fun e => (e, [])
  | .error _ => []

/-- SKEIN_BIND: every member of a skein is bound at one moment (R38, R252). -/
def skeinBind (s : State) (slot a b c : Nat) : State :=
  match nextShot s with
  | none => s
  | some shot =>
    let x := s.slot slot
    if shot.slot != slot || (shot.x, shot.y, shot.z) != (a, b, c) || !launchIsSkein s x.record then s
    else
      let id := s.fresh
      let k : Skein := ⟨id, slot, x.launch, a, b, c, shot.keys, [], [], skeinPipes s x.record⟩
      let s0 : State := { s with fresh := s.fresh + 1, skeins := s.skeins ++ [k] }
      let s1 := bindMembers shot x (some id) 0 (shot.keys.zip ((kernelImages s x.record).getD [])) s0
      s1.setSlot slot (fired x s1.fresh a b c)

/-- POINT_COMPLETION: a point whose strands have retired and whose regions are complete (R36, R247). -/
def pointCompletion (s : State) (slot a b c : Nat) : State :=
  let x := s.slot slot
  match x.flyingAt a b c with
  | none => s
  | some p => if !p.retired || p.returning || regionOpen s slot x.launch a b c then s else completePoint s slot a b c

def execPointFire (slot x y z core ctx : Nat) (s : State) : Host.Outcome State Fault Refusal :=
  .next (pointFire s slot x y z (keyOf core ctx))
def execSkeinBind (slot x y z : Nat) (s : State) : Host.Outcome State Fault Refusal := .next (skeinBind s slot x y z)
def execPointCompletion (slot x y z : Nat) (s : State) : Host.Outcome State Fault Refusal := .next (pointCompletion s slot x y z)

end Sys2Proof.Machine
end

