-- ==== Sys2Proof/Machine/Leave.lean ====
section
/-!
DEFINITION. What a strand that leaves its context leaves behind (R261, R271, R277, R280): its waits, its copies, its block of the
save pool, the trap bank.
-/
namespace Sys2Proof.Machine

open Sys2Proof

/-- Takes a strand's waits on futures back: WAITERS falls. -/
def dropWaiters (s : State) (uid : Nat) : State :=
  let mine := s.waiters.filter fun w => w.uid == uid
  mine.foldl (fun s w => waitersBy s w.cell false) { s with waiters := s.waiters.filter fun w => w.uid != uid }

/-- Stops what engines still do for a strand that is returned: its copies and its reports to come. -/
def stopCopies (s : State) (uid : Nat) : State := { s with copies := s.copies.filter fun c => c.uid != uid }

/-- A block goes back to the save pool of a die (R280); a full ring drops it (R283). -/
def returnBlock (s : State) (die block : Nat) : State :=
  let p := s.host.pools.getD die ⟨0, [], 0, 0⟩
  if 2 ^ bits p.word0.toNat 4 0 ≤ p.blocks.length then s
  else
    { s with
      mem := memPut s.mem (bits p.word0.toNat 56 12 * 4096 + 8 * (p.tail % 2 ^ bits p.word0.toNat 4 0)) (leBytes 8 block)
      host := { s.host with pools := s.host.pools.setIfInBounds die { p with blocks := p.blocks ++ [block], tail := (p.tail + 1) % 65536 } } }

/-- The next block of a die's save pool (R277, R283). -/
def takeBlock (s : State) (die : Nat) : Option (Nat × State) :=
  let p := s.host.pools.getD die ⟨0, [], 0, 0⟩
  match p.blocks with
  | [] => none
  | b :: rest =>
    some (b, { s with host := { s.host with pools := s.host.pools.setIfInBounds die { p with blocks := rest, head := (p.head + 1) % 65536 } } })

/-- Words of the trap bank after a switch: unspecified (R271, log 9). -/
def trapBankAfter (n : Nat) : Vector Word 8 := Vector.ofFn fun (i : Fin 8) => w64 (Config.trapBank (9 * n + i.val))

/-- A context loses its strand after a switch. -/
def leaveContext (s : State) (key : Nat) : State :=
  let n := s.fresh
  ({ s with fresh := n + 1 } : State).setCtx key
    { s.ctx key with state := .free, strand := none, trapX := trapBankAfter n, trapP := BitVec.ofNat 8 (Config.trapBank (9 * n + 8)) }

end Sys2Proof.Machine
end

