-- ==== Sys2Proof/Machine/Frontier.lean ====
section
/-!
DEFINITION. Frontier save and restore (R49, R261-R263, R400-R402): LVS, LVR and the save image.
-/
namespace Sys2Proof.Machine

open Sys2Proof

/-! ### The save image (R245, R263) -/

/-- A column word (R245), with FIRED only in an evacuation image (R301). -/
def columnWord (keepFired : Bool) (c : Column) : Nat :=
  packFields [(23, 0), (1, bit01 c.full), (8, if keepFired then c.fired else 0), (8, c.comp), (24, c.height)]

/-- An in-flight entry (R263). -/
def inFlightEntry (p : InFlight) : Nat := packFields [(31, 0), (1, bit01 p.tasks), (32, p.z), (32, p.y), (32, p.x)]

/-- In-flight points in the order in which they fired. -/
def firingOrder (l : List InFlight) : List InFlight :=
  let rec insert (p : InFlight) : List InFlight → List InFlight
    | [] => [p]
    | q :: l => if p.order < q.order then p :: q :: l else q :: insert p l
  l.foldl (fun acc p => insert p acc) []

/-- The frontier that the image of a slot holds. -/
def frontierOf (keepFired : Bool) (x : LaunchSlot) : Frontier :=
  { record := x.record, status := 0, predw := x.predw
    cols := (List.range (columnCount x.record)).map fun c => columnWord keepFired (x.column c)
    entries := (firingOrder x.flying).map inFlightEntry }

/-- The header of a save image (R263). -/
def frontierHeader (x : LaunchSlot) : Nat :=
  packFields [(352, 0), (32, x.flying.length), (32, columnCount x.record), (8, 0), (7, 0), (1, bit01 x.predw), (32, 0), (16, 1),
    (32, 0x56535A4E)]

/-- Zero bytes up to a multiple of 64. -/
def padTo64 (l : List Byte) : List Byte := l ++ List.replicate (roundUp l.length 64 - l.length) 0

/-- The bytes of a save image; its in-flight entries are padded to a multiple of 64 (R263). -/
def frontierImage (keepFired : Bool) (x : LaunchSlot) : List Byte :=
  let f := frontierOf keepFired x
  leBytes 64 (frontierHeader x) ++ leBytes 128 x.record ++ f.cols.flatMap (leBytes 8) ++ padTo64 (f.entries.flatMap (leBytes 16))

/-- The bytes of a save image of so many columns and in-flight entries (R263). -/
def frontierBytes (ncol ninf : Nat) : Nat := 192 + 8 * ncol + roundUp (16 * ninf) 64

/-! ### Returning points unexecuted (R49, R261) -/

/-- The point in flight that a strand of a slot works for. -/
def workPoint (s : State) (slot : Nat) (st : Strand) : Option (Nat × Nat × Nat) :=
  match st.ident.work with
  | .point n a b c | .member n a b c _ => if n == slot then some (a, b, c) else none
  | .task r => (s.regions.find? fun q => q.id == r && q.slot == slot).map fun q => (q.x, q.y, q.z)
  | .firmware | .none => none

/-- Whether a strand belongs to a point of a slot that is returned unexecuted. -/
def isReturned (s : State) (slot : Nat) (st : Strand) : Bool :=
  let x := s.slot slot
  st.ident.launch == some x.launch && (workPoint s slot st).any fun (a, b, c) => (x.flyingAt a b c).any fun p => p.returning

/-- The region of a returned point of a slot. -/
def returnedRegion (s : State) (slot r : Nat) : Bool :=
  let x := s.slot slot
  s.regions.any fun q => q.id == r && q.slot == slot && q.launch == x.launch && (x.flyingAt q.x q.y q.z).any fun p => p.returning

/-- The strand of a context is returned: stopped at once where it does not issue, else asked to leave at its next quiescent point. -/
def returnStrand (s : State) (slot key : Nat) : State :=
  match s.strandAt key with
  | none => s
  | some st =>
    -- a save in hand gives its block back
    let unblocked (s : State) (st : Strand) : State :=
      let s1 := if st.draining && st.leaving != some 5 then returnBlock s (dieOf (keyCore key)) st.block else s
      s1.setStrandAt key { st with leaving := some 5 }
    if !isReturned s slot st then s
    else
      match (s.ctx key).state with
      | .issuing =>
        if st.dead then leaveContext (dropWaiters (stopCopies s st.ident.uid) st.ident.uid) key
        else unblocked s st
      | .saving => unblocked s st
      | .free | .loading | .ready => leaveContext (dropWaiters (stopCopies s st.ident.uid) st.ident.uid) key

/-- A saved strand of a returned point is discarded, and its block goes back. -/
def returnSaved (slot : Nat) (s : State) (x : Saved) : State :=
  if !isReturned s slot x.strand then s
  else
    let s1 := returnBlock s (dieOf (keyCore x.ctx)) x.block
    dropWaiters { s1 with saved := s1.saved.filter fun y => y.block != x.block } x.strand.ident.uid

/-- The tasks of returned regions that wait in an inbox or are parked are discarded (R261). -/
def discardPackets (s : State) (slot : Nat) : State :=
  let gone := s.packets.filter fun p => returnedRegion s slot p.region && p.ident.uid == 0
  let s1 := gone.foldl (fun s p => match p.parkedOn with
    | some cell => waitersBy s cell false
    | none => s) s
  let dropped (id : Nat) : Bool := gone.any fun p => p.id == id
  { s1 with
    packets := s1.packets.filter fun p => !dropped p.id
    cores := s1.cores.map fun (n, c) => (n, { c with inbox := c.inbox.filter fun id => !dropped id }) }

/-- What belongs to returned points of a slot is stopped: strands on cores and saved ones, and the packets of their regions; also what has
come up since LVS began (R261). -/
def sweepSave (s : State) (slot : Nat) : State :=
  let s1 := s.ctxs.foldl (fun s c => returnStrand s slot c.1) s
  discardPackets (s1.saved.foldl (returnSaved slot) s1) slot

/-- LVS begins (R261): firing stops, and every point in flight that has not executed its DONE is returned. -/
def beginSave (s : State) (slot : Nat) : State :=
  let x := s.slot slot
  let flying := x.flying.map fun p => if p.retired then p else { p with returning := true }
  sweepSave (s.setSlot slot { x with saving := true, predw := x.state == .waiting, flying := flying }) slot

/-- Everything of the slot that is waited for is over: retired points have completed and returned strands are gone. -/
def saveSettled (s : State) (slot : Nat) : Bool :=
  (s.slot slot).flying.all (fun p => p.returning) && !(s.ctxs.any fun c => c.2.strand.any (isReturned s slot))
    && !(s.saved.any fun x => isReturned s slot x.strand)

/-- What belongs to a launch outside its slot is dropped: packets and regions, skeins, saved strands with their waits and blocks. -/
def dropLaunch (s : State) (launch : Nat) : State :=
  let away := s.saved.filter fun v => v.strand.ident.launch == some launch
  let s1 := away.foldl (fun s v => dropWaiters (returnBlock s (dieOf (keyCore v.ctx)) v.block) v.strand.ident.uid) s
  let gone (p : Packet) : Bool := p.ident.launch == some launch
  let s2 := (s1.packets.filter gone).foldl (fun s p => p.parkedOn.elim s fun cell => waitersBy s cell false) s1
  { s2 with
    packets := s2.packets.filter fun p => !gone p
    cores := s2.cores.map fun (n, c) => (n, { c with inbox := c.inbox.filter fun id => !s2.packets.any fun p => p.id == id && gone p })
    regions := s2.regions.filter fun r => r.launch != launch
    skeins := s2.skeins.filter fun k => k.launch != launch
    saved := s2.saved.filter fun v => v.strand.ident.launch != some launch }

/-- The slot becomes SAVED with the frontier that its image holds, which is noted as this launch's (R261, R470). -/
def finishSave (s : State) (slot : Nat) : State :=
  let s1 := discardPackets s slot
  let x := s1.slot slot
  let rooted (p : InFlight) : InFlight :=
    { p with tasks := s1.regions.any fun r => r.slot == slot && r.launch == x.launch && r.x == p.x && r.y == p.y && r.z == p.z }
  let x' : LaunchSlot :=
    { x with state := .saved, saving := false, flying := x.flying.map rooted, columns := x.columns.map fun (n, c) => (n, { c with fired := 0 }) }
  let s2 := dropLaunch s1 x.launch
  { s2.setSlot slot x' with saves := (s2.saves.filter fun e => e != (x.launch, frontierOf false x')) ++ [(x.launch, frontierOf false x')] }

/-- The number by which a stopped bundle knows a failed image write. -/
def imageFault : Nat := 999

/-- Writes the image of a slot at an address for the focus strand. -/
def writeFrontier (va slot : Nat) : Op Unit := do
  let s ← get
  let data := frontierImage false (s.slot slot)
  match ((agentFor s.focus s.strand).writeLong (data.length / 64 + 1) va data).on s with
  | (.error r, _) => throw (.post r imageFault)
  | (.ok _, s') => set s'

/-- The operands of LVS and LVR, and the checks that they share (R400). -/
def frontierOperands (xa xb : XReg) : Op (Nat × Nat) := do
  let s ← get
  check s.priv cPrivilege
  let a ← getX xa
  let b ← getX xb
  check (b.toNat ≤ 63) cLaunchInvalid
  pure (a.toNat, b.toNat)

/-- The strand of a number waits for the levee, on a core or saved. -/
def waitsForLevee (s : State) (uid : Nat) : Bool :=
  let frozen (st : Strand) : Bool := st.ident.uid == uid && st.frozen == some .levee
  s.ctxs.any (fun c => c.2.strand.any frozen) || s.saved.any fun x => x.strand.ident.uid == uid

/-- The strands before this one whose LVS or LVR on a slot the levee is to apply first (R402). -/
def leveeAhead (s : State) (slot uid : Nat) : List Nat :=
  ((s.leveeOps.takeWhile fun e => e != (slot, uid)).filter fun e => e.1 == slot && waitsForLevee s e.2).map Prod.snd

/-- A strand's LVS or LVR joins those that the levee has received. -/
def joinLine (s : State) (slot uid : Nat) : State :=
  if s.leveeOps.contains (slot, uid) then s
  else { s with leveeOps := (s.leveeOps.filter fun e => e.2 != uid) ++ [(slot, uid)] }

/-- A strand's LVS or LVR has been applied. -/
def leaveLine (s : State) (uid : Nat) : State := { s with leveeOps := s.leveeOps.filter fun e => e.2 != uid }

/-- The wait for the operations on a slot that the levee received earlier (R402). -/
def leveeTurn (slot : Nat) : Op Unit := do
  let s ← get
  let uid := s.strand.ident.uid
  if !(leveeAhead s slot uid).isEmpty then waitLast .levee fun s => joinLine s slot uid

/-- LVS (R261, R400, R401). A replay writes the image again from the SAVED frontier. -/
def opLvs (t : Tag) (xa xb : XReg) : Op Unit := guarded t do
  acquireWait
  let (a, n) ← frontierOperands xa xb
  let s ← get
  let x := s.slot n
  if s.issue.mode == 2 then do
    check (x.state == .saved) cLaunchInvalid
    writeFrontier a n
  else do
    check (a % 64 == 0) cAlign a
    leveeTurn n
    check (x.state == .waiting || x.state == .running) cLaunchInvalid
    let uid := s.strand.ident.uid
    if !x.saving then waitLast .levee fun s => joinLine (beginSave s n) n uid
    else if !saveSettled s n then waitLast .levee fun s => sweepSave s n
    else do
      modify fun s => leaveLine (finishSave s n) uid
      if s.issue.mode == 0 then writeFrontier a n

/-! ### LVR (R262, R402) -/

/-- A column word of an image, checked for a launch (R262). -/
def columnOk (r w : Nat) : Bool :=
  let e := lrExt r (lrSweep r)
  let h := bits w 23 0
  let comp := bits w 31 24
  bits w 63 41 == 0 && bits w 39 32 == 0 && !bit comp 0 && comp < 2 ^ (lrWin r + 1)
    && ((bitSet 8 comp).all fun k => h + k < e) && h ≤ e && (!bit w 40 || (e == 2 ^ 24 && h == 0))

/-- The column of a checked word. -/
def columnFrom (w : Nat) : Column := ⟨bits w 23 0, bits w 31 24, bits w 39 32, bit w 40⟩

/-- An in-flight entry, checked against its launch and column (R262). -/
def entryOk (r : Nat) (cols : List Nat) (e : Nat) : Bool :=
  let x := bits e 31 0
  let y := bits e 63 32
  let z := bits e 95 64
  let h := coord x y z (lrSweep r)
  let w := columnFrom (cols.getD (columnOf r x y z) 0)
  bits e 127 97 == 0 && ((List.range 3).all fun k => coord x y z k < lrExt r k)
    && !w.full && w.height ≤ h && h ≤ w.height + lrWin r && !bit w.comp (h - w.height)

/-- The checks of R262 on an image, but for those of its launch record. -/
def frontierOk (header : Nat) (f : Frontier) : Bool :=
  bits header 31 0 == 0x56535A4E && bits header 47 32 == 1 && bits header 511 160 == 0 && bits header 87 81 == 0
    && bits header 79 48 == 0 && f.cols.length == columnCount f.record && f.cols.all (columnOk f.record)
    && f.entries.length ≤ (lrWin f.record + 1) * f.cols.length && f.entries.all (entryOk f.record f.cols)
    && noRepeats (f.entries.map fun e => bits e 95 0)

/-- Splits bytes into numbers of `w` bytes. -/
def splitEvery (w n : Nat) (l : List Byte) : List Nat := (List.range n).map fun i => leNat ((l.drop (w * i)).take w)

/-- Reads bytes of an image for the focus strand. -/
def readFrontier (va n : Nat) : Op (List Byte) := do
  let s ← get
  match ((agentFor s.focus s.strand).readLong (n / 64 + 1) va n).on s with
  | (.error r, _) => raiseNow r
  | (.ok b, s') => do
    set s'
    pure b

/-- Points complete in a frontier. -/
def completePoints (cols : List Column) : Nat :=
  (cols.map fun c => (if c.full then 2 ^ 24 else c.height) + (bitSet 8 c.comp).length).sum

/-- The launch that an image restored into a slot continues: one that LVS saved with this very frontier and that does not run now, the
slot's own before another. DEDUCED (log 56): an image that no LVS of this package made is a launch that came from outside, with a number
of its own (R470). -/
def launchRestored (s : State) (slot : Nat) (f : Frontier) : Nat :=
  let runs (n : Nat) : Bool := s.slots.any fun p => (p.2.state == .waiting || p.2.state == .running) && p.2.launch == n
  let own := (s.saves.filter fun e => e.2 == { f with status := 0 } && !runs e.1).map Prod.fst
  if own.contains (s.slot slot).launch then (s.slot slot).launch else own.getLastD s.fresh

/-- The columns of an image, those at their beginning left out. -/
def frontierColumns (f : Frontier) : Tab Column :=
  ((f.cols.map columnFrom).zip (List.range f.cols.length)).filterMap fun (c, i) => if c == ⟨0, 0, 0, false⟩ then none else some (i, c)

/-- A slot takes an image's frontier: what is in flight in it fires again (R262). -/
def restoreFrontier (s : State) (slot : Nat) (f : Frontier) : State :=
  let launch := launchRestored s slot f
  let done := completePoints (f.cols.map columnFrom)
  let bound (n : Nat) : List Nat := if f.predw then (bindTag s (lrPred f.record n)).filter (· != launch) else []
  let x : LaunchSlot := { LaunchSlot.init with
    state := if f.predw then .waiting else .running, record := f.record, launch := launch, columns := frontierColumns f
    pred0 := bound 0, pred1 := bound 1, signalled := done, firedTotal := done }
  let s1 := ({ dropLaunch s launch with fresh := s.fresh + 1 } : State).setSlot slot x
  if pointTotal f.record == 0 || allComplete x then endLaunch s1 slot 0 else settle s1

/-- LVR (R262, R400, R402). -/
def opLvr (t : Tag) (xa xb : XReg) : Op Unit := guarded t do
  acquireWait
  let (a, n) ← frontierOperands xa xb
  let s ← get
  let x := s.slot n
  check (a % 64 == 0) cAlign a
  leveeTurn n
  check (x.state == .free || x.state == .saved) cLaunchInvalid
  let head ← readFrontier a 192
  let header := leNat (head.take 64)
  let record := leNat (head.drop 64)
  let ncol := bits header 127 96
  let ninf := bits header 159 128
  check (recordOk s record && ncol == columnCount record && ninf ≤ (lrWin record + 1) * ncol) cLaunchInvalid
  check (x.state == .free || lrTag x.record == lrTag record) cLaunchInvalid
  let body ← readFrontier (a + 192) (8 * ncol + 16 * ninf)
  let f : Frontier := ⟨record, bits header 95 88, bit header 80, splitEvery 8 ncol body, splitEvery 16 ninf (body.drop (8 * ncol))⟩
  check (frontierOk header f) cLaunchInvalid
  modify fun s => leaveLine s s.strand.ident.uid
  if f.status != 0 then modify fun s => endLaunch (s.setSlot n { s.slot n with record := record }) n f.status
  else modify fun s => restoreFrontier s n f

def execLvs (t : Tag) (xa xb : XReg) (s : State) : Host.Outcome State Fault Refusal := issueOne (.lvs t xa xb) (opLvs t xa xb) s
def execLvr (t : Tag) (xa xb : XReg) (s : State) : Host.Outcome State Fault Refusal := issueOne (.lvr t xa xb) (opLvr t xa xb) s

end Sys2Proof.Machine
end

