-- ==== Sys2Proof/Machine/Retrieval.lean ====
section
/-!
DEFINITION. The retrieval unit (R193-R215, R381-R386): families and signatures, tables and buckets, HFAM, HPRB, HINS, HDEL,
HREH, HACC, and the events of the probe engine.
-/
namespace Sys2Proof.Machine

open Sys2Proof

/-! ### Families (R193-R197) -/

def faType (d : Nat) : Nat := bits d 3 0
def faFmt (d : Nat) : Nat := bits d 7 4
def faK (d : Nat) : Nat := bits d 11 8
def faL (d : Nat) : Nat := bits d 16 12
def faWs (d : Nat) : Nat := bits d 21 20
def faD (d : Nat) : Nat := bits d 43 32
def faFid (d : Nat) : Nat := bits d 63 48
def faSeed (d : Nat) : Nat := bits d 127 64
def faMaskb (d : Nat) : Nat := bits d 184 128

/-- The checks of R194. -/
def familyOk (d : Nat) : Bool :=
  let k := faType d
  bits d 511 185 == 0 && bits d 47 44 == 0 && bits d 31 22 == 0 && bits d 19 17 == 0 && k ≤ 3 && faFid d != 0
    && (if k == 3 then faFmt d == 4 else [11, 12, 10, 9, 8, 0].contains (faFmt d)) && (k != 3 || (faL d == 0 && faD d ≤ 31))
    && (k == 2 || faWs d == 0) && (k != 2 || (faK d + 1) % (faWs d + 1) == 0)
    && (if k == 1 then faMaskb d != 0 && faMaskb d % 8 == 0 && faSeed d == 0 else faMaskb d == 0)

/-- MIX of R195. -/
def mixHash (x : Nat) : Nat :=
  let x := x % 2 ^ 64
  let x := x ^^^ (x / 2 ^ 31)
  let x := x * 0xB5A74C1D2F39E8C3 % 2 ^ 64
  let x := x ^^^ (x / 2 ^ 29)
  let x := x * 0x7C1F93A5D60E4B2D % 2 ^ 64
  x ^^^ (x / 2 ^ 32)

/-- G(tag, l, k, i) of R195. -/
def genHash (seed tag l k i : Nat) : Nat := mixHash (seed ^^^ (tag * 2 ^ 62) ^^^ (l * 2 ^ 56) ^^^ (k * 2 ^ 48) ^^^ i)

/-- HASH_CONFIG met while a request runs (R213). -/
def hashConfig (va : Nat) : Raise := ⟨cHashConfig, w64 va, false⟩

/-- The value of an input element. -/
def elemValue (f v : Nat) : Num :=
  if isFloatFmt f then floatValue f v
  else
    let x := intValue f v
    .fin (x < 0) x.natAbs 0

/-- The input elements of a vector. -/
def inputElems (f n data : Nat) : List Num := (List.range n).map fun i => elemValue f (elemOf (fmtBytes f) i data)

/-- A number above zero. -/
def numPositive : Num → Bool
  | .fin neg m _ => !neg && m != 0
  | .inf neg => !neg
  | .nan => false

/-- Whether a term is infinite. -/
def Num.isInf : Num → Bool
  | .inf _ => true
  | _ => false

/-- One SRP bit from its terms: exact; NaNs do not count, and infinities decide (R196). -/
def srpBit (terms : List Num) : Bool :=
  let l := terms.filter fun x => !x.isNaN
  let infs := l.filter Num.isInf
  if infs.isEmpty then numPositive (exactSum l) else infs.all numPositive

/-- Whether a ranks above b, a NaN below every number (R196). -/
def ranksAbove (a b : Num) : Bool := !a.isNaN && (b.isNaN || Num.order a b == .gt)

/-- The number of the greatest, the lowest of equals. -/
def greatest : List Num → Nat
  | [] => 0
  | x :: rest => ((rest.zip (List.range rest.length)).foldl (fun (best : Nat × Num) p =>
      if ranksAbove p.1 best.2 then (p.2 + 1, p.1) else best) (0, x)).1

/-- A signature's bits as a number. -/
def ofBits (l : List Bool) : Nat := (l.zip (List.range l.length)).foldl (fun acc p => acc + bit01 p.1 * 2 ^ p.2) 0

/-- The signature of an EXACT key (R197). -/
def exactSignature (d key len : Nat) : Nat :=
  let h := (List.range 4).foldl (fun h j => mixHash (h ^^^ elemOf 8 j key)) (faSeed d)
  mixHash (h ^^^ (2 * 2 ^ 62) ^^^ len) % 2 ^ (faK d + 1)

/-- The signature of table l for SRP and WTA inputs (R196). -/
def signature (g : Agent) (d l : Nat) (xs : List Num) : Eng Nat :=
  let n := faD d + 1
  let flip (neg : Bool) (x : Num) : Num := if neg then x.neg else x
  match faType d with
  | 0 => pure (ofBits ((List.range (faK d + 1)).map fun k =>
      srpBit ((xs.zip (List.range n)).map fun p => flip (bit (genHash (faSeed d) 0 l k p.2) 63) p.1)))
  | 1 => do
    let mb := 8 * ((n + 63) / 64)
    let masks ← (List.range (faK d + 1)).mapM fun k => g.read (faMaskb d + (l * (faK d + 1) + k) * mb) mb
    pure (ofBits (masks.map fun m => srpBit ((xs.zip (List.range n)).map fun p => flip (bit m p.2) p.1)))
  | _ =>
    let b := faWs d + 1
    let w := 2 ^ b
    pure ((List.range ((faK d + 1) / b)).foldl (fun acc c =>
      acc + greatest ((List.range w).map fun u => xs.getD (genHash (faSeed d) 1 l (c * w + u) 0 % n) .nan) * 2 ^ (c * b)) 0)

/-- What is hashed: input elements, or an EXACT key with its length. -/
structure Hashed where
  xs : List Num
  key : Nat
  len : Nat
deriving Repr

/-- The signature of table l. -/
def signatureOf (g : Agent) (d l : Nat) (h : Hashed) : Eng Nat :=
  if faType d == 3 then pure (exactSignature d h.key h.len) else signature g d l h.xs

/-! ### Tables (R198-R201) -/

def tdBuckb (t : Nat) : Nat := bits t 56 0
def tdOldb (t : Nat) : Nat := bits t 120 64
def tdRowb (t : Nat) : Nat := bits t 184 128
def tdFid (t : Nat) : Nat := bits t 207 192
def tdOfid (t : Nat) : Nat := bits t 223 208
def tdB (t : Nat) : Nat := bits t 229 224
def tdPol (t : Nat) : Nat := bits t 231 230
def tdRowp (t : Nat) : Nat := bits t 247 232
def tdNrows (t : Nat) : Nat := bits t 287 256
def tdCursor (t : Nat) : Nat := bits t 319 288
def tdPoolb (t : Nat) : Nat := bits t 376 320
def tdPooln (t : Nat) : Nat := bits t 415 384
def tdPoolu (t : Nat) : Nat := bits t 447 416
def tdRseed (t : Nat) : Nat := bits t 479 448
def tdDrops (t : Nat) : Nat := bits t 511 480

/-- The lowest-numbered family register with this identifier (R199). -/
def findFamily (fams : List Nat) (fid : Nat) : Option Nat := if fid == 0 then none else fams.find? fun d => faFid d == fid

/-- A table as a request sees it: address, descriptor, current and old family. -/
structure Table where
  va : Nat
  desc : Nat
  fam : Nat
  old : Option Nat
deriving DecidableEq, Repr

/-- A base that maps must lie in HBM or the second tier (R199). -/
def baseOk (g : Agent) (va : Nat) : Eng Bool := .of fun s =>
  match engineMap s g va with
  | (none, s') => (.ok true, s')
  | (some m, s') => (.ok (match s'.space (m.phys va) with
    | .hbm | .tier => true
    | _ => false), s')

/-- Reads and checks a table (R198, R199). DESIGN CHOICE (log 63): BUCKB and OLDB that are not 64-byte aligned, for which R199 names no
failure, are used as they stand. -/
def readTable (g : Agent) (fams : List Nat) (va : Nat) : Eng Table := do
  let t ← g.read va 64
  let old := findFamily fams (tdOfid t)
  let fieldsOk := bits t 383 377 == 0 && bits t 255 248 == 0 && bits t 191 185 == 0 && bits t 127 121 == 0 && bits t 63 57 == 0
    && !(tdPol t == 3 && (tdPoolb t == 0 || tdPoolb t % 64 != 0)) && tdRowp t != 0 && tdNrows t != 0 && tdNrows t != 0xFFFFFFFF
    && tdCursor t ≤ tdNrows t && (tdOfid t == 0 || old.isSome)
  let basesOk ← ([tdBuckb t, tdRowb t] ++ (if tdOfid t == 0 then [] else [tdOldb t]) ++ (if tdPol t == 3 then [tdPoolb t] else [])).mapM (baseOk g)
  match findFamily fams (tdFid t) with
  | none => throw (hashConfig va)
  | some f => if fieldsOk && basesOk.all id then pure ⟨va, t, f, if tdOfid t == 0 then none else old⟩ else throw (hashConfig va)

/-- S of R201. -/
def bucketSize (t : Nat) : Nat := 64 * ((16 + 4 * (tdB t + 1) + 63) / 64)

/-- A bucket or block. -/
structure Block where
  addr : Nat
  seen : Nat
  next : Nat
  ids : List Nat
deriving DecidableEq, Repr

/-- Reads a bucket with its chain; a corrupt one is HASH_CONFIG (R201). The fuel bounds the chain by the pool. -/
def readChain (g : Agent) (t : Nat) : Nat → Nat → Eng (List Block)
  | 0, a => throw (hashConfig a)
  | n + 1, a => do
    let v ← g.read a (16 + 4 * (tdB t + 1))
    let count := bits v 31 0
    let next := bits v 127 64
    let sz := bucketSize t
    let nextOk := next == 0 || (tdPoolb t ≤ next && (next - tdPoolb t) % sz == 0 && (next - tdPoolb t) / sz < tdPooln t)
    if tdB t + 1 < count || !nextOk then throw (hashConfig a)
    else
      let b : Block := ⟨a, bits v 63 32, next, (List.range count).map fun i => elemOf 4 (4 + i) v⟩
      if next == 0 then pure [b] else pure (b :: (← readChain g t n next))

/-- Writes a block back. -/
def writeBlock (g : Agent) (b : Block) : Eng Unit :=
  g.write b.addr (leBytes 4 b.ids.length ++ leBytes 4 b.seen ++ leBytes 8 b.next ++ b.ids.flatMap (leBytes 4))

/-- A table's count of drops goes up by one (R198). -/
def countDrop (g : Agent) (va : Nat) : Eng Unit := do
  g.write (va + 60) (leBytes 4 (min ((← g.read (va + 60) 4) + 1) 0xFFFFFFFF))

/-- The bucket of a signature and its global number (R201). -/
def bucketAt (base t fam l sig : Nat) : Nat × Nat :=
  let gbn := l * 2 ^ (faK fam + 1) + sig
  (base + gbn * bucketSize t, gbn)

/-- The insertion of an identifier in a bucket (R202). The fields of the descriptor `d` that the engine writes are taken from memory as
they stand. -/
def insertId (g : Agent) (va d head gbn id : Nat) : Eng Unit := do
  let chain ← readChain g d (tdPooln d + 2) head
  let cap := tdB d + 1
  match chain with
  | [] => pure ()
  | b :: rest =>
    if chain.any fun x => x.ids.contains id then pure ()
    else
      let seen := min (b.seen + 1) 0xFFFFFFFF
      let b' := { b with seen := seen }
      let dropped (ids : List Nat) : Eng Unit := do
        writeBlock g { b' with ids := ids }
        countDrop g va
      if b.ids.length < cap then writeBlock g { b' with ids := b.ids ++ [id] }
      else
        match tdPol d with
        | 0 => dropped b.ids
        | 1 => dropped (b.ids.drop 1 ++ [id])
        | 2 =>
          let j := mixHash (tdRseed d ^^^ (3 * 2 ^ 62) ^^^ (gbn * 2 ^ 32) ^^^ seen) % seen
          dropped (if j ≤ tdB d then b.ids.set j id else b.ids)
        | _ =>
          let last := rest.getLast?.getD b'
          if last.ids.length < cap then do
            writeBlock g b'
            writeBlock g (if rest.isEmpty then { b' with ids := b.ids ++ [id] } else { last with ids := last.ids ++ [id] })
          else do
            let used ← g.read (va + 52) 4
            if used == tdPooln d then throw ⟨cHashOverflow, w64 va, false⟩
            else do
              let a := tdPoolb d + used * bucketSize d
              g.write (va + 52) (leBytes 4 (used + 1))
              writeBlock g ⟨a, 0, 0, [id]⟩
              writeBlock g b'
              writeBlock g (if rest.isEmpty then { b' with next := a } else { last with next := a })

/-- The removal of an identifier from a bucket (R203). -/
def deleteId (g : Agent) (d head id : Nat) : Eng Unit := do
  let chain ← readChain g d (tdPooln d + 2) head
  match chain.find? fun b => b.ids.contains id with
  | none => pure ()
  | some b => writeBlock g { b with ids := b.ids.erase id }

/-- A row as it is hashed under a family (R200). -/
def readRow (g : Agent) (banks : Tab Word) (t fam j : Nat) : Eng Hashed := do
  let a := tdRowb t + j * tdRowp t * 16
  let n := if faType fam == 3 then 33 else (faD fam + 1) * fmtBytes (faFmt fam)
  let v ← g.read a n
  if badData (← get) g banks a n .r then throw (hashConfig a)
  else if faType fam == 3 then pure ⟨[], v % 2 ^ 256, v / 2 ^ 256⟩
  else pure ⟨inputElems (faFmt fam) (faD fam + 1) v, 0, 0⟩

/-! ### Issue (R193, R205, R206, R213, R381-R386) -/

def opHfam (t : Tag) (va : VReg) (_ : Port) (f : BitVec 4) : Op Unit := guarded t do
  let v ← getV va
  onceRead do
    let d := v % 2 ^ 512
    check (familyOk d) cHashConfig
    emit 2 (.hfam f.toNat d)

/-- The wait for a place in the probe queue of the core, which its two contexts share (R213). -/
def probeWait : Op Unit := do
  acquireWait
  let s ← get
  waitWhile (8 ≤ (s.core s.coreNo).probes.length) .probeQueue

/-- A request enters the probe queue of the core. -/
def enqueueProbe (q : ProbeReq) : Op Unit := modify fun s =>
  s.setCore s.coreNo { s.core s.coreNo with probes := (s.core s.coreNo).probes ++ [q] }

/-- Bank formats as one number. -/
def packBanks (banks : Tab Word) : Nat := banks.foldr (fun e acc => e.1 + 2 ^ 64 * (e.2.toNat + 2 ^ 64 * acc)) 0

/-- Bank formats from one number; a package has 8,192 banks. -/
def unpackBanks : Nat → Nat → Tab Word
  | 0, _ => []
  | n + 1, x => if x == 0 then [] else (x % 2 ^ 64, w64 (x / 2 ^ 64)) :: unpackBanks n (x / 2 ^ 128)

/-- What a retrieval instruction captures at its issue, as one operand, so that a re-run has it too: privilege, path entropy, family
registers and bank formats (R130, R134, R193, R270, R285). -/
def issueStamp (s : State) : Nat :=
  bit01 s.priv + 2 * (s.strand.entropy + 2 ^ 16 * (ofElems 64 s.strand.hfam.toList + 2 ^ 4096 * packBanks (bankFormats s)))

/-- A request of a kind as it stands at issue. -/
def newRequest (kind : Nat) (i : Instr) (table arg : Nat) (stamp : Nat) : Op ProbeReq := do
  let id ← freshId
  let s ← get
  pure { id := id, uid := s.strand.ident.uid, ctx := s.focus, asid := s.strand.ident.asid, priv := bit stamp 0
         fent := bits stamp 16 1, seq := s.issue.seq * 8 + 5, instr := i, kind := kind, table := table, arg := arg, area := 0
         control := 0, spool := 0, qfmt := 0, qlen := 0, qdata := 0
         fams := (List.range 8).map fun k => elemOf 64 k (bits stamp 4112 17), banks := unpackBanks 8192 (stamp / 2 ^ 4113)
         started := false, progress := 0, claim := none, plan := none, found := [], failed := false, union := none }

/-- The operand that captures the registers that an instruction uses at its issue. -/
def takeStamp : Op Nat := operand do
  let s ← get
  pure (issueStamp s)

/-- HINS, HDEL and HREH at issue. -/
def updateOp (kind : Nat) (i : Instr) (xt xi : XReg) : Op Unit := do
  probeWait
  let a ← getX xt
  let v ← getX xi
  check (a.toNat % 64 == 0) cAlign a.toNat
  let stamp ← takeStamp
  markEffect
  enqueueProbe (← newRequest kind i a.toNat v.toNat stamp)

def opHins (t : Tag) (xt xi : XReg) : Op Unit := guarded t do updateOp 1 (.hins t xt xi) xt xi
def opHdel (t : Tag) (xt xi : XReg) : Op Unit := guarded t do updateOp 2 (.hdel t xt xi) xt xi
def opHreh (t : Tag) (xt xn : XReg) : Op Unit := guarded t do updateOp 3 (.hreh t xt xn) xt xn

def opHacc (t : Tag) (xa : XReg) (va : VReg) (pa : Port) : Op Unit := guarded t do
  probeWait
  let a ← getX xa
  let v ← getV va
  check (a.toNat % 64 == 0) cAlign a.toNat
  let stamp ← takeStamp
  onceRead do
    markEffect
    let q ← newRequest 4 (.hacc t xa va pa) a.toNat 0 stamp
    enqueueProbe { q with qdata := v }

/-- Row 0 of a query view, sampled at issue (R206). -/
def readQuery (v : Word) : Op Nat := do
  let s ← get
  let a := (partitionOf s s.focus).1 + vwBase v
  let n := vwRowBytes v
  touch fun d => match d with
    | .vec _ b => b < a + n && a < b + 128
    | _ => false
  match s.poisoned a n with
  | some w => failAt true (faultRank cPoison) ⟨cPoison, w64 w, true⟩
  | none => pure (s.readNat a n)

/-- The input width of a table's current family, read at issue to size a spool query (R206). -/
def queryWidth (xt : Nat) : Op (Nat × Nat) := do
  let n ← operand do
    let fid ← readWaited (xt + 24) 2
    let s ← get
    match findFamily s.strand.hfam.toList fid with
    | none => fail cHashConfig
    | some f => pure ((faD f + 1) * 16 + fmtBytes (faFmt f))
  pure (n / 16, n % 16)

/-- Pops so many elements of a spool, the first lowest. -/
def popMany (n : Nat) : Nat → Op Nat
  | 0 => pure 0
  | k + 1 => do
    let v ← popSpool n
    let rest ← popMany n k
    pure (v + 2 ^ 1024 * rest)

/-- The query of an HPRB: format, elements and data. -/
def takeQuery (xt : Nat) (qs : BitVec 1) (qn : TileNo) : Op (Nat × Nat × Nat) := do
  let s ← get
  if qs == 0 then do
    let v ← operand (pure (viewReg s.strand qn.toNat).toNat)
    let d ← operand (readQuery (w64 v))
    pure (vwFmt (w64 v), vwCols (w64 v), d)
  else do
    let (n, w) ← queryWidth xt
    let f ← operand do
      let st ← getStrand
      pure (match st.spools.getD qn.toNat none with
        | some sp => spFmt sp.desc
        | none => 0)
    let d ← popMany qn.toNat ((n * w + 127) / 128)
    pure (f, n, d % 2 ^ (8 * n * w))

def opHprb (t : Tag) (sd : SpoolNo) (xt xo xc : XReg) (qs : BitVec 1) (qn : TileNo) (pq : Port) : Op Unit := guarded t do
  probeWait
  let a ← getX xt
  let o ← getX xo
  let c ← getX xc
  let s ← get
  let st := s.strand
  let armed : Bool := match st.spools.getD sd.toNat none with
    | none => false
    | some sp => spKind sp.desc == 6 && !isBound st sd.toNat && jobDelivered sp
  let queryOk : Bool := qs == 0 || (loadSpool st qn.toNat).isSome
  formCheck (armed && queryOk) cSpoolConfig
  formCheck (qs != 0 || viewOk (viewReg st qn.toNat) (partitionOf s s.focus).2) cView
  check (bits c.toNat 63 48 == 0 && bits c.toNat 31 5 == 0 && bits c.toNat 47 32 != 0) cHashConfig
  check (o.toNat % 64 == 0) cAlign o.toNat
  check (a.toNat % 64 == 0) cAlign a.toNat
  let stamp ← takeStamp
  let (f, n, d) ← takeQuery a.toNat qs qn
  onceRead do
    let q ← newRequest 0 (.hprb t sd xt xo xc qs qn pq) a.toNat 0 stamp
    emit 0 (.spoolArm sd.toNat o.toNat q.id)
    enqueueProbe { q with area := o.toNat, control := c.toNat, spool := sd.toNat, qfmt := f, qlen := n, qdata := d }

def execHfam (t : Tag) (va : VReg) (pa : Port) (f : BitVec 4) (s : State) : Host.Outcome State Fault Refusal :=
  issueOne (.hfam t va pa f) (opHfam t va pa f) s
def execHprb (t : Tag) (sd : SpoolNo) (xt xo xc : XReg) (qs : BitVec 1) (qn : TileNo) (pq : Port) (s : State) :
    Host.Outcome State Fault Refusal := issueOne (.hprb t sd xt xo xc qs qn pq) (opHprb t sd xt xo xc qs qn pq) s
def execHins (t : Tag) (xt xi : XReg) (s : State) : Host.Outcome State Fault Refusal := issueOne (.hins t xt xi) (opHins t xt xi) s
def execHdel (t : Tag) (xt xi : XReg) (s : State) : Host.Outcome State Fault Refusal := issueOne (.hdel t xt xi) (opHdel t xt xi) s
def execHreh (t : Tag) (xt xn : XReg) (s : State) : Host.Outcome State Fault Refusal := issueOne (.hreh t xt xn) (opHreh t xt xn) s
def execHacc (t : Tag) (xa : XReg) (va : VReg) (pa : Port) (s : State) : Host.Outcome State Fault Refusal :=
  issueOne (.hacc t xa va pa) (opHacc t xa va pa) s

/-! ### Updates (R202-R204, R210, R214, R215) -/

/-- The signatures of what is hashed in every table of a family. -/
def allSignatures (g : Agent) (fam : Nat) (h : Hashed) : Eng (List Nat) :=
  (List.range (faL fam + 1)).mapM fun l => signatureOf g fam l h

/-- Reads a row and takes its signatures under the current family, and under the old one where the request needs them (R202, R203,
R210). -/
def planRow (g : Agent) (q : ProbeReq) (t : Table) (row : Nat) : Eng Plan := do
  let sigs ← allSignatures g t.fam (← readRow g q.banks t.desc t.fam row)
  let old ← match t.old with
    | some o => if q.kind == 1 then pure [] else do allSignatures g o (← readRow g q.banks t.desc o row)
    | none => pure []
  pure ⟨t.desc, sigs, old, 0⟩

/-- One bucket update of the row in hand: number `step` counts the current tables and then the old ones. HREH inserts in the current
tables, HDEL removes from them, and both remove from the old ones. -/
def touchBucket (g : Agent) (q : ProbeReq) (p : Plan) (fam old row step : Nat) : Eng Unit :=
  let n := p.sigs.length
  if step < n then
    let (a, gbn) := bucketAt (tdBuckb p.desc) p.desc fam step (p.sigs.getD step 0)
    if q.kind == 2 then deleteId g p.desc a row else insertId g q.table p.desc a gbn row
  else deleteId g p.desc (bucketAt (tdOldb p.desc) p.desc old (step - n) (p.oldSigs.getD (step - n) 0)).1 row

/-- The space that an access of an engine reaches, or its fault. -/
def Agent.reach (g : Agent) (va n : Nat) (need : Need) : Eng Space := .of fun s =>
  match engineAccess s g va n need with
  | (.error r, s') => (.error r, s')
  | (.ok a, s') => (.ok a.space, s')

/-- An accumulator lies wholly in the core's own scratchpad (R215): every page that it meets maps there. -/
def accumulatorOk (g : Agent) (va size : Nat) : Eng Bool := do
  if 0x400000 < size then pure false
  else
    let places := va :: (va + size - 1) :: (List.range (size / 65536)).map fun i => (va / 65536 + 1 + i) * 65536
    let spaces ← (places.filter fun a => a < va + size).mapM fun a => g.reach a 1 .rw
    pure (spaces.all fun x => match x with
      | .scratch k => k == g.owner
      | _ => false)

/-- The slots of a key in the order of the search. -/
def accSlots (va slg key : Nat) : List Nat :=
  let h := key ^^^ (key / 2 ^ 16)
  (List.range (min 8 (2 ^ slg))).map fun q => va + 64 + 8 * ((h + q) % 2 ^ slg)

/-- Searches the slots: the key's, or the first empty one. -/
def findSlot (g : Agent) (key : Nat) : List Nat → Eng (Option (Nat × Option Nat))
  | [] => pure none
  | a :: rest => do
    let v ← g.read a 8
    if v % 2 ^ 32 == key then pure (some (a, some (v / 2 ^ 32)))
    else if v % 2 ^ 32 == 0xFFFFFFFF then pure (some (a, none))
    else findSlot g key rest

/-- Searches the overflow entries in use. -/
def findOverflow (g : Agent) (key : Nat) : List Nat → Eng (Option (Nat × Nat))
  | [] => pure none
  | a :: rest => do
    let v ← g.read a 8
    if v % 2 ^ 32 == key then pure (some (a, v / 2 ^ 32)) else findOverflow g key rest

/-- One pair of an HACC (R215). -/
def accumulate (g : Agent) (va key v : Nat) : Eng Unit := do
  let h ← g.read va 64
  let op := bits h 3 0
  let vf := bits h 11 8
  let slg := bits h 20 16
  let ovn := bits h 63 32
  let ovu := bits h 95 64
  let good := bits h 511 96 == 0 && bits h 31 21 == 0 && bits h 15 12 == 0 && bits h 7 4 == 0 && op ≤ 3
    && (vf == 2 || vf == 6 || (vf == 8 && op != 3)) && 1 ≤ slg && slg ≤ 16 && ovu ≤ ovn
  let inside ← accumulatorOk g va (64 + 8 * 2 ^ slg + 8 * ovn)
  if !(good && inside) then throw (hashConfig va)
  else if key == 0xFFFFFFFF then pure ()
  else
    let pair (x : Nat) : List Byte := leBytes 4 key ++ leBytes 4 x
    let area := va + 64 + 8 * 2 ^ slg
    match ← findSlot g key (accSlots va slg key) with
    | some (a, some x) => g.write a (pair (mergeOp op vf x v))
    | some (a, none) => g.write a (pair v)
    | none =>
      match ← findOverflow g key ((List.range ovu).map fun i => area + 8 * i) with
      | some (a, x) => g.write a (pair (mergeOp op vf x v))
      | none =>
        if ovn ≤ ovu then throw ⟨cHashOverflow, w64 va, false⟩
        else do
          g.write (area + 8 * ovu) (pair v)
          g.write (va + 8) (leBytes 4 (ovu + 1))

/-- One step of a started update, a pair of an HACC, the reading of a row of an HREH, or one bucket update, and the request after it, none
after its last (R212, R214). -/
def updateStep (g : Agent) (q : ProbeReq) : Eng (Option ProbeReq) :=
  if q.kind == 4 then do
    accumulate g q.table (elemOf 4 (2 * q.progress) q.qdata) (elemOf 4 (2 * q.progress + 1) q.qdata)
    pure (if q.progress + 1 == 16 then none else some { q with progress := q.progress + 1 })
  else
    match q.plan with
    | none => pure none
    | some p =>
      let fam := (findFamily q.fams (tdFid p.desc)).getD 0
      let oldId := findFamily q.fams (tdOfid p.desc)
      let (row, rows) := match q.claim with
        | some (c, e) => (c + q.progress, e)
        | none => (q.arg, q.arg + 1)
      if rows ≤ row then pure none
      else if p.sigs.isEmpty then do
        pure (some { q with plan := some (← planRow g q ⟨q.table, p.desc, fam, oldId⟩ row) })
      else do
        touchBucket g q p fam (oldId.getD 0) row p.step
        let more := p.step + 1 < p.sigs.length + p.oldSigs.length
        let progress := if q.kind == 3 then q.progress + bit01 (!more) else q.progress + 1
        let plan : Plan := if more then { p with step := p.step + 1 } else ⟨p.desc, [], [], 0⟩
        pure (if more || (q.kind == 3 && row + 1 < rows) then some { q with progress := progress, plan := some plan } else none)

/-- The start of an update: the descriptor is read once, an HREH claims its rows (R210), and an insertion or removal reads its row; it
goes on where an earlier run stopped (R214). -/
def updateBegin (g : Agent) (q : ProbeReq) : Eng ProbeReq :=
  if q.kind == 4 then pure { q with started := true }
  else do
    let t ← readTable g q.fams q.table
    if q.kind == 3 then
      if t.old.isNone then throw (hashConfig q.table)
      else do
        let c := tdCursor t.desc
        let e := min (c + q.arg) (tdNrows t.desc)
        if q.claim.isNone then g.write (q.table + 36) (leBytes 4 e)
        pure { q with started := true, claim := some (q.claim.getD (c, e)), plan := some ⟨t.desc, [], [], 0⟩ }
    else if tdNrows t.desc ≤ q.arg then throw (hashConfig q.table)
    else do
      let p ← planRow g q t q.arg
      pure { q with started := true, plan := some { p with step := q.progress } }

/-- The core queue's request that the probe engine works at: the first whose strand has no failed update, so that a strand's requests go
in issue order and those behind its failed update wait for the report (R213). -/
def probeHead (s : State) (core : Nat) : Option ProbeReq :=
  let l := (s.core core).probes
  l.find? fun q => !l.any fun f => f.failed && f.uid == q.uid

/-- The probe engine at work for a request, with what the request captured at its issue. -/
def ProbeReq.agent (q : ProbeReq) : Agent := ⟨keyCore q.ctx, q.asid, q.priv, q.fent, q.uid⟩

/-- A request of a core's queue changes; `none` takes it off. -/
def setRequest (s : State) (core id : Nat) (q : Option ProbeReq) : State :=
  let c := s.core core
  s.setCore core { c with probes := c.probes.flatMap fun x => if x.id == id then q.toList else [x] }

/-- Whether the strand of this number stands on a core or is saved. -/
def State.present (s : State) (uid : Nat) : Bool :=
  s.ctxs.any (fun c => c.2.strand.any fun st => st.ident.uid == uid) || s.saved.any fun v => v.strand.ident.uid == uid

/-- A failed update waits in the queue for the report on path R, with its progress count (R213); with its strand gone nothing is left to
report to. -/
def failUpdate (s : State) (core : Nat) (q : ProbeReq) (r : Raise) : State :=
  if s.present q.uid then
    (setRequest s core q.id (some { q with started := false, plan := none, failed := true })).modByUid q.uid fun st =>
      { st with reports := st.reports ++ [⟨4, r, true⟩] }
  else setRequest s core q.id none

/-- UPDATE_START: the update in turn starts (R210, R213). -/
def startUpdate (s : State) (core : Nat) : State :=
  match probeHead s core with
  | none => s
  | some q =>
    if q.kind == 0 || q.started then s
    else
      match (updateBegin q.agent q).on s with
      | (.error r, s') => failUpdate (unwrittenState s s') core q r
      | (.ok q', s') => setRequest s' core q.id (some q')

/-- UPDATE_END: an update goes on by one step; with its last it completes, and at a fault it stops with its progress count, the step in
hand not performed (R213, R214). -/
def endUpdate (s : State) (core : Nat) : State :=
  match probeHead s core with
  | none => s
  | some q =>
    if q.kind == 0 || !q.started then s
    else
      match (updateStep q.agent q).on s with
      | (.error r, s') => failUpdate (unwrittenState s s') core q r
      | (.ok q', s') => setRequest s' core q.id q'

/-! ### Probes (R206-R209) -/

/-- The distinct identifiers of a list. -/
def distinct (l : List Nat) : List Nat := l.foldl (fun acc x => if acc.contains x then acc else acc ++ [x]) []

/-- Sorted insertion of an identifier. -/
def insertSorted (x : Nat) : List Nat → List Nat
  | [] => [x]
  | y :: l => if x ≤ y then x :: y :: l else y :: insertSorted x l

/-- Keeps the identifiers whose key record equals an EXACT query. DESIGN CHOICE (log 63): R200 gives rows below NROWS alone; of an
identifier at or above it the record at its place is read. -/
def keepEqual (g : Agent) (banks : Tab Word) (t fam : Nat) (h : Hashed) (ids : List Nat) : Eng (List Nat) :=
  ids.filterM fun id => do
    let r ← readRow g banks t fam id
    pure (r.len == h.len && r.key % 2 ^ (8 * h.len) == h.key % 2 ^ (8 * h.len))

/-- The query as a family hashes it. -/
def hashedQuery (q : ProbeReq) (fam : Nat) : Hashed :=
  if faType fam == 3 then ⟨[], q.qdata % 2 ^ 256, q.qlen⟩ else ⟨inputElems (faFmt fam) (faD fam + 1) q.qdata, 0, 0⟩

/-- The identifiers that one family keeps, from its fibres (R207): an EXACT fibre holds only the ids whose key equals the query. -/
def keptIds (q : ProbeReq) (fam : Nat) (fibres : List (List Nat)) : List Nat :=
  (distinct fibres.flatten).filter fun id => faType fam == 3 || bits q.control 4 0 + 1 ≤ (fibres.filter fun l => l.contains id).length

/-- The checks of R206 on a query against a family: its format, and no fewer elements than the family's n. DEDUCED (log 58): this holds of
EXACT families as it is written, and an EXACT query of more than 32 bytes, which R197 gives no signature, fails too. -/
def queryFits (q : ProbeReq) (fam : Nat) : Bool :=
  q.qfmt == faFmt fam && faD fam + 1 ≤ q.qlen && (faType fam != 3 || q.qlen ≤ 32)

/-- The start of a probe: its descriptor is read, its query checked and its signatures taken (R206, R207). -/
def probeBegin (g : Agent) (q : ProbeReq) : Eng ProbeReq := do
  let t ← readTable g q.fams q.table
  if !queryFits q t.fam || faL t.fam < bits q.control 4 0 || t.old.any (fun o => !queryFits q o) then throw (hashConfig q.table)
  else do
    let sigs ← allSignatures g t.fam (hashedQuery q t.fam)
    let old ← match t.old with
      | some o => allSignatures g o (hashedQuery q o)
      | none => pure []
    pure { q with started := true, plan := some ⟨t.desc, sigs, old, 0⟩ }

/-- One fibre of a probe: the identifiers of a bucket with its chain, read whole (R207, R212). -/
def fibreOf (g : Agent) (q : ProbeReq) (desc fam base l sig : Nat) : Eng (List Nat) := do
  let chain ← readChain g desc (tdPooln desc + 2) (bucketAt base desc fam l sig).1
  let ids := distinct (chain.flatMap fun b => b.ids)
  if faType fam == 3 then keepEqual g q.banks desc fam (hashedQuery q fam) ids else pure ids

/-- The next fibre of a probe: the old array is read before the current one (R207). -/
def nextFibre (g : Agent) (q : ProbeReq) (p : Plan) : Eng (List Nat) :=
  let i := q.found.length
  let n := p.oldSigs.length
  if i < n then fibreOf g q p.desc ((findFamily q.fams (tdOfid p.desc)).getD 0) (tdOldb p.desc) i (p.oldSigs.getD i 0)
  else fibreOf g q p.desc ((findFamily q.fams (tdFid p.desc)).getD 0) (tdBuckb p.desc) (i - n) (p.sigs.getD (i - n) 0)

/-- The identifiers that a probe keeps, ascending, once every fibre is read (R207). -/
def probeIds (q : ProbeReq) (p : Plan) : List Nat :=
  let n := p.oldSigs.length
  let old := keptIds q ((findFamily q.fams (tdOfid p.desc)).getD 0) (q.found.take n)
  let new := keptIds q ((findFamily q.fams (tdFid p.desc)).getD 0) (q.found.drop n)
  (distinct (old ++ new)).foldl (fun l x => insertSorted x l) []

/-- The header of an output area (R208). -/
def probeHeader (cause count total : Nat) : List Byte :=
  leBytes 64 (packFields [(1, 1), (8, cause), (32, min total 0xFFFFFFFF), (32, 0), (32, count)])

/-- A probe fails: its header says so and the first pop of its spool faults (R209). -/
def failProbe (s : State) (core : Nat) (q : ProbeReq) (r : Raise) : State :=
  let (err, s1) := match (q.agent.write q.area (probeHeader r.cause 0 0)).on s with
    | (.ok _, s') => (r, s')
    | (.error e, s') => (e, s')
  setRequest (s1.modByUid q.uid (publish q.id 0 0 (some err))) core q.id none

/-- PROBE_START: the probe in turn starts; every earlier update of its strand has performed (R213). -/
def startProbe (s : State) (core : Nat) : State :=
  match probeHead s core with
  | none => s
  | some q =>
    if q.kind != 0 || q.started then s
    else
      match (probeBegin q.agent q).on s with
      | (.error r, s') => failProbe s' core q r
      | (.ok q', s') => setRequest s' core q.id (some q')

/-- The bytes of the identifier elements of a probe's output area, 128 for each (R208). -/
def identifierElems (out : List Nat) : List (List Byte) :=
  let elems := max 1 ((out.length + 31) / 32)
  let data := (out ++ List.replicate (32 * elems - out.length) 0xFFFFFFFF).flatMap (leBytes 4)
  (List.range elems).map fun i => (data.drop (128 * i)).take 128

/-- The end of a probe: its identifier elements are published together, and its header is written behind them (R208). -/
def publishProbe (s : State) (core : Nat) (q : ProbeReq) (ids : List Nat) : State :=
  let out := ids.take (bits q.control 47 32)
  let elems := identifierElems out
  match ((elems.zip (List.range elems.length)).forM fun (b, i) => q.agent.write (q.area + 64 + 128 * i) b).on s with
  | (.error r, s1) => failProbe s1 core q r
  | (.ok _, s1) =>
    let s2 := s1.modByUid q.uid (publish q.id elems.length out.length none)
    match (q.agent.write q.area (probeHeader 0 out.length ids.length)).on s2 with
    | (.ok _, s3) => setRequest s3 core q.id none
    | (.error e, s3) => failProbe s3 core q e

/-- The merge engine of a probe's cluster works at its union: the probe hands it over, it takes a place as the others do, and its kept
identifiers are published (R165, R207, R208). -/
def probeUnion (s : State) (core : Nat) (q : ProbeReq) (p : Plan) : State :=
  match q.union with
  | none => setRequest { s with fresh := s.fresh + 1 } core q.id (some { q with union := some s.fresh })
  | some 0 => publishProbe s core q (probeIds q p)
  | some n => if mergePlace s (clusterOf core) n then setRequest s core q.id (some { q with union := some 0 }) else s

/-- PROBE_END: the probe reads its next bucket, or, with every bucket read, unites them, publishes its identifiers and writes its header,
or fails (R207-R209, R212). -/
def endProbe (s : State) (core : Nat) : State :=
  match probeHead s core with
  | none => s
  | some q =>
    if q.kind != 0 || !q.started then s
    else
      match q.plan with
      | none => s
      | some p =>
        if q.found.length < p.sigs.length + p.oldSigs.length then
          match (nextFibre q.agent q p).on s with
          | (.error r, s') => failProbe s' core q r
          | (.ok l, s') => setRequest s' core q.id (some { q with found := q.found ++ [l] })
        else probeUnion s core q p

def execProbeStart (core _ctx : Nat) (s : State) : Host.Outcome State Fault Refusal := .next (startProbe s core)
def execProbeEnd (core _ctx : Nat) (s : State) : Host.Outcome State Fault Refusal := .next (endProbe s core)
def execUpdateStart (core _ctx : Nat) (s : State) : Host.Outcome State Fault Refusal := .next (startUpdate s core)
def execUpdateEnd (core _ctx : Nat) (s : State) : Host.Outcome State Fault Refusal := .next (endUpdate s core)

end Sys2Proof.Machine
end

