-- ==== Sys2Proof/Machine/Scalar.lean ====
section
/-!
DEFINITION. The integer instructions of the A and B slots (R334, R335, R346, R356, R362, R363, R370, R387, R392, R394, R403,
R408, R409, R411, R414, R418, R421, R449): guards, queue operands, results and latencies.
-/
namespace Sys2Proof.Machine

open Sys2Proof

/-! ### The functions of two words -/

/-- ADD and SUB under MODE 0-2: wrapping, clamped signed, clamped unsigned (R334, R421). -/
def clampMode (mode : Nat) (signed unsigned : Int) : Word :=
  match mode with
  | 0 => BitVec.ofInt 64 unsigned
  | 1 => w64 (satInt 3 signed)
  | _ => w64 (satInt 7 unsigned)

def addWords (mode : Nat) (a b : Word) : Word := clampMode mode (a.toInt + b.toInt) (a.toNat + b.toNat)
def subWords (mode : Nat) (a b : Word) : Word := clampMode mode (a.toInt - b.toInt) ((a.toNat : Int) - b.toNat)

/-- The upper halves of the products (R408). -/
def mulHigh (a b : Word) : Word := BitVec.ofInt 64 ((a.toInt * b.toInt) / 2 ^ 64)
def mulHighN (a b : Word) : Word := w64 (a.toNat * b.toNat / 2 ^ 64)

/-- Quotients and remainders, truncating (R7, R95, R370). -/
def divWords (a b : Word) : Word := BitVec.ofInt 64 (a.toInt.tdiv b.toInt)
def divWordsN (a b : Word) : Word := w64 (a.toNat / b.toNat)
def remWords (a b : Word) : Word := BitVec.ofInt 64 (a.toInt.tmod b.toInt)
def remWordsN (a b : Word) : Word := w64 (a.toNat % b.toNat)

/-- Shifts by the low six bits (R414). -/
def shlWord (a b : Word) : Word := a <<< (b.toNat % 64)
def shrWord (a b : Word) : Word := a >>> (b.toNat % 64)
def sarWord (a b : Word) : Word := a.sshiftRight (b.toNat % 64)

/-- Extremes as i64 and as n64 (R403). -/
def minWord (a b : Word) : Word := if b.toInt < a.toInt then b else a
def maxWord (a b : Word) : Word := if a.toInt < b.toInt then b else a
def minWordN (a b : Word) : Word := if b.toNat < a.toNat then b else a
def maxWordN (a b : Word) : Word := if a.toNat < b.toNat then b else a

/-- The zeros above the highest 1 and below the lowest 1, and the ones (R362, R411). -/
def clzWord (a : Word) : Word := w64 (64 - bitLength a.toNat)
def ctzWord (a : Word) : Word := w64 (((List.range 64).find? fun i => a.getLsbD i).getD 64)
def popcWord (a : Word) : Word := w64 ((List.range 64).filter fun i => a.getLsbD i).length

/-- BFX and BFI (R356). -/
def bfxWord (a : Word) (pos len : Nat) (sx : Bool) : Word :=
  let f := a.toNat / 2 ^ pos % 2 ^ len
  if sx then BitVec.ofInt 64 (signedOf len f) else w64 f
def bfiWord (d a : Word) (pos len : Nat) : Word :=
  let m := w64 ((2 ^ len - 1) * 2 ^ pos)
  (d &&& ~~~m) ||| w64 (a.toNat % 2 ^ len * 2 ^ pos)

/-- LEA (R392). -/
def leaWord (a b : Word) (sh : Nat) (imm : BitVec 17) : Word := a + (b <<< sh) + imm.signExtend 64

/-- LIH (R394). -/
def lihWord (d : Word) (imm : BitVec 31) : Word := (d <<< 31) ||| imm.zeroExtend 64

/-- CMP and CMPI (R363). -/
def cmpWords (cc fmt : Nat) (a b : Word) : Bool := intCompare fmt cc a.toNat b.toNat
def cmpiWord (cc : Nat) (a : Word) (imm : BitVec 20) : Bool := cmpWords (cc % 8) (if 8 ≤ cc then 7 else 3) a (imm.signExtend 64)

/-! ### The operand forms -/

/-- xd := f(xa, xb) after `lat`, with queue operands (R387). -/
def scalar2 (t : Tag) (xd xa xb : XReg) (lat : Nat) (f : Word → Word → Word) : Op Unit := guarded t do
  let a ← getXQ xa
  let b ← getXQ xb
  putXQ lat xd (f a b)

/-- xd := f(xa) after `lat`. -/
def scalar1 (t : Tag) (xd xa : XReg) (lat : Nat) (f : Word → Word) : Op Unit := guarded t do
  let a ← getXQ xa
  putXQ lat xd (f a)

/-- A division, which faults on a zero divisor (R370). -/
def division (t : Tag) (xd xa xb : XReg) (f : Word → Word → Word) : Op Unit := guarded t do
  let a ← getXQ xa
  let b ← getXQ xb
  check (b != 0) cDivideZero
  putXQ 18 xd (f a b)

/-! ### The operations -/

def opAdd (t : Tag) (xd xa xb : XReg) (mode : BitVec 2) : Op Unit := scalar2 t xd xa xb 1 (addWords mode.toNat)
def opAddi (t : Tag) (xd xa : XReg) (imm : BitVec 25) : Op Unit := scalar1 t xd xa 1 fun a => a + imm.signExtend 64
def opSub (t : Tag) (xd xa xb : XReg) (mode : BitVec 2) : Op Unit := scalar2 t xd xa xb 1 (subWords mode.toNat)
def opMul (t : Tag) (xd xa xb : XReg) : Op Unit := scalar2 t xd xa xb 3 fun a b => a * b
def opMulh (t : Tag) (xd xa xb : XReg) : Op Unit := scalar2 t xd xa xb 3 mulHigh
def opMulhn (t : Tag) (xd xa xb : XReg) : Op Unit := scalar2 t xd xa xb 3 mulHighN
def opDiv (t : Tag) (xd xa xb : XReg) : Op Unit := division t xd xa xb divWords
def opDivn (t : Tag) (xd xa xb : XReg) : Op Unit := division t xd xa xb divWordsN
def opRem (t : Tag) (xd xa xb : XReg) : Op Unit := division t xd xa xb remWords
def opRemn (t : Tag) (xd xa xb : XReg) : Op Unit := division t xd xa xb remWordsN
def opAnd (t : Tag) (xd xa xb : XReg) : Op Unit := scalar2 t xd xa xb 1 fun a b => a &&& b
def opAndi (t : Tag) (xd xa : XReg) (imm : BitVec 25) : Op Unit := scalar1 t xd xa 1 fun a => a &&& imm.signExtend 64
def opOr (t : Tag) (xd xa xb : XReg) : Op Unit := scalar2 t xd xa xb 1 fun a b => a ||| b
def opOri (t : Tag) (xd xa : XReg) (imm : BitVec 25) : Op Unit := scalar1 t xd xa 1 fun a => a ||| imm.signExtend 64
def opXor (t : Tag) (xd xa xb : XReg) : Op Unit := scalar2 t xd xa xb 1 fun a b => a ^^^ b
def opXori (t : Tag) (xd xa : XReg) (imm : BitVec 25) : Op Unit := scalar1 t xd xa 1 fun a => a ^^^ imm.signExtend 64
def opShl (t : Tag) (xd xa xb : XReg) : Op Unit := scalar2 t xd xa xb 1 shlWord
def opShli (t : Tag) (xd xa : XReg) (amount : BitVec 6) : Op Unit := scalar1 t xd xa 1 fun a => shlWord a (amount.zeroExtend 64)
def opShr (t : Tag) (xd xa xb : XReg) : Op Unit := scalar2 t xd xa xb 1 shrWord
def opShri (t : Tag) (xd xa : XReg) (amount : BitVec 6) : Op Unit := scalar1 t xd xa 1 fun a => shrWord a (amount.zeroExtend 64)
def opSar (t : Tag) (xd xa xb : XReg) : Op Unit := scalar2 t xd xa xb 1 sarWord
def opSari (t : Tag) (xd xa : XReg) (amount : BitVec 6) : Op Unit := scalar1 t xd xa 1 fun a => sarWord a (amount.zeroExtend 64)
def opMin (t : Tag) (xd xa xb : XReg) : Op Unit := scalar2 t xd xa xb 1 minWord
def opMax (t : Tag) (xd xa xb : XReg) : Op Unit := scalar2 t xd xa xb 1 maxWord
def opMinn (t : Tag) (xd xa xb : XReg) : Op Unit := scalar2 t xd xa xb 1 minWordN
def opMaxn (t : Tag) (xd xa xb : XReg) : Op Unit := scalar2 t xd xa xb 1 maxWordN
def opCmp (t : Tag) (pd : PReg) (xa xb : XReg) (cc fmt : BitVec 4) : Op Unit := guarded t do
  let a ← getXQ xa
  let b ← getXQ xb
  putP 1 pd (cmpWords cc.toNat fmt.toNat a b)
def opCmpi (t : Tag) (pd : PReg) (xa : XReg) (cc : BitVec 4) (imm : BitVec 20) : Op Unit := guarded t do
  let a ← getXQ xa
  putP 1 pd (cmpiWord cc.toNat a imm)
def opSel (t : Tag) (xd xa xb : XReg) (ps : PReg) : Op Unit := guarded t do
  let a ← getXQ xa
  let b ← getXQ xb
  let p ← getP ps
  putXQ 1 xd (if p then a else b)
def opLea (t : Tag) (xd xa xb : XReg) (sh : BitVec 2) (imm : BitVec 17) : Op Unit := scalar2 t xd xa xb 1 fun a b => leaWord a b sh.toNat imm
def opLi (t : Tag) (xd : XReg) (imm : BitVec 31) : Op Unit := guarded t do
  putXQ 1 xd (imm.signExtend 64)
def opLih (t : Tag) (xd : XReg) (imm : BitVec 31) : Op Unit := guarded t do
  let d ← getXQ xd
  putXQ 1 xd (lihWord d imm)
def opClz (t : Tag) (xd xa : XReg) : Op Unit := scalar1 t xd xa 1 clzWord
def opCtz (t : Tag) (xd xa : XReg) : Op Unit := scalar1 t xd xa 1 ctzWord
def opPopc (t : Tag) (xd xa : XReg) : Op Unit := scalar1 t xd xa 1 popcWord
def opBfx (t : Tag) (xd xa : XReg) (pos lm1 : BitVec 6) (sx : BitVec 1) : Op Unit := scalar1 t xd xa 1 fun a => bfxWord a pos.toNat (lm1.toNat + 1) (sx == 1)
def opBfi (t : Tag) (xd xa : XReg) (pos lm1 : BitVec 6) : Op Unit := guarded t do
  let a ← getXQ xa
  let d ← getXQ xd
  putXQ 1 xd (bfiWord d a pos.toNat (lm1.toNat + 1))

/-! ### The meanings -/

def execAdd (t : Tag) (xd xa xb : XReg) (mode : BitVec 2) (s : State) : Host.Outcome State Fault Refusal :=
  issueOne (.add t xd xa xb mode) (opAdd t xd xa xb mode) s
def execAddi (t : Tag) (xd xa : XReg) (imm : BitVec 25) (s : State) : Host.Outcome State Fault Refusal :=
  issueOne (.addi t xd xa imm) (opAddi t xd xa imm) s
def execSub (t : Tag) (xd xa xb : XReg) (mode : BitVec 2) (s : State) : Host.Outcome State Fault Refusal :=
  issueOne (.sub t xd xa xb mode) (opSub t xd xa xb mode) s
def execMul (t : Tag) (xd xa xb : XReg) (s : State) : Host.Outcome State Fault Refusal :=
  issueOne (.mul t xd xa xb) (opMul t xd xa xb) s
def execMulh (t : Tag) (xd xa xb : XReg) (s : State) : Host.Outcome State Fault Refusal :=
  issueOne (.mulh t xd xa xb) (opMulh t xd xa xb) s
def execMulhn (t : Tag) (xd xa xb : XReg) (s : State) : Host.Outcome State Fault Refusal :=
  issueOne (.mulhn t xd xa xb) (opMulhn t xd xa xb) s
def execDiv (t : Tag) (xd xa xb : XReg) (s : State) : Host.Outcome State Fault Refusal :=
  issueOne (.div t xd xa xb) (opDiv t xd xa xb) s
def execDivn (t : Tag) (xd xa xb : XReg) (s : State) : Host.Outcome State Fault Refusal :=
  issueOne (.divn t xd xa xb) (opDivn t xd xa xb) s
def execRem (t : Tag) (xd xa xb : XReg) (s : State) : Host.Outcome State Fault Refusal :=
  issueOne (.rem t xd xa xb) (opRem t xd xa xb) s
def execRemn (t : Tag) (xd xa xb : XReg) (s : State) : Host.Outcome State Fault Refusal :=
  issueOne (.remn t xd xa xb) (opRemn t xd xa xb) s
def execAnd (t : Tag) (xd xa xb : XReg) (s : State) : Host.Outcome State Fault Refusal :=
  issueOne (.and t xd xa xb) (opAnd t xd xa xb) s
def execAndi (t : Tag) (xd xa : XReg) (imm : BitVec 25) (s : State) : Host.Outcome State Fault Refusal :=
  issueOne (.andi t xd xa imm) (opAndi t xd xa imm) s
def execOr (t : Tag) (xd xa xb : XReg) (s : State) : Host.Outcome State Fault Refusal :=
  issueOne (.or t xd xa xb) (opOr t xd xa xb) s
def execOri (t : Tag) (xd xa : XReg) (imm : BitVec 25) (s : State) : Host.Outcome State Fault Refusal :=
  issueOne (.ori t xd xa imm) (opOri t xd xa imm) s
def execXor (t : Tag) (xd xa xb : XReg) (s : State) : Host.Outcome State Fault Refusal :=
  issueOne (.xor t xd xa xb) (opXor t xd xa xb) s
def execXori (t : Tag) (xd xa : XReg) (imm : BitVec 25) (s : State) : Host.Outcome State Fault Refusal :=
  issueOne (.xori t xd xa imm) (opXori t xd xa imm) s
def execShl (t : Tag) (xd xa xb : XReg) (s : State) : Host.Outcome State Fault Refusal :=
  issueOne (.shl t xd xa xb) (opShl t xd xa xb) s
def execShli (t : Tag) (xd xa : XReg) (amount : BitVec 6) (s : State) : Host.Outcome State Fault Refusal :=
  issueOne (.shli t xd xa amount) (opShli t xd xa amount) s
def execShr (t : Tag) (xd xa xb : XReg) (s : State) : Host.Outcome State Fault Refusal :=
  issueOne (.shr t xd xa xb) (opShr t xd xa xb) s
def execShri (t : Tag) (xd xa : XReg) (amount : BitVec 6) (s : State) : Host.Outcome State Fault Refusal :=
  issueOne (.shri t xd xa amount) (opShri t xd xa amount) s
def execSar (t : Tag) (xd xa xb : XReg) (s : State) : Host.Outcome State Fault Refusal :=
  issueOne (.sar t xd xa xb) (opSar t xd xa xb) s
def execSari (t : Tag) (xd xa : XReg) (amount : BitVec 6) (s : State) : Host.Outcome State Fault Refusal :=
  issueOne (.sari t xd xa amount) (opSari t xd xa amount) s
def execMin (t : Tag) (xd xa xb : XReg) (s : State) : Host.Outcome State Fault Refusal :=
  issueOne (.min t xd xa xb) (opMin t xd xa xb) s
def execMax (t : Tag) (xd xa xb : XReg) (s : State) : Host.Outcome State Fault Refusal :=
  issueOne (.max t xd xa xb) (opMax t xd xa xb) s
def execMinn (t : Tag) (xd xa xb : XReg) (s : State) : Host.Outcome State Fault Refusal :=
  issueOne (.minn t xd xa xb) (opMinn t xd xa xb) s
def execMaxn (t : Tag) (xd xa xb : XReg) (s : State) : Host.Outcome State Fault Refusal :=
  issueOne (.maxn t xd xa xb) (opMaxn t xd xa xb) s
def execCmp (t : Tag) (pd : PReg) (xa xb : XReg) (cc fmt : BitVec 4) (s : State) : Host.Outcome State Fault Refusal :=
  issueOne (.cmp t pd xa xb cc fmt) (opCmp t pd xa xb cc fmt) s
def execCmpi (t : Tag) (pd : PReg) (xa : XReg) (cc : BitVec 4) (imm : BitVec 20) (s : State) : Host.Outcome State Fault Refusal :=
  issueOne (.cmpi t pd xa cc imm) (opCmpi t pd xa cc imm) s
def execSel (t : Tag) (xd xa xb : XReg) (ps : PReg) (s : State) : Host.Outcome State Fault Refusal :=
  issueOne (.sel t xd xa xb ps) (opSel t xd xa xb ps) s
def execLea (t : Tag) (xd xa xb : XReg) (sh : BitVec 2) (imm : BitVec 17) (s : State) : Host.Outcome State Fault Refusal :=
  issueOne (.lea t xd xa xb sh imm) (opLea t xd xa xb sh imm) s
def execLi (t : Tag) (xd : XReg) (imm : BitVec 31) (s : State) : Host.Outcome State Fault Refusal :=
  issueOne (.li t xd imm) (opLi t xd imm) s
def execLih (t : Tag) (xd : XReg) (imm : BitVec 31) (s : State) : Host.Outcome State Fault Refusal :=
  issueOne (.lih t xd imm) (opLih t xd imm) s
def execClz (t : Tag) (xd xa : XReg) (s : State) : Host.Outcome State Fault Refusal :=
  issueOne (.clz t xd xa) (opClz t xd xa) s
def execCtz (t : Tag) (xd xa : XReg) (s : State) : Host.Outcome State Fault Refusal :=
  issueOne (.ctz t xd xa) (opCtz t xd xa) s
def execPopc (t : Tag) (xd xa : XReg) (s : State) : Host.Outcome State Fault Refusal :=
  issueOne (.popc t xd xa) (opPopc t xd xa) s
def execBfx (t : Tag) (xd xa : XReg) (pos lm1 : BitVec 6) (sx : BitVec 1) (s : State) : Host.Outcome State Fault Refusal :=
  issueOne (.bfx t xd xa pos lm1 sx) (opBfx t xd xa pos lm1 sx) s
def execBfi (t : Tag) (xd xa : XReg) (pos lm1 : BitVec 6) (s : State) : Host.Outcome State Fault Refusal :=
  issueOne (.bfi t xd xa pos lm1) (opBfi t xd xa pos lm1) s

end Sys2Proof.Machine
end

