-- ==== Sys2Proof/Machine/ScalarFloat.lean ====
section
/-!
DEFINITION. Scalar floating point (R375, R378, R379): one rounding, the flags of R104 and R105 at landing, latency 4.
-/
namespace Sys2Proof.Machine

open Sys2Proof

/-- The low bits of a word that a format's width gives. -/
def lowFmt (f : Nat) (v : Word) : Nat := v.toNat % 2 ^ fmtBits f

/-- A result and its flags, both landing at issue + 4 (R375). -/
def putFloat (xd : XReg) (r : Nat × Nat) : Op Unit := do
  putXQ 4 xd (w64 r.1)
  emitFlags 4 r.2

/-- A rounded operation on two values of a format. -/
def float2 (t : Tag) (xd xa xb : XReg) (fmt : Fmt) (rm : BitVec 3) (f : Nat → Round → Nat → Nat → Nat × Nat) : Op Unit := guarded t do
  let a ← getXQ xa
  let b ← getXQ xb
  let r ← getRound rm
  putFloat xd (f fmt.toNat r (lowFmt fmt.toNat a) (lowFmt fmt.toNat b))

/-- FMIN and FMAX, which raise no flag (R99). -/
def floatExtreme (t : Tag) (xd xa xb : XReg) (fmt : Fmt) (isMax : Bool) : Op Unit := guarded t do
  let a ← getXQ xa
  let b ← getXQ xb
  putXQ 4 xd (w64 (fMinMax fmt.toNat isMax (lowFmt fmt.toNat a) (lowFmt fmt.toNat b)))

/-- The 64-bit form of a converted value (R379). -/
def widenResult (fd v : Nat) : Word := if isIntFmt fd then w64 (intExtend fd v) else w64 v

def opFadd (t : Tag) (xd xa xb : XReg) (fmt : Fmt) (rm : BitVec 3) : Op Unit := float2 t xd xa xb fmt rm fAdd
def opFsub (t : Tag) (xd xa xb : XReg) (fmt : Fmt) (rm : BitVec 3) : Op Unit := float2 t xd xa xb fmt rm fSub
def opFmul (t : Tag) (xd xa xb : XReg) (fmt : Fmt) (rm : BitVec 3) : Op Unit := float2 t xd xa xb fmt rm fMul
def opFfma (t : Tag) (xd xa xb xc : XReg) (fmt : Fmt) (rm : BitVec 3) : Op Unit := guarded t do
  let a ← getXQ xa
  let b ← getXQ xb
  let c ← getXQ xc
  let r ← getRound rm
  let f := fmt.toNat
  putFloat xd (fFma f r (lowFmt f a) (lowFmt f b) (lowFmt f c))
def opFmin (t : Tag) (xd xa xb : XReg) (fmt : Fmt) : Op Unit := floatExtreme t xd xa xb fmt false
def opFmax (t : Tag) (xd xa xb : XReg) (fmt : Fmt) : Op Unit := floatExtreme t xd xa xb fmt true
def opFcmp (t : Tag) (pd : PReg) (xa xb : XReg) (cc fmt : BitVec 4) : Op Unit := guarded t do
  let a ← getXQ xa
  let b ← getXQ xb
  putP 4 pd (floatCompare fmt.toNat cc.toNat (lowFmt fmt.toNat a) (lowFmt fmt.toNat b))
def opFcvt (t : Tag) (xd xa : XReg) (fd fs : Fmt) (rm : BitVec 3) (sat : BitVec 1) : Op Unit := guarded t do
  let a ← getXQ xa
  let r ← getRound rm
  let (v, fl) := convert fd.toNat fs.toNat r (sat == 1) a.toNat
  putXQ 4 xd (widenResult fd.toNat v)
  emitFlags 4 fl

/-! ### The meanings -/

def execFadd (t : Tag) (xd xa xb : XReg) (fmt : Fmt) (rm : BitVec 3) (s : State) : Host.Outcome State Fault Refusal :=
  issueOne (.fadd t xd xa xb fmt rm) (opFadd t xd xa xb fmt rm) s
def execFsub (t : Tag) (xd xa xb : XReg) (fmt : Fmt) (rm : BitVec 3) (s : State) : Host.Outcome State Fault Refusal :=
  issueOne (.fsub t xd xa xb fmt rm) (opFsub t xd xa xb fmt rm) s
def execFmul (t : Tag) (xd xa xb : XReg) (fmt : Fmt) (rm : BitVec 3) (s : State) : Host.Outcome State Fault Refusal :=
  issueOne (.fmul t xd xa xb fmt rm) (opFmul t xd xa xb fmt rm) s
def execFfma (t : Tag) (xd xa xb xc : XReg) (fmt : Fmt) (rm : BitVec 3) (s : State) : Host.Outcome State Fault Refusal :=
  issueOne (.ffma t xd xa xb xc fmt rm) (opFfma t xd xa xb xc fmt rm) s
def execFmin (t : Tag) (xd xa xb : XReg) (fmt : Fmt) (s : State) : Host.Outcome State Fault Refusal :=
  issueOne (.fmin t xd xa xb fmt) (opFmin t xd xa xb fmt) s
def execFmax (t : Tag) (xd xa xb : XReg) (fmt : Fmt) (s : State) : Host.Outcome State Fault Refusal :=
  issueOne (.fmax t xd xa xb fmt) (opFmax t xd xa xb fmt) s
def execFcmp (t : Tag) (pd : PReg) (xa xb : XReg) (cc fmt : BitVec 4) (s : State) : Host.Outcome State Fault Refusal :=
  issueOne (.fcmp t pd xa xb cc fmt) (opFcmp t pd xa xb cc fmt) s
def execFcvt (t : Tag) (xd xa : XReg) (fd fs : Fmt) (rm : BitVec 3) (sat : BitVec 1) (s : State) : Host.Outcome State Fault Refusal :=
  issueOne (.fcvt t xd xa fd fs rm sat) (opFcvt t xd xa fd fs rm sat) s

end Sys2Proof.Machine
end

