-- ==== Sys2Proof/Machine/Tlb.lean ====
section
/-!
DEFINITION. Translations ended and walks completed (R135, R423, R424): TLBI and WALK_COMPLETE.
-/
namespace Sys2Proof.Machine

open Sys2Proof

/-- Which translations a TLBI names: an address space, and the page that holds an address. -/
structure TlbTarget where
  asid : Option Nat
  va : Option Nat
deriving DecidableEq, Repr

/-- Whether an entry for a page of `2 ^ bits` bytes is named. -/
def TlbTarget.hits (g : TlbTarget) (asid va bits : Nat) : Bool :=
  (match g.asid with
   | none => true
   | some a => a == asid) &&
  (match g.va with
   | none => true
   | some v => v / 2 ^ bits == va / 2 ^ bits)

/-- Every TLB of the package loses the entries named; a walk under way that would make one makes none (R424). -/
def invalidate (s : State) (g : TlbTarget) : State :=
  { s with
    tlb := s.tlb.filter fun e => !g.hits e.asid (e.page * 2 ^ e.bits) e.bits
    walks := s.walks.map fun w => if g.hits w.asid w.va (walkBits s w.asid w.va) then { w with noFill := true } else w }

/-- TLBI under its privilege check (R423). -/
def tlbiOp (target : Op TlbTarget) : Op Unit := do
  let s ← get
  check s.priv cPrivilege
  let g ← target
  modify fun s => invalidate s g

def opTlbiAll (t : Tag) : Op Unit := guarded t do tlbiOp (pure ⟨none, none⟩)
def opTlbiAs (t : Tag) (xb : XReg) : Op Unit := guarded t do
  tlbiOp do
    let b ← getX xb
    pure ⟨some (bits b.toNat 11 0), none⟩
def opTlbiPage (t : Tag) (xa xb : XReg) : Op Unit := guarded t do
  tlbiOp do
    let a ← getX xa
    let b ← getX xb
    pure ⟨some (bits b.toNat 11 0), some (bits a.toNat 56 0)⟩

def execTlbiAll (t : Tag) (s : State) : Host.Outcome State Fault Refusal := issueOne (.tlbiAll t) (opTlbiAll t) s
def execTlbiAs (t : Tag) (xb : XReg) (s : State) : Host.Outcome State Fault Refusal := issueOne (.tlbiAs t xb) (opTlbiAs t xb) s
def execTlbiPage (t : Tag) (xa xb : XReg) (s : State) : Host.Outcome State Fault Refusal :=
  issueOne (.tlbiPage t xa xb) (opTlbiPage t xa xb) s

/-- WALK_COMPLETE (R135): the walk reads the tables, makes its entries, and hands every strand and engine that waits its result. -/
def walkDone (s : State) (id : Nat) : State :=
  match s.walks.find? fun w => w.id == id with
  | none => s
  | some w =>
    let m := walkTables s w.asid w.va
    let s0 : State := { s with walks := s.walks.filter fun x => x.id != id }
    let filled := match m with
      | some m => if w.noFill then s0 else (w.waiters.map keyCore ++ w.agents.map Prod.fst).foldl (fun s o => tlbFill s o w.asid w.va m) s0
      | none => s0
    let result : Walked := match m with
      | some m => ⟨w.asid, w.va / 2 ^ m.bits, m.bits, m.frame, m.perms, true⟩
      | none => ⟨w.asid, w.va / 2 ^ 16, 16, 0, 0, false⟩
    w.waiters.foldl (fun s k => match s.strandAt k with
      | some st => if st.ident.asid == w.asid then s.setStrandAt k { st with walked := st.walked ++ [result] } else s
      | none => s) { filled with turn := { filled.turn with walked := filled.turn.walked ++ w.agents.map fun a => (a.2, a.1, result) } }

def execWalkComplete (id : Nat) (s : State) : Host.Outcome State Fault Refusal := .next (walkDone s id)

end Sys2Proof.Machine
end

