-- ==== Sys2Proof/Machine/Transposer.lean ====
section
/-!
DEFINITION. The T slot (R192, R427, R428): the transposer and its buffer of 128 rows.
-/
namespace Sys2Proof.Machine

open Sys2Proof

/-- The 128 bytes that TXIN samples, at the place that its operand names at the issue (R78, R270); poison among them is a post-issue fault
(R428). -/
def transposerRead (v : Nat) : Op Nat := do
  let a ← operand do
    let s ← get
    formCheck (vectorFits s v) cView
    touch fun d => d.isV (vectorAddr s v)
    pure (vectorAddr s v)
  failable do
    let s ← get
    match s.poisoned a 128 with
    | some w => throw (.post ⟨cPoison, w64 w, true⟩ 1000)
    | none => pure (s.readNat a 128)

/-- TXIN (R192, R427). -/
def opTxin (t : Tag) (va : VReg) (_pa : Port) (row : BitVec 7) : Op Unit := guarded t do
  forbidden true true
  let v ← if va.isSpool then getV va else transposerRead va.toNat
  emit 4 (.txRow row.toNat v)

/-- The 128 bytes that TXOUT gives: element m is bytes c·w to c·w + w − 1 of buffer row h·(128/w) + m (R192). -/
def transposed (buf : Tab Nat) (c h w : Nat) : Nat :=
  ofElems w ((List.range (128 / w)).map fun m =>
    elemOf w c ((tabGet buf (h * (128 / w) + m)).getD 0))

/-- TXOUT (R192, R427). -/
def opTxout (t : Tag) (vd : VReg) (ci : BitVec 7) (h wl : BitVec 2) : Op Unit := guarded t do
  forbidden true true
  let st ← getStrand
  putV 4 vd (transposed st.arr.tbuf ci.toNat h.toNat (2 ^ wl.toNat))

/-- TXCLR (R192). -/
def opTxclr (t : Tag) : Op Unit := guarded t do
  forbidden true true
  emit 1 .txClear

def execTxin (t : Tag) (va : VReg) (pa : Port) (row : BitVec 7) (s : State) : Host.Outcome State Fault Refusal :=
  issueOne (.txin t va pa row) (opTxin t va pa row) s
def execTxout (t : Tag) (vd : VReg) (ci : BitVec 7) (h wl : BitVec 2) (s : State) : Host.Outcome State Fault Refusal :=
  issueOne (.txout t vd ci h wl) (opTxout t vd ci h wl) s
def execTxclr (t : Tag) (s : State) : Host.Outcome State Fault Refusal := issueOne (.txclr t) (opTxclr t) s

end Sys2Proof.Machine
end

