-- ==== Sys2Proof/Machine/Vector.lean ====
section
/-!
DEFINITION. The V and W slots (R430-R440, R443-R447): elementwise arithmetic, logic, shifts, comparison, conversion, permutation,
reduction, the transcendentals, the logits mask and the 4:8 compression.
-/
namespace Sys2Proof.Machine

open Sys2Proof

/-! ### Elements (R313, R431) -/

/-- The format code that an element type names. -/
def etFmt (e : ElemType) : Nat := if ElemType.isInt e then e.toNat / 4 else 8 + e.toNat % 4

/-- The rounding mode of a float element type. -/
def etRound (e : ElemType) : Op Round :=
  if ElemType.isInt e then pure .rne else getRound (BitVec.ofNat 3 (e.toNat / 4))

/-- The elements of a vector, of `w` bytes each. -/
def elems (w v : Nat) : List Nat := (List.range (128 / w)).map fun i => elemOf w i v

/-- A vector of results with the OR of their flags. -/
def gather (w : Nat) (l : List (Nat × Nat)) : Nat × Nat := (ofElems w (l.map Prod.fst), orFlags l)

/-- Applies a function to each pair of elements. -/
def zipElems (w : Nat) (f : Nat → Nat → Nat × Nat) (a b : Nat) : Nat × Nat :=
  gather w (((elems w a).zip (elems w b)).map fun p => f p.1 p.2)

/-- Applies a function to each element. -/
def mapElems (w : Nat) (f : Nat → Nat × Nat) (a : Nat) : Nat × Nat := gather w ((elems w a).map f)

/-- A vector result and its flags, landing together. -/
def putVF (lat : Nat) (vd : VReg) (r : Nat × Nat) : Op Unit := do
  putV lat vd r.1
  emitFlags lat r.2

/-- vd[i] := f(va[i], vb[i]). -/
def vector2 (t : Tag) (vd va vb : VReg) (et : ElemType) (lat : Nat) (f : Nat → Round → Nat → Nat → Nat × Nat) : Op Unit := guarded t do
  let a ← getV va
  let b ← getV vb
  let r ← etRound et
  putVF lat vd (zipElems (ElemType.bytes et) (f (etFmt et) r) a b)

/-- vd[i] := f(va[i]). -/
def vector1 (t : Tag) (vd va : VReg) (et : ElemType) (lat : Nat) (f : Nat → Round → Nat → Nat × Nat) : Op Unit := guarded t do
  let a ← getV va
  let r ← etRound et
  putVF lat vd (mapElems (ElemType.bytes et) (f (etFmt et) r) a)

/-- The latency of an operation by its class (R431, R432). -/
def byClass (et : ElemType) (int float : Nat) : Nat := if ElemType.isInt et then int else float

/-! ### The functions of elements (R432-R434) -/

/-- A sum or difference, or the product: wrapped, or with SX clamped, in integers; rounded in floats. -/
def elemAdd (sx : Bool) (f : Nat) (r : Round) (a b : Nat) : Nat × Nat :=
  if isIntFmt f then
    let x := intValue f a + intValue f b
    (if sx then satInt f x else intEncode f x, 0)
  else fAdd f r a b
def elemSub (sx : Bool) (f : Nat) (r : Round) (a b : Nat) : Nat × Nat :=
  if isIntFmt f then
    let x := intValue f a - intValue f b
    (if sx then satInt f x else intEncode f x, 0)
  else fSub f r a b
def elemMul (f : Nat) (r : Round) (a b : Nat) : Nat × Nat :=
  if isIntFmt f then (intEncode f (intValue f a * intValue f b), 0) else fMul f r a b

/-- The smaller or larger of two elements. -/
def elemExtreme (isMax : Bool) (f : Nat) (_ : Round) (a b : Nat) : Nat × Nat :=
  if isIntFmt f then
    let less := intValue f a < intValue f b
    (if less == isMax then b else a, 0)
  else (fMinMax f isMax a b, 0)

/-- The magnitude of an element; for n the element itself. -/
def elemAbs (f : Nat) (_ : Round) (a : Nat) : Nat × Nat :=
  if isIntFmt f then (intEncode f (if intSigned f then ((intValue f a).natAbs : Int) else intValue f a), 0)
  else if (floatValue f a).isNaN then (canonNaN f, 0)
  else (a % 2 ^ (floatBits f - 1), 0)

/-- The negation of an element. -/
def elemNeg (f : Nat) (_ : Round) (a : Nat) : Nat × Nat :=
  if isIntFmt f then (intEncode f (-(intValue f a)), 0)
  else if (floatValue f a).isNaN then (canonNaN f, 0)
  else (a ^^^ 2 ^ (floatBits f - 1), 0)

/-- The shifts of elements of `w` bytes by an amount modulo 8w (R434). -/
def elemShl (w a b : Nat) : Nat := a * 2 ^ (b % (8 * w)) % 2 ^ (8 * w)
def elemShr (w a b : Nat) : Nat := a / 2 ^ (b % (8 * w))
def elemSar (w a b : Nat) : Nat := wrap (8 * w) (signedOf (8 * w) a / 2 ^ (b % (8 * w)))

/-- Bitwise logic over the whole vector (R434). -/
def logic2 (t : Tag) (vd va vb : VReg) (f : Nat → Nat → Nat) : Op Unit := guarded t do
  let a ← getV va
  let b ← getV vb
  putV 2 vd (f a b)

/-- A shift. -/
def shift2 (t : Tag) (vd va vb : VReg) (et : ElemType) (f : Nat → Nat → Nat → Nat) : Op Unit :=
  vector2 t vd va vb et 2 fun _ _ a b => (f (ElemType.bytes et) a b, 0)

/-- A comparison of elements (R436). -/
def elemCmp (f cc a b : Nat) : Bool := if isIntFmt f then intCompare f cc a b else floatCompare f cc a b

/-- The conversion of a vector with its placement by PART (R437). -/
def convertVector (fd fs : Nat) (r : Round) (sat : Bool) (part v : Nat) : Nat × Nat :=
  let wd := fmtBytes fd
  let ws := fmtBytes fs
  let conv := convert fd fs r sat
  if wd < ws then
    let k := 128 / ws
    let l := (elems ws v).map conv
    gather wd (List.replicate (part * k) (0, 0) ++ l)
  else
    let k := 128 / wd
    gather wd (((elems ws v).drop (part * k)).take k |>.map conv)

/-! ### Reductions (R433, R445) -/

/-- The largest magnitude, as VAMAX writes it. -/
def largestMagnitude (f : Nat) (l : List Nat) : Nat :=
  if isIntFmt f then (l.map fun a => (intValue f a).natAbs).foldl max 0
  else
    match l.filter fun a => !(floatValue f a).isNaN with
    | [] => canonNaN f
    | m => (m.map fun a => a % 2 ^ (floatBits f - 1)).foldl max 0

/-- Whether element b orders strictly above a, for VARGMX. -/
def ordersAbove (f a b : Nat) : Bool := if isIntFmt f then intValue f a < intValue f b else floatBelow f a b

/-- The index of the largest element: NaNs are passed over, equals go to the lower index. -/
def largestIndex (f : Nat) (l : List Nat) : Nat :=
  let step (best : Option (Nat × Nat)) (p : Nat × Nat) : Option (Nat × Nat) :=
    if isFloatFmt f && (floatValue f p.1).isNaN then best
    else match best with
      | none => some p
      | some b => if ordersAbove f b.1 p.1 then some p else some b
  match (l.zip (List.range l.length)).foldl step none with
  | some p => p.2
  | none => 0

/-- The operator of an integer reduction node, on 64-bit words (R445). -/
def redInt (op : Nat) (signed : Bool) (a b : Nat) : Nat :=
  let f := if signed then 3 else 7
  match op with
  | 0 => (a + b) % 2 ^ 64
  | 1 => if intValue f b < intValue f a then b else a
  | 2 => if intValue f a < intValue f b then b else a
  | 3 => a &&& b
  | 4 => a ||| b
  | _ => a ^^^ b

/-- The operator of a float reduction node, on f32 values (R445). -/
def redFloat (op : Nat) (r : Round) (a b : Nat) : Nat × Nat :=
  match op with
  | 0 => fAdd 8 r a b
  | 1 => (fMinMax 8 false a b, 0)
  | _ => (fMinMax 8 true a b, 0)

/-- The result of VRED and its flags. -/
def reduceVector (f op : Nat) (r : Round) (l : List Nat) : Nat × Nat :=
  if isIntFmt f then (((treeReduce (redInt op (intSigned f)) 7 (l.map (intExtend f))).headD 0), 0)
  else (treeReduce (withFlags (redFloat op r)) 7 (l.map fun a => ((convert 8 f .rne false a).1, 0))).headD (0, 0)

/-! ### The logits mask and the compression (R183, R216) -/

/-- VMASK: elements whose mask bit is 0 become minus infinity. -/
def maskVector (f w v m : Nat) : Nat :=
  ofElems w (((elems w v).zip (List.range (128 / w))).map fun p => if bit m p.2 then p.1 else withSign f true (topPattern f))

/-- The rank of a code in its group. -/
def sparseRank (f a : Nat) : Nat :=
  match f with
  | 0 => (intValue 0 a).natAbs
  | 4 => a
  | 11 => a % 128
  | _ => min (a % 128) 0x7D

/-- The indices that a group of 8 keeps: the 4 of highest rank, equals to the lower index, in increasing order. -/
def keptIndices (f : Nat) (g : List Nat) : List Nat :=
  let rank (i : Nat) : Nat := sparseRank f (g.getD i 0)
  (List.range 8).filter fun i => ((List.range 8).filter fun j => rank i < rank j || (rank i == rank j && j < i)).length < 4

/-- VSPRS: the kept codes, then the group codes (R181, R183). -/
def compressVector (f v : Nat) : Nat :=
  let groups := (List.range 16).map fun g => (List.range 8).map fun i => elemOf 1 (8 * g + i) v
  let kept := groups.flatMap fun g => (keptIndices f g).map fun i => g.getD i 0
  let codes := groups.map fun g => (keptIndices f g).foldr (fun i acc => i + 8 * acc) 0
  ofElems 1 kept + 2 ^ 512 * ofElems 2 codes

/-! ### The operations -/

def opVadd (t : Tag) (vd va : VReg) (_ : Port) (vb : VReg) (_ : Port) (et : ElemType) (sx : BitVec 1) : Op Unit := vector2 t vd va vb et (byClass et 2 4) (elemAdd (sx == 1))
def opVsub (t : Tag) (vd va : VReg) (_ : Port) (vb : VReg) (_ : Port) (et : ElemType) (sx : BitVec 1) : Op Unit := vector2 t vd va vb et (byClass et 2 4) (elemSub (sx == 1))
def opVmul (t : Tag) (vd va : VReg) (_ : Port) (vb : VReg) (_ : Port) (et : ElemType) : Op Unit := vector2 t vd va vb et 3 elemMul
def opVfma (t : Tag) (vd : VShort) (_ : Port) (va : VReg) (_ : Port) (vb : VReg) (_ : Port) (et : ElemType) : Op Unit := guarded t do
  let a ← getV va
  let b ← getV vb
  let c ← getV (shortV vd)
  let r ← etRound et
  let w := ElemType.bytes et
  let l := ((elems w a).zip ((elems w b).zip (elems w c))).map fun p => fFma (etFmt et) r p.1 p.2.1 p.2.2
  putVF 4 (shortV vd) (gather w l)
def opVmin (t : Tag) (vd va : VReg) (_ : Port) (vb : VReg) (_ : Port) (et : ElemType) : Op Unit := vector2 t vd va vb et 2 (elemExtreme false)
def opVmax (t : Tag) (vd va : VReg) (_ : Port) (vb : VReg) (_ : Port) (et : ElemType) : Op Unit := vector2 t vd va vb et 2 (elemExtreme true)
def opVabs (t : Tag) (vd va : VReg) (_ : Port) (et : ElemType) : Op Unit := vector1 t vd va et 2 elemAbs
def opVneg (t : Tag) (vd va : VReg) (_ : Port) (et : ElemType) : Op Unit := vector1 t vd va et 2 elemNeg
def opVand (t : Tag) (vd va : VReg) (_ : Port) (vb : VReg) (_ : Port) (_ : ElemType) : Op Unit := logic2 t vd va vb fun a b => a &&& b
def opVor (t : Tag) (vd va : VReg) (_ : Port) (vb : VReg) (_ : Port) (_ : ElemType) : Op Unit := logic2 t vd va vb fun a b => a ||| b
def opVxor (t : Tag) (vd va : VReg) (_ : Port) (vb : VReg) (_ : Port) (_ : ElemType) : Op Unit := logic2 t vd va vb fun a b => a ^^^ b
def opVnot (t : Tag) (vd va : VReg) (_ : Port) (_ : ElemType) : Op Unit := guarded t do
  let a ← getV va
  putV 2 vd (2 ^ 1024 - 1 - a)
def opVshl (t : Tag) (vd va : VReg) (_ : Port) (vb : VReg) (_ : Port) (et : ElemType) : Op Unit := shift2 t vd va vb et elemShl
def opVshr (t : Tag) (vd va : VReg) (_ : Port) (vb : VReg) (_ : Port) (et : ElemType) : Op Unit := shift2 t vd va vb et elemShr
def opVsar (t : Tag) (vd va : VReg) (_ : Port) (vb : VReg) (_ : Port) (et : ElemType) : Op Unit := shift2 t vd va vb et elemSar
def opVcmp (t : Tag) (vd : VShort) (va : VReg) (_ : Port) (vb : VReg) (_ : Port) (fmt : Fmt) (cc : BitVec 3) : Op Unit := guarded t do
  let a ← getV va
  let b ← getV vb
  let w := fmtBytes fmt.toNat
  let ones := 2 ^ (8 * w) - 1
  putV 2 (shortV vd) (zipElems w (fun x y => (if elemCmp fmt.toNat cc.toNat x y then ones else 0, 0)) a b).1
def opVsel (t : Tag) (vd : VShort) (_ : Port) (va : VReg) (_ : Port) (vb : VReg) (_ : Port) (et : ElemType) : Op Unit := guarded t do
  let a ← getV va
  let b ← getV vb
  let m ← getV (shortV vd)
  let w := ElemType.bytes et
  let l := ((elems w m).zip ((elems w a).zip (elems w b))).map fun p => if p.1 != 0 then p.2.1 else p.2.2
  putV 2 (shortV vd) (ofElems w l)
def opVcvt (t : Tag) (vd va : VReg) (_ : Port) (fd fs : Fmt) (rm : BitVec 3) (sat : BitVec 1) (part : BitVec 2) : Op Unit := guarded t do
  let a ← getV va
  let r ← getRound rm
  putVF 3 vd (convertVector fd.toNat fs.toNat r (sat == 1) part.toNat a)
def opVbcst (t : Tag) (vd : VReg) (xa : XReg) (et : ElemType) : Op Unit := guarded t do
  let x ← getX xa
  let w := ElemType.bytes et
  putV 2 vd (ofElems w (List.replicate (128 / w) x.toNat))
def opVperm (t : Tag) (vd va : VReg) (_ : Port) (vb : VReg) (_ : Port) (et : ElemType) : Op Unit := guarded t do
  let a ← getV va
  let b ← getV vb
  let w := ElemType.bytes et
  putV 3 vd (ofElems w ((elems w b).map fun j => if j < 128 / w then elemOf w j a else 0))
def opVins (t : Tag) (vd : VReg) (_ : Port) (xa : XReg) (ew : BitVec 2) (idx : BitVec 7) : Op Unit := guarded t do
  let d ← getV vd
  let x ← getX xa
  let w := 2 ^ ew.toNat
  putV 2 vd (ofElems w ((elems w d).set idx.toNat x.toNat))
def opVext (t : Tag) (xd : XReg) (va : VReg) (_ : Port) (et : ElemType) (idx : BitVec 7) : Op Unit := guarded t do
  let a ← getV va
  putX 2 xd (w64 (intExtend (etFmt et) (elemOf (ElemType.bytes et) idx.toNat a)))
def opVred (t : Tag) (xd : XReg) (va : VReg) (_ : Port) (et : ElemType) (op : BitVec 3) : Op Unit := guarded t do
  let a ← getV va
  let r ← etRound et
  let (v, fl) := reduceVector (etFmt et) op.toNat r (elems (ElemType.bytes et) a)
  putX 6 xd (w64 v)
  emitFlags 6 fl
def opVamax (t : Tag) (xd : XReg) (va : VReg) (_ : Port) (et : ElemType) : Op Unit := guarded t do
  let a ← getV va
  putX 5 xd (w64 (largestMagnitude (etFmt et) (elems (ElemType.bytes et) a)))
def opVargmx (t : Tag) (xd : XReg) (va : VReg) (_ : Port) (et : ElemType) : Op Unit := guarded t do
  let a ← getV va
  putX 6 xd (w64 (largestIndex (etFmt et) (elems (ElemType.bytes et) a)))
def opVexp2 (t : Tag) (vd va : VReg) (_ : Port) (et : ElemType) : Op Unit := vector1 t vd va et 10 (transcend 0)
def opVlog2 (t : Tag) (vd va : VReg) (_ : Port) (et : ElemType) : Op Unit := vector1 t vd va et 10 (transcend 1)
def opVrcp (t : Tag) (vd va : VReg) (_ : Port) (et : ElemType) : Op Unit := vector1 t vd va et 10 (transcend 2)
def opVrsq (t : Tag) (vd va : VReg) (_ : Port) (et : ElemType) : Op Unit := vector1 t vd va et 10 (transcend 3)
def opVmask (t : Tag) (vd va : VReg) (_ : Port) (vb : VReg) (_ : Port) (et : ElemType) : Op Unit := guarded t do
  let a ← getV va
  let m ← getV vb
  putV 2 vd (maskVector (etFmt et) (ElemType.bytes et) a m)
def opVsprs (t : Tag) (vd va : VReg) (_ : Port) (fmt : Fmt) : Op Unit := guarded t do
  let a ← getV va
  putV 6 vd (compressVector fmt.toNat a)

/-! ### The meanings -/

def execVadd (t : Tag) (vd va : VReg) (pa : Port) (vb : VReg) (pb : Port) (et : ElemType) (sx : BitVec 1) (s : State) : Host.Outcome State Fault Refusal :=
  issueOne (.vadd t vd va pa vb pb et sx) (opVadd t vd va pa vb pb et sx) s
def execVsub (t : Tag) (vd va : VReg) (pa : Port) (vb : VReg) (pb : Port) (et : ElemType) (sx : BitVec 1) (s : State) : Host.Outcome State Fault Refusal :=
  issueOne (.vsub t vd va pa vb pb et sx) (opVsub t vd va pa vb pb et sx) s
def execVmul (t : Tag) (vd va : VReg) (pa : Port) (vb : VReg) (pb : Port) (et : ElemType) (s : State) : Host.Outcome State Fault Refusal :=
  issueOne (.vmul t vd va pa vb pb et) (opVmul t vd va pa vb pb et) s
def execVfma (t : Tag) (vd : VShort) (pd : Port) (va : VReg) (pa : Port) (vb : VReg) (pb : Port) (et : ElemType) (s : State) : Host.Outcome State Fault Refusal :=
  issueOne (.vfma t vd pd va pa vb pb et) (opVfma t vd pd va pa vb pb et) s
def execVmin (t : Tag) (vd va : VReg) (pa : Port) (vb : VReg) (pb : Port) (et : ElemType) (s : State) : Host.Outcome State Fault Refusal :=
  issueOne (.vmin t vd va pa vb pb et) (opVmin t vd va pa vb pb et) s
def execVmax (t : Tag) (vd va : VReg) (pa : Port) (vb : VReg) (pb : Port) (et : ElemType) (s : State) : Host.Outcome State Fault Refusal :=
  issueOne (.vmax t vd va pa vb pb et) (opVmax t vd va pa vb pb et) s
def execVabs (t : Tag) (vd va : VReg) (pa : Port) (et : ElemType) (s : State) : Host.Outcome State Fault Refusal :=
  issueOne (.vabs t vd va pa et) (opVabs t vd va pa et) s
def execVneg (t : Tag) (vd va : VReg) (pa : Port) (et : ElemType) (s : State) : Host.Outcome State Fault Refusal :=
  issueOne (.vneg t vd va pa et) (opVneg t vd va pa et) s
def execVand (t : Tag) (vd va : VReg) (pa : Port) (vb : VReg) (pb : Port) (et : ElemType) (s : State) : Host.Outcome State Fault Refusal :=
  issueOne (.vand t vd va pa vb pb et) (opVand t vd va pa vb pb et) s
def execVor (t : Tag) (vd va : VReg) (pa : Port) (vb : VReg) (pb : Port) (et : ElemType) (s : State) : Host.Outcome State Fault Refusal :=
  issueOne (.vor t vd va pa vb pb et) (opVor t vd va pa vb pb et) s
def execVxor (t : Tag) (vd va : VReg) (pa : Port) (vb : VReg) (pb : Port) (et : ElemType) (s : State) : Host.Outcome State Fault Refusal :=
  issueOne (.vxor t vd va pa vb pb et) (opVxor t vd va pa vb pb et) s
def execVnot (t : Tag) (vd va : VReg) (pa : Port) (et : ElemType) (s : State) : Host.Outcome State Fault Refusal :=
  issueOne (.vnot t vd va pa et) (opVnot t vd va pa et) s
def execVshl (t : Tag) (vd va : VReg) (pa : Port) (vb : VReg) (pb : Port) (et : ElemType) (s : State) : Host.Outcome State Fault Refusal :=
  issueOne (.vshl t vd va pa vb pb et) (opVshl t vd va pa vb pb et) s
def execVshr (t : Tag) (vd va : VReg) (pa : Port) (vb : VReg) (pb : Port) (et : ElemType) (s : State) : Host.Outcome State Fault Refusal :=
  issueOne (.vshr t vd va pa vb pb et) (opVshr t vd va pa vb pb et) s
def execVsar (t : Tag) (vd va : VReg) (pa : Port) (vb : VReg) (pb : Port) (et : ElemType) (s : State) : Host.Outcome State Fault Refusal :=
  issueOne (.vsar t vd va pa vb pb et) (opVsar t vd va pa vb pb et) s
def execVcmp (t : Tag) (vd : VShort) (va : VReg) (pa : Port) (vb : VReg) (pb : Port) (fmt : Fmt) (cc : BitVec 3) (s : State) : Host.Outcome State Fault Refusal :=
  issueOne (.vcmp t vd va pa vb pb fmt cc) (opVcmp t vd va pa vb pb fmt cc) s
def execVsel (t : Tag) (vd : VShort) (pd : Port) (va : VReg) (pa : Port) (vb : VReg) (pb : Port) (et : ElemType) (s : State) : Host.Outcome State Fault Refusal :=
  issueOne (.vsel t vd pd va pa vb pb et) (opVsel t vd pd va pa vb pb et) s
def execVcvt (t : Tag) (vd va : VReg) (pa : Port) (fd fs : Fmt) (rm : BitVec 3) (sat : BitVec 1) (part : BitVec 2) (s : State) : Host.Outcome State Fault Refusal :=
  issueOne (.vcvt t vd va pa fd fs rm sat part) (opVcvt t vd va pa fd fs rm sat part) s
def execVbcst (t : Tag) (vd : VReg) (xa : XReg) (et : ElemType) (s : State) : Host.Outcome State Fault Refusal :=
  issueOne (.vbcst t vd xa et) (opVbcst t vd xa et) s
def execVperm (t : Tag) (vd va : VReg) (pa : Port) (vb : VReg) (pb : Port) (et : ElemType) (s : State) : Host.Outcome State Fault Refusal :=
  issueOne (.vperm t vd va pa vb pb et) (opVperm t vd va pa vb pb et) s
def execVins (t : Tag) (vd : VReg) (pd : Port) (xa : XReg) (ew : BitVec 2) (idx : BitVec 7) (s : State) : Host.Outcome State Fault Refusal :=
  issueOne (.vins t vd pd xa ew idx) (opVins t vd pd xa ew idx) s
def execVext (t : Tag) (xd : XReg) (va : VReg) (pa : Port) (et : ElemType) (idx : BitVec 7) (s : State) : Host.Outcome State Fault Refusal :=
  issueOne (.vext t xd va pa et idx) (opVext t xd va pa et idx) s
def execVred (t : Tag) (xd : XReg) (va : VReg) (pa : Port) (et : ElemType) (op : BitVec 3) (s : State) : Host.Outcome State Fault Refusal :=
  issueOne (.vred t xd va pa et op) (opVred t xd va pa et op) s
def execVamax (t : Tag) (xd : XReg) (va : VReg) (pa : Port) (et : ElemType) (s : State) : Host.Outcome State Fault Refusal :=
  issueOne (.vamax t xd va pa et) (opVamax t xd va pa et) s
def execVargmx (t : Tag) (xd : XReg) (va : VReg) (pa : Port) (et : ElemType) (s : State) : Host.Outcome State Fault Refusal :=
  issueOne (.vargmx t xd va pa et) (opVargmx t xd va pa et) s
def execVexp2 (t : Tag) (vd va : VReg) (pa : Port) (et : ElemType) (s : State) : Host.Outcome State Fault Refusal :=
  issueOne (.vexp2 t vd va pa et) (opVexp2 t vd va pa et) s
def execVlog2 (t : Tag) (vd va : VReg) (pa : Port) (et : ElemType) (s : State) : Host.Outcome State Fault Refusal :=
  issueOne (.vlog2 t vd va pa et) (opVlog2 t vd va pa et) s
def execVrcp (t : Tag) (vd va : VReg) (pa : Port) (et : ElemType) (s : State) : Host.Outcome State Fault Refusal :=
  issueOne (.vrcp t vd va pa et) (opVrcp t vd va pa et) s
def execVrsq (t : Tag) (vd va : VReg) (pa : Port) (et : ElemType) (s : State) : Host.Outcome State Fault Refusal :=
  issueOne (.vrsq t vd va pa et) (opVrsq t vd va pa et) s
def execVmask (t : Tag) (vd va : VReg) (pa : Port) (vb : VReg) (pb : Port) (et : ElemType) (s : State) : Host.Outcome State Fault Refusal :=
  issueOne (.vmask t vd va pa vb pb et) (opVmask t vd va pa vb pb et) s
def execVsprs (t : Tag) (vd va : VReg) (pa : Port) (fmt : Fmt) (s : State) : Host.Outcome State Fault Refusal :=
  issueOne (.vsprs t vd va pa fmt) (opVsprs t vd va pa fmt) s

end Sys2Proof.Machine
end

