-- ==== Sys2Proof/Machine/Operate.lean ====
section
/-!
DEFINITION. The operation that each slot instruction is: what runs for it in a bundle of several (R54) and at its re-injection
(R270, R272). An event is no operation of a bundle.
-/
namespace Sys2Proof.Machine

open Sys2Proof

/-- The operation of a slot instruction. -/
def operate (i : Instr) : Op Unit :=
  match i with
  | .brLabel off => opBrLabel off
  | .brReg b => opBrReg b
  | .btree t0 t1 t2 t3 => opBtree t0 t1 t2 t3
  | .callLabel off => opCallLabel off
  | .callReg b => opCallReg b
  | .ret => opRet
  | .movb xf bd xa off => opMovb xf bd xa off
  | .loopImm endOff count => opLoopImm endOff count
  | .loopX endOff xa => opLoopX endOff xa
  | .loopSpool endOff n => opLoopSpool endOff n
  | .loops endOff sm1 pk xf count => opLoops endOff sm1 pk xf count
  | .leave n => opLeave n
  | .pand na nb pd pa pb => opPand na nb pd pa pb
  | .por na nb pd pa pb => opPor na nb pd pa pb
  | .pxor na nb pd pa pb => opPxor na nb pd pa pb
  | .pnot pd pa => opPnot pd pa
  | .pmov na pd pa => opPmov na pd pa
  | .done => opDone
  | .yield => opYield
  | .waitt xa => opWaitt xa
  | .bar o paths => opBar o paths
  | .trig => opTrig
  | .sysc code => opSysc code
  | .brk code => opBrk code
  | .rft => opRft
  | .uret => opUret
  | .mfs xd srn => opMfs xd srn
  | .mts xa srn => opMts xa srn
  | .add t xd xa xb mode => opAdd t xd xa xb mode
  | .addi t xd xa imm => opAddi t xd xa imm
  | .sub t xd xa xb mode => opSub t xd xa xb mode
  | .mul t xd xa xb => opMul t xd xa xb
  | .mulh t xd xa xb => opMulh t xd xa xb
  | .mulhn t xd xa xb => opMulhn t xd xa xb
  | .div t xd xa xb => opDiv t xd xa xb
  | .divn t xd xa xb => opDivn t xd xa xb
  | .rem t xd xa xb => opRem t xd xa xb
  | .remn t xd xa xb => opRemn t xd xa xb
  | .and t xd xa xb => opAnd t xd xa xb
  | .andi t xd xa imm => opAndi t xd xa imm
  | .or t xd xa xb => opOr t xd xa xb
  | .ori t xd xa imm => opOri t xd xa imm
  | .xor t xd xa xb => opXor t xd xa xb
  | .xori t xd xa imm => opXori t xd xa imm
  | .shl t xd xa xb => opShl t xd xa xb
  | .shli t xd xa amount => opShli t xd xa amount
  | .shr t xd xa xb => opShr t xd xa xb
  | .shri t xd xa amount => opShri t xd xa amount
  | .sar t xd xa xb => opSar t xd xa xb
  | .sari t xd xa amount => opSari t xd xa amount
  | .min t xd xa xb => opMin t xd xa xb
  | .max t xd xa xb => opMax t xd xa xb
  | .minn t xd xa xb => opMinn t xd xa xb
  | .maxn t xd xa xb => opMaxn t xd xa xb
  | .cmp t pd xa xb cc fmt => opCmp t pd xa xb cc fmt
  | .cmpi t pd xa cc imm => opCmpi t pd xa cc imm
  | .sel t xd xa xb ps => opSel t xd xa xb ps
  | .lea t xd xa xb sh imm => opLea t xd xa xb sh imm
  | .li t xd imm => opLi t xd imm
  | .lih t xd imm => opLih t xd imm
  | .clz t xd xa => opClz t xd xa
  | .ctz t xd xa => opCtz t xd xa
  | .popc t xd xa => opPopc t xd xa
  | .bfx t xd xa pos lm1 sx => opBfx t xd xa pos lm1 sx
  | .bfi t xd xa pos lm1 => opBfi t xd xa pos lm1
  | .fadd t xd xa xb fmt rm => opFadd t xd xa xb fmt rm
  | .fsub t xd xa xb fmt rm => opFsub t xd xa xb fmt rm
  | .fmul t xd xa xb fmt rm => opFmul t xd xa xb fmt rm
  | .ffma t xd xa xb xc fmt rm => opFfma t xd xa xb xc fmt rm
  | .fmin t xd xa xb fmt => opFmin t xd xa xb fmt
  | .fmax t xd xa xb fmt => opFmax t xd xa xb fmt
  | .fcmp t pd xa xb cc fmt => opFcmp t pd xa xb cc fmt
  | .fcvt t xd xa fd fs rm sat => opFcvt t xd xa fd fs rm sat
  | .vadd t vd va pa vb pb et sx => opVadd t vd va pa vb pb et sx
  | .vsub t vd va pa vb pb et sx => opVsub t vd va pa vb pb et sx
  | .vmul t vd va pa vb pb et => opVmul t vd va pa vb pb et
  | .vfma t vd pd va pa vb pb et => opVfma t vd pd va pa vb pb et
  | .vmin t vd va pa vb pb et => opVmin t vd va pa vb pb et
  | .vmax t vd va pa vb pb et => opVmax t vd va pa vb pb et
  | .vabs t vd va pa et => opVabs t vd va pa et
  | .vneg t vd va pa et => opVneg t vd va pa et
  | .vand t vd va pa vb pb et => opVand t vd va pa vb pb et
  | .vor t vd va pa vb pb et => opVor t vd va pa vb pb et
  | .vxor t vd va pa vb pb et => opVxor t vd va pa vb pb et
  | .vnot t vd va pa et => opVnot t vd va pa et
  | .vshl t vd va pa vb pb et => opVshl t vd va pa vb pb et
  | .vshr t vd va pa vb pb et => opVshr t vd va pa vb pb et
  | .vsar t vd va pa vb pb et => opVsar t vd va pa vb pb et
  | .vcmp t vd va pa vb pb fmt cc => opVcmp t vd va pa vb pb fmt cc
  | .vsel t vd pd va pa vb pb et => opVsel t vd pd va pa vb pb et
  | .vcvt t vd va pa fd fs rm sat part => opVcvt t vd va pa fd fs rm sat part
  | .vbcst t vd xa et => opVbcst t vd xa et
  | .vperm t vd va pa vb pb et => opVperm t vd va pa vb pb et
  | .vins t vd pd xa ew idx => opVins t vd pd xa ew idx
  | .vext t xd va pa et idx => opVext t xd va pa et idx
  | .vred t xd va pa et op => opVred t xd va pa et op
  | .vamax t xd va pa et => opVamax t xd va pa et
  | .vargmx t xd va pa et => opVargmx t xd va pa et
  | .vexp2 t vd va pa et => opVexp2 t vd va pa et
  | .vlog2 t vd va pa et => opVlog2 t vd va pa et
  | .vrcp t vd va pa et => opVrcp t vd va pa et
  | .vrsq t vd va pa et => opVrsq t vd va pa et
  | .vmask t vd va pa vb pb et => opVmask t vd va pa vb pb et
  | .vsprs t vd va pa fmt => opVsprs t vd va pa fmt
  | .ld t xv xa sz imm => opLd t xv xa sz imm
  | .st t xv xa sz imm => opSt t xv xa sz imm
  | .lda t xv xa sz scope imm => opLda t xv xa sz scope imm
  | .stl t xv xa sz scope imm => opStl t xv xa sz scope imm
  | .vld t vv xa imm => opVld t vv xa imm
  | .vst t vv pv xa imm => opVst t vv pv xa imm
  | .amo t xd xa xb op w ord scope => opAmo t xd xa xb op w ord scope
  | .acas t xd xa xb xc ord scope => opAcas t xd xa xb xc ord scope
  | .fence t scope src dst => opFence t scope src dst
  | .drain t paths => opDrain t paths
  | .scfg t va pa sd => opScfg t va pa sd
  | .srel t sd => opSrel t sd
  | .dcp t tag vs ps vd pd => opDcp t tag vs ps vd pd
  | .dstat t xd tag => opDstat t xd tag
  | .frd t xd xa => opFrd t xd xa
  | .fwr t xa xb => opFwr t xa xb
  | .fclr t xa => opFclr t xa
  | .spawn t xe xa xb xc => opSpawn t xe xa xb xc
  | .lnch t xa va pa => opLnch t xa va pa
  | .hfam t va pa f => opHfam t va pa f
  | .hprb t sd xt xo xc qs qn pq => opHprb t sd xt xo xc qs qn pq
  | .hins t xt xi => opHins t xt xi
  | .hdel t xt xi => opHdel t xt xi
  | .hreh t xt xn => opHreh t xt xn
  | .hacc t xa va pa => opHacc t xa va pa
  | .merge t xa sd => opMerge t xa sd
  | .cred t xa => opCred t xa
  | .tlbiAll t => opTlbiAll t
  | .tlbiAs t xb => opTlbiAs t xb
  | .tlbiPage t xa xb => opTlbiPage t xa xb
  | .lvs t xa xb => opLvs t xa xb
  | .lvr t xa xb => opLvr t xa xb
  | .cprog t pg va pa => opCprog t pg va pa
  | .csel t pg => opCsel t pg
  | .aflow t xa => opAflow t xa
  | .aldbLocal t tv pt => opAldbLocal t tv pt
  | .aldbCluster t xa xb => opAldbCluster t xa xb
  | .arun t av asp an pan bsp bn pbn mm1 => opArun t av asp an pan bsp bn pbn mm1
  | .aruns t av asp an pan mv pmv mm1 => opAruns t av asp an pan mv pmv mm1
  | .ascl t am ta bm tb => opAscl t am ta bm tb
  | .aclrView t av => opAclrView t av
  | .aclrArray t => opAclrArray t
  | .adrn t td sk av pav sat => opAdrn t td sk av pav sat
  | .txin t va pa row => opTxin t va pa row
  | .txout t vd ci h wl => opTxout t vd ci h wl
  | .txclr t => opTxclr t
  | .idleBundle .. => pure ()
  | .resultLanding .. => pure ()
  | .farLoadLanding .. => pure ()
  | .farStorePerform .. => pure ()
  | .windowWrite .. => pure ()
  | .windowRead .. => pure ()
  | .eccCorrection .. => pure ()
  | .uncorrectableError .. => pure ()
  | .walkComplete .. => pure ()
  | .trapEntry .. => pure ()
  | .userInterrupt .. => pure ()
  | .budgetExpiry .. => pure ()
  | .hung .. => pure ()
  | .preemption .. => pure ()
  | .timeSliceSwitch .. => pure ()
  | .strandSwitch .. => pure ()
  | .contextSaveComplete .. => pure ()
  | .strandResume .. => pure ()
  | .contextSwitch .. => pure ()
  | .skeinBind .. => pure ()
  | .pointFire .. => pure ()
  | .pointCompletion .. => pure ()
  | .launchAdmission .. => pure ()
  | .doorbell .. => pure ()
  | .taskPacketArrival .. => pure ()
  | .taskBind .. => pure ()
  | .spoolElementFetch .. => pure ()
  | .storeSpoolWrite .. => pure ()
  | .copyElement .. => pure ()
  | .copyCompletion .. => pure ()
  | .mergeStart .. => pure ()
  | .mergeEnd .. => pure ()
  | .probeStart .. => pure ()
  | .probeEnd .. => pure ()
  | .updateStart .. => pure ()
  | .updateEnd .. => pure ()
  | .arrayStart .. => pure ()
  | .arrayElement .. => pure ()
  | .arrayCompletion .. => pure ()
  | .multicastRowRead .. => pure ()
  | .collectiveStart .. => pure ()
  | .collectiveEnd .. => pure ()
  | .sluiceArrival .. => pure ()
  | .fabricAccess .. => pure ()
  | .fabricResponse .. => pure ()
  | .fabricTimeout .. => pure ()
  | .hostAccess .. => pure ()
  | .syncMessage .. => pure ()
  | .syncTimeout => pure ()
  | .waittExpiry .. => pure ()
  | .powerOnBoot => pure ()
  | .quote .. => pure ()
  | .securityVersionRaise .. => pure ()
  | .identityRead .. => pure ()
  | .devctl .. => pure ()
  | .svpoolAppend .. => pure ()
  | .ptpcfg .. => pure ()
  | .hostRegisterWrite .. => pure ()
  | .halt => pure ()
  | .debugResume => pure ()
  | .step => pure ()
  | .debuggerHalt .. => pure ()
  | .dbgdata .. => pure ()
  | .go => pure ()
  | .abort => pure ()
  | .recv => pure ()
  | .evacStopComplete => pure ()
  | .evacStreamComplete => pure ()
  | .evacDrainComplete => pure ()
  | .evacTimeout => pure ()
  | .adopted .. => pure ()
  | .throttle .. => pure ()
  | .thermalShutdown .. => pure ()
  | .powerOff => pure ()
  | .stationDown .. => pure ()
  | .loadComplete .. => pure ()

end Sys2Proof.Machine
end

