-- ==== Sys2Proof/Machine/Switch.lean ====
section
/-!
DEFINITION. Strands leaving and entering their cores (R32-R34, R39, R47, R264, R276-R280): the watchdog, pre-emption, the time
slice, the switch, the drain span, the save, the resumption and the switch between contexts.
-/
namespace Sys2Proof.Machine

open Sys2Proof

/-! ### Where a strand stands -/

/-- What fetch finds for the strand of a context, when it needs no walk. -/
def standingAt (s : State) (key : Nat) : Option Standing :=
  match fetchOp { s with focus := key } with
  | .ok ((a, r), _) => some ⟨a, r⟩
  | .error _ => none

/-- The state that the bundle standing at the boundary of a context issues in: a drained LOOPS level re-enters (R89). -/
def standBundle (s : State) (key : Nat) (f : Standing) (idle length : Nat) (q : Bool) : State :=
  let s1 := reenter (thaw { s with focus := key } key) key
  { s1 with issue := { Issue.init with pc := f.addr, next := f.addr + length, idle := idle, q := q } }

/-- The judgement on what stands at the boundary of a context, if it issued now; none for what is no bundle of operations. -/
def standingVerdict (s : State) (key : Nat) (f : Standing) : Option Verdict :=
  match f.result with
  | .bundle b =>
    some (judge (b.ops.map fun i => (i, operate i)) (beginIssue (standBundle s key f b.idle b.length b.quiescent)))
  | _ => none

/-- The paths on which the bundle standing at a boundary reports deferred faults there: none while it would freeze (R471). -/
def standingPaths (s : State) (key : Nat) (f : Standing) : Nat :=
  match f.result with
  | .bundle b =>
    let s0 := beginIssue (standBundle s key f b.idle b.length b.quiescent)
    match judge (b.ops.map fun i => (i, operate i)) s0 with
    | .report _ => bundlePaths s0 b.ops
    | _ => 0
  | _ => 0

/-- The trap to take at the boundary of a context (R267). -/
def trapAt (s : State) (key : Nat) (st : Strand) (f : Except Raise Standing) : Option TrapCall :=
  boundaryTrap { s with focus := key } st f (match f with
    | .ok x => standingPaths s key x
    | .error _ => 0)

/-- What stands at a boundary comes before a halt, a switch or an interrupt due there: an issue fault, the squash of a task or the end
of a DONE (R50, R264). -/
def comesFirst (s : State) (key : Nat) (f : Standing) : Bool :=
  match standingVerdict s key f with
  | some (.fault _) | some (.report _) => true
  | some (.late w _) => w == .squashed
  | some (.pass _) => (standingOps (some f)).contains .done
  | _ => false

/-- The strand of a context issues and stands at a bundle boundary on its own time line. -/
def atBoundary (s : State) (key : Nat) (st : Strand) : Bool :=
  (s.ctx key).state == .issuing && !st.dead && !st.halted && !st.draining && st.ownLine && st.pos.line.busy == 0
    && !st.frozen.any Wait.fixed

/-- A strand at a bundle boundary stands at a quiescent point where no fault, squash or DONE comes first (R50, R65, R264). -/
def quiescentHere (s : State) (key : Nat) (st : Strand) : Bool :=
  match standingAt s key with
  | none => false
  | some f => quiescentAt st (some f) && (trapAt s key st (.ok f)).isNone && !comesFirst s key f

/-- A halt asked of a strand waits for its next quiescent point: after a STEP, for one behind the bundle at hand (R281). -/
def Strand.haltNext (st : Strand) : Bool := st.haltPending && !st.stepping

/-- The strand of a context stands at a quiescent point where neither a fault nor a halt is taken first (R264). -/
def atQuiescent (s : State) (key : Nat) (st : Strand) : Bool := atBoundary s key st && !st.haltNext && quiescentHere s key st

/-- Every LOOPS level has drained to here (R89, R277). -/
def loopsDrained (st : Strand) : Bool := st.pos.loops.all fun l => l.stages == 0 || l.drained

/-- The member of a skein in a context has executed DONE and issues no more, while others of the skein run on (R40). -/
def memberDone (s : State) (key : Nat) : Bool :=
  (s.strandAt key).any fun st => st.dead && (skeinOf s st).any fun k => k.done.contains (memberOf st)

/-- The strand of a context may leave: it issues and stands at a quiescent point with its LOOPS levels drained, or it is a skein
member that has executed DONE. -/
def readyToLeave (s : State) (key : Nat) : Bool :=
  (s.strandAt key).any fun st => (s.ctx key).state == .issuing && !st.draining && st.leaving.isSome
    && (memberDone s key || (!st.resumed && loopsDrained st && atQuiescent s key st))

/-! ### The watchdog (R276), pre-emption and the time slice (R47) -/

/-- BUDGET_EXPIRY: an armed count of zero asks the strand to leave. -/
def budgetExpiry (s : State) (key : Nat) : State :=
  match s.strandAt key with
  | none => s
  | some st => if !budgetOut st || st.dead || st.resumed || st.leaving == some 1 || st.leaving == some 5 then s else askLeave s key 1

/-- HUNG: 65,536 further decrements without a quiescent point freeze the strand for good. -/
def hungStrand (s : State) (key : Nat) : State :=
  match s.strandAt key with
  | none => s
  | some st =>
    if !budgetOut st || st.dead || st.overrun < 65536 then s
    else postEvent (s.setStrandAt key { st with dead := true }) (dieOf (keyCore key)) 2 cBudget (keyCore key) (key % 2) 0 false

/-- The quantum has run out (R47). -/
def quantumOver (s : State) (st : Strand) : Bool := bits s.host.tslice.toNat 31 0 ≤ st.ran

/-- Whether the strand of a context is to be pre-empted, or to give way to its own class. A pre-emption also takes the place of a
time slice or YIELD that is still pending (R264). -/
def giveWay (s : State) (key : Nat) (st : Strand) : Option Nat :=
  if st.dead || st.draining || (s.ctx key).state != .issuing || st.resumed || isSupervisor (keyCore key)
    || !(st.leaving.isNone || st.leaving == some 3) then none
  else if coreWantedBy s key st (fun p o => o < p) fun p => st.ident.prio < p then some 2
  else if st.leaving.isNone && quantumOver s st
      && coreWantedBy s key st (fun p o => o ≤ p) fun p => p == st.ident.prio then some 3
  else none

/-- PREEMPTION: work of a higher class waits for the core. -/
def preempt (s : State) (key : Nat) : State :=
  match s.strandAt key with
  | none => s
  | some st => if giveWay s key st == some 2 then askLeave s key 2 else s

/-- TIME_SLICE_SWITCH: the quantum is over and work of the same class waits. -/
def timeSlice (s : State) (key : Nat) : State :=
  match s.strandAt key with
  | none => s
  | some st => if giveWay s key st == some 3 then askLeave s key 3 else s

/-! ### The switch (R277) -/

/-- A cluster ALDB that has started, and whose multicast has not formed. -/
def unformed (s : State) (o : ArrOp) : Bool :=
  match o.kind with
  | .loadCluster _ shape =>
    o.start.isSome && s.casts.any fun c => some c.id == o.cast && (bitSet 8 (bits shape.toNat 63 56)).any fun m => !c.arrived.contains m
  | _ => false

/-- A multicast loses a member whose ALDB is withdrawn. -/
def withdrawCast (s : State) (key : Nat) (o : ArrOp) : State :=
  let less (c : Cast) : Cast := { c with arrived := c.arrived.filter fun m => m != memberNo (keyCore key) }
  { s with casts := (s.casts.map fun c => if some c.id == o.cast then less c else c).filter fun c => !c.arrived.isEmpty }

/-- A drain span withdraws the cluster ALDBs whose multicast has not formed: they stand in their queue unstarted, to be issued again at
the resumption (R277). -/
def withdrawAldbs (s : State) (key : Nat) : State :=
  match s.strandAt key with
  | none => s
  | some st =>
    let back (o : ArrOp) : ArrOp := if unformed s o then { o with start := none, done := 0, cast := none } else o
    ((st.arr.ops.filter (unformed s)).foldl (fun s o => withdrawCast s key o) s).setStrandAt key
      { st with arr := { st.arr with ops := st.arr.ops.map back } }

/-- Every operation of a strand has landed or completed, its pushes are written and its updates complete (R277, R232); a cluster ALDB
withdrawn stands with what waits behind it. Its probes and merges run on (R165, R209). -/
def drained (s : State) (st : Strand) : Bool :=
  st.pos.line.flights.isEmpty && st.far.isEmpty && st.arr.writes.isEmpty && updatesEnded s st
    && st.spools.toList.all (fun o => match o with
      | some sp => !spIsStore sp.desc || sp.buf.isEmpty
      | none => true)
    && (match st.arr.ops with
      | [] => true
      | o :: rest => o.isCluster && (o :: rest).all fun o => o.start.isNone)

/-- A strand stops issuing, and its drain span begins, with a block for its image or, returned by LVS, with none (R33, R277). -/
def startLeaving (s : State) (key block : Nat) : State :=
  match s.strandAt key with
  | none => s
  | some st => s.setStrandAt key { st with frozen := none, block := block, draining := true }

/-- Each of some contexts begins to leave with a block of its own; none where the pool runs out. -/
def leaveAll (die : Nat) : List Nat → State → Option State
  | [], s => some s
  | k :: ks, s =>
    match takeBlock s die with
    | none => none
    | some (b, s') => leaveAll die ks (startLeaving s' k b)

/-- A switch that is not made: the strand runs on, and has passed a quiescent point (R276, R277). -/
def runOn (s : State) (key : Nat) : State :=
  match s.strandAt key with
  | none => s
  | some st => s.setStrandAt key { st with leaving := none, resumed := true, frozen := none, overrun := 0 }

/-- STRAND_SWITCH: at its quiescent point a strand that is to leave stops issuing and its drain span begins. The members of a
skein leave together; one that comes first waits (R39). An empty pool makes no switch (R277). A strand that has drained leaves
ISSUING, and the streaming save begins (R32, R33). -/
def strandSwitch (s : State) (key : Nat) : State :=
  match s.strandAt key with
  | none => s
  | some st =>
    if st.draining && (s.ctx key).state == .issuing then
      (if drained s st then s.setCtx key { s.ctx key with state := .saving } else s)
    else if !readyToLeave s key then s
    else if st.leaving == some 5 then startLeaving s key 0
    else
      let ms := partners s key
      if ms.all (readyToLeave s) then
        match leaveAll (dieOf (keyCore key)) ms s with
        | some s' => s'
        | none => postEvent (ms.foldl runOn s) (dieOf (keyCore key)) 5 0 (keyCore key) (key % 2) 0 false
      else freezeAt s key .yielded

/-! ### The save (R277, R279) -/

/-- A spool as a save records it: only those in SPOOLS, nothing prefetched (R92, R151). -/
def savedSpool (st : Strand) (n : Nat) : Option Spool :=
  if !bit st.ident.spoolMask n then none
  else (st.spools.getD n none).map fun sp =>
    if spIsStore sp.desc then sp
    else
      let ended := sp.ended && sp.buf.isEmpty
      { sp with buf := [], moved := sp.count, ended := ended, idxEnd := if ended then sp.idxEnd else none }

/-- The array as a save records it: instructions withdrawn stand unstarted. -/
def savedArr (a : Arr) : Arr := { a with ops := a.ops.map fun o => { o with start := none, done := 0, cast := none } }

/-- What a save records of the faults of the drain span: the one that the header names, the replay entries, and the reports still to
come (R279, R280). -/
structure SaveFaults where
  fault : Option Raise
  entries : List Replay
  reports : List Report

/-- The first post-issue fault is recorded, else the oldest report; a failed update and the requests behind it are replay entries of the
image (R213, R214, R280). -/
def saveFaults (s : State) (st : Strand) : SaveFaults :=
  let failed := (st.reports.find? fun r => r.updates).elim [] (updateEntries s st)
  let entries := sortEntries (failed ++ st.faults)
  match st.faults.find? fun e => e.cause != 0, st.reports with
  | some e, rs => ⟨some ⟨e.cause, e.info, e.phys⟩, entries, rs.filter fun r => !r.updates⟩
  | none, r :: rs => ⟨some r.err, entries, rs.filter fun r => !r.updates⟩
  | none, [] => ⟨none, entries, []⟩

/-- CONTEXT_SAVE_COMPLETE: the drained strand's image is written and its context becomes FREE; a strand returned by LVS leaves no
image (R261, R277, R279). -/
def saveComplete (s : State) (key : Nat) : State :=
  match s.strandAt key with
  | none => s
  | some st =>
    if (s.ctx key).state != .saving || !drained s st then s
    else
      let core := keyCore key
      let copies := s.copies.filter fun c => c.uid == st.ident.uid
      let s1 := st.arr.ops.foldl (fun s o => withdrawCast s key o) (stopCopies s st.ident.uid)
      if st.leaving == some 5 then leaveContext (dropWaiters s1 st.ident.uid) key
      else
        let f := saveFaults s st
        let st1 := { st with
          spools := Vector.ofFn fun (i : Fin 16) => savedSpool st i.val
          arr := savedArr st.arr
          faults := f.entries, reports := f.reports, walked := [], asked := [], draining := false, haltPending := false
          stepping := false }
        let s1 := if st.reports.any fun r => r.updates then s1.dropProbes st.ident.uid else s1
        let s2 := writeImage s1 key st.block st1 copies
          { psize := bits (s.ctx key).part.toNat 23 16, dcause := f.fault.elim 0 fun r => r.cause, daddr := f.fault.elim 0 fun r => r.info }
        let reason := st.leaving.getD 3
        let x : Saved := { ctx := key, block := st.block, strand := { st1 with leaving := none }, copies := copies
                           phys := f.fault.any fun r => r.phys, stamp := s2.fresh }
        let s3 := leaveContext { s2 with fresh := s2.fresh + 1, saved := s2.saved ++ [x] } key
        if reason == 1 then postEvent s3 (dieOf core) 1 cBudget core (key % 2) (w64 st.block) false
        else if reason == 2 || reason == 4 then postEvent s3 (dieOf core) 4 0 core (key % 2) (w64 st.block) false
        else s3

/-! ### The resumption (R280) -/

/-- The sluices of an address space whose ring holds elements: SPEND bits to set (R289). -/
def spendBits (s : State) (asid : Nat) : Nat :=
  (List.range 4).foldl (fun acc k =>
    let e := s.readNat (sluiceEntryAddr s asid k) 32
    if sluiceBound e && ringCount e != 0 then acc ||| 2 ^ (48 + k) else acc) 0

/-- A copy goes on from its recorded index (R160). -/
def resumeCopy (key : Nat) (s : State) (c : Copy) : State :=
  enterCopy { s with fresh := s.fresh + 1 } { c with ctx := key, id := s.fresh }

/-- The elements of a pipe record stand in the skein's pipe again (R39, R279). -/
def resumePipe (k : Skein) (p : Nat × List Word) : Skein :=
  match k.pipes[p.1]? with
  | some (e, _) => { k with pipes := k.pipes.set p.1 (e, p.2) }
  | none => k

/-- The skein of a resumed member: it stands in its new context, with the pipes that it reads. -/
def resumeSkein (st : Strand) (old key : Nat) (pipes : List (Nat × List Word)) (k : Skein) : Skein :=
  if some k.id == st.ident.skein then
    pipes.foldl resumePipe { k with members := k.members.map fun m => if m == old then key else m }
  else k

/-- One saved strand is read back into a context, which is LOADING. -/
def resumeOne (s : State) (x : Saved) (key : Nat) : State :=
  let st := readImage s x.block x.phys x.strand
  let bt := st.pos.line.bt
  let st1 := { st with
    sys := { st.sys with umask := st.sys.umask ||| w64 (spendBits s st.ident.asid) }
    arr := { st.arr with ops := st.arr.ops.map fun o => { o with issued := bt, base := (partitionOf s key).1 } }
    resumed := true, ran := 0, overrun := 0, leaving := none, frozen := none }
  let copies := imageCopies s x.block (strandCopy s key st1 0 0 0) x.copies
  let s1 := moveBytes s (x.block + 0x80000) (partitionOf s key).1 (savedBytes s x)
  let s2 := returnBlock { s1 with saved := s1.saved.filter fun y => y.block != x.block } (dieOf (keyCore key)) x.block
  let s3 : State := { s2 with
    waiters := s2.waiters.map fun w => if w.uid == st.ident.uid then { w with ctx := key } else w
    skeins := s2.skeins.map (resumeSkein st x.ctx key (imagePipes s x.block)) }
  let s4 := s3.setCtx key { s3.ctx key with state := .loading, strand := some st1, lastLaunch := st1.ident.launch }
  copies.foldl (resumeCopy key) s4

/-- Each of some saved strands with a context for it: the given one for the first, else the lowest that takes it (DESIGN CHOICE, log
20: R37 allows either). -/
def resumeKeys (s : State) (key : Nat) (x : Saved) (all : List Saved) : Option (List (Saved × Nat)) :=
  all.mapM fun y =>
    if y.block == x.block then (if canResume s y key then some (y, key) else none) else (resumeContext s y).map fun k => (y, k)

/-- A saved strand may come back to a context now: its whole skein is saved, no record of it waits, and no other work that waits for the
context goes first (R39, R47, R48, R283). -/
def mayResume (s : State) (key : Nat) (x : Saved) : Bool :=
  let i := x.strand.ident
  mayReturn s x && !goesFirst (heldClaims s ++ (pointClaims s).filter fun c => c.launch != i.launch) key i.prio x.stamp

/-- STRAND_RESUME: a saved strand comes back on its own core; the members of a skein come back together (R37, R39, R280). -/
def strandResume (s : State) (image key : Nat) : State :=
  match s.saved.find? fun x => x.block == image with
  | none => s
  | some x =>
    match resumeKeys s key x (groupOf s x) with
    | none => s
    | some l => if l.all fun p => mayResume s p.2 p.1 then l.foldl (fun s p => resumeOne s p.1 p.2) s else s

/-- LOAD_COMPLETE: a context passes from LOADING to READY (R32). -/
def loadComplete (s : State) (key : Nat) : State :=
  let c := s.ctx key
  if c.state == .loading then s.setCtx key { c with state := .ready } else s

/-! ### The switch between contexts (R32, R33) -/

/-- A READY context whose strand may issue: with every member of its skein loaded (R39). One that is to leave issues to reach its
quiescent point (R32, R277); a member that has executed DONE issues only to leave with its skein (R40). -/
def mayIssue (s : State) (key : Nat) : Bool :=
  let c := s.ctx key
  c.state == .ready && c.strand.any fun st => (!st.dead || (memberDone s key && st.leaving.isSome)) && (partners s key).all fun k =>
    (s.ctx k).state == .ready || (s.ctx k).state == .issuing

/-- The READY context of a core that issues next: the higher class, and, of two of one class, context 0 (DESIGN CHOICE, log 19: R32
names no order). -/
def nextContext (s : State) (core : Nat) : Option Nat :=
  let prio (k : Nat) : Nat := ((s.strandAt k).map fun st => st.ident.prio).getD 0
  match mayIssue s (2 * core), mayIssue s (2 * core + 1) with
  | true, true => some (if prio (2 * core) < prio (2 * core + 1) then 2 * core + 1 else 2 * core)
  | true, false => some (2 * core)
  | false, true => some (2 * core + 1)
  | false, false => none

/-- A context leaves the core to the other: it does not issue, or its member of a skein has executed DONE. -/
def coreFree (s : State) (key : Nat) : Bool :=
  match (s.ctx key).state with
  | .issuing => memberDone s key && (s.strandAt key).all fun st => st.leaving.isNone
  | .saving | .free | .loading | .ready => true

/-- CONTEXT_SWITCH: the sequencer goes over to a READY context in 8 cycles, when no context of the core issues, or only one whose member of
a skein has executed DONE (R33, R40). A halt asked of a READY strand is taken now (R281). -/
def contextSwitch (s : State) (core : Nat) : State :=
  match nextContext s core with
  | none => s
  | some key =>
    let other := if key % 2 == 0 then key + 1 else key - 1
    let go (s : State) : State :=
      let c := s.ctx key
      let halt (st : Strand) : Strand := if st.haltPending then { st with halted := true, haltPending := false } else st
      (s.setCtx key { c with state := .issuing, strand := c.strand.map halt }).setCore core { s.core core with switching := 8 }
    if coreFree s other then go (if (s.ctx other).state == .issuing then s.setCtx other { s.ctx other with state := .ready } else s)
    else s

/-! ### The drain span and the passing of bundle-time (R12, R277) -/

/-- Whether a bundle-time of the strand of a context can pass without an issue: its last bundle still occupies it, its drain span
runs, or it waits for its own work. -/
def timePasses (s : State) (key : Nat) : Bool :=
  match s.strandAt key with
  | none => false
  | some st =>
    (!st.dead || st.draining) && !st.halted && st.frozen != some .held && st.frozen != some .blocked &&
      match (s.ctx key).state with
      | .issuing => st.draining || 0 < st.pos.line.busy || st.frozen.any fun w => w.needsTime st
      | .saving | .free | .loading | .ready => false

/-- RESULT_LANDING: a bundle-time passes and the results due at it land (R12, R58). -/
def resultLanding (s : State) (key : Nat) : State := if timePasses s key then advance s key else s

/-! ### The meanings -/

def execResultLanding (core ctx : Nat) (s : State) : Host.Outcome State Fault Refusal := .next (resultLanding s (keyOf core ctx))
def execBudgetExpiry (core ctx : Nat) (s : State) : Host.Outcome State Fault Refusal := .next (budgetExpiry s (keyOf core ctx))
def execHung (core ctx : Nat) (s : State) : Host.Outcome State Fault Refusal := .next (hungStrand s (keyOf core ctx))
def execPreemption (core ctx : Nat) (s : State) : Host.Outcome State Fault Refusal := .next (preempt s (keyOf core ctx))
def execTimeSliceSwitch (core ctx : Nat) (s : State) : Host.Outcome State Fault Refusal := .next (timeSlice s (keyOf core ctx))
def execStrandSwitch (core ctx : Nat) (s : State) : Host.Outcome State Fault Refusal := .next (strandSwitch s (keyOf core ctx))
def execContextSaveComplete (core ctx : Nat) (s : State) : Host.Outcome State Fault Refusal := .next (saveComplete s (keyOf core ctx))
def execStrandResume (image ctx : Nat) (s : State) : Host.Outcome State Fault Refusal :=
  .next (match s.saved.find? fun x => x.block == image with
    | some x => strandResume s image (keyOf (keyCore x.ctx) ctx)
    | none => s)
def execLoadComplete (core ctx : Nat) (s : State) : Host.Outcome State Fault Refusal := .next (loadComplete s (keyOf core ctx))
def execContextSwitch (core : Nat) (s : State) : Host.Outcome State Fault Refusal := .next (contextSwitch s core)

end Sys2Proof.Machine
end

