-- ==== Sys2Proof/Machine/Host.lean ====
section
/-!
DEFINITION. The host-side registers (R281, R283, R286, R294, R298, R299), the timebase (R293-R295) and the boot, measurement and
identity that Fozor gives (R296-R298).
-/
namespace Sys2Proof.Machine

open Sys2Proof

/-! ### Measurement registers (R296) -/

/-- A measurement register is extended with a digest: m := SHAKE256(m ∥ digest). -/
def measure (s : State) (n : Nat) (digest : List Byte) : State :=
  let m := (s.fozor.measures.getD n []) ++ digest
  { s with fozor := { s.fozor with measures := s.fozor.measures.setIfInBounds n (Config.shake256 m) } }

/-- ASCII bytes. -/
def ascii (l : List Char) : List Byte := l.map fun c => BitVec.ofNat 8 c.toNat

/-! ### DEVCTL, the save pool and PTPCFG (R281, R283, R293, R294) -/

/-- DEVCTL: EN as written, DBGEN only while EN was 0; setting DBGEN extends measurement register 6 (R281, R283). A failed boot
fixes EN at 0 (R296). -/
def writeDevctl (s : State) (v : Word) : State :=
  let en := bit v.toNat 0 && s.fozor.boot != 2
  let dbg := if s.host.en then s.host.dbgen else bit v.toNat 1
  let s1 : State := { s with host := { s.host with en := en, dbgen := dbg } }
  if dbg && !s.host.dbgen then measure s1 6 (Config.shake256 (ascii ['D', 'B', 'G', 'E', 'N'])) else s1

/-- SVPOOL word 1: a write appends a 1 MiB block (R283). -/
def svpoolAppend (s : State) (die : Nat) (v : Word) : State := if die < 8 then returnBlock s die (bits v.toNat 56 20 * 2 ^ 20) else s

/-- The timebase loses its lock (R293). -/
def unlock (t : TimeBase) : TimeBase := { t with locked := false, hold := t.hold || t.locked, run := 0 }

/-- PTPCFG: a change clears LOCKED (R294). -/
def writePtpcfg (s : State) (v : Word) : State :=
  let w := v &&& 0x3FF
  if w == s.host.ptpcfg then s else { s with host := { s.host with ptpcfg := w }, time := unlock s.time }

/-! ### The other registers (R283, R286) -/

/-- The base and LOG2N fields of EVRING and SVPOOL word 0. -/
def ringMask : Word := 0x01FFFFFFFFFFF01F
/-- The base field of QTAB, ASTAB and SLTAB. -/
def tableMask : Word := 0x01FFFFFFFFFFF000

/-- The half of an inbound window at word `h` (R286). -/
def putWindow (w : Word × Word) (h : Nat) (v : Word) : Word × Word :=
  if h == 0 then (v &&& 0x00000FFFFFFF0000, w.2) else (w.1, v &&& 0x00000FFFFFFF0003)

/-- The event ring of a die after a write of word `h`: the base, or HEAD (R283). -/
def putRing (r : EventRing) (h : Nat) (v : Word) : EventRing :=
  if h == 0 then { r with word0 := v &&& ringMask } else { r with head := bits v.toNat 31 16 }

/-- A host-side register without behaviour of its own takes its fields; FABID, QTAB, ASTAB, SLTAB and FGRP only while EN = 0 (R283). -/
def writeHostReg (s : State) (off : Nat) (v : Word) : State :=
  let h := s.host
  let put (h : HostRegs) : State := { s with host := h }
  let locked (h' : HostRegs) : State := if h.en then s else { s with host := h' }
  if off % 8 != 0 then s
  else if off == 0x0010 then locked { h with fabid := v &&& 0x83FF }
  else if off == 0x0018 then locked { h with qtab := v &&& tableMask }
  else if off == 0x0020 then locked { h with astab := v &&& tableMask }
  else if off == 0x0028 then locked { h with sltab := v &&& tableMask }
  else if off == 0x0030 then put { h with tslice := w64 (max 4096 (bits v.toNat 31 0)) }
  else if 0x0040 ≤ off && off < 0x00C0 then
    let d := (off - 0x0040) / 16
    let r := putRing (h.rings.getD d ⟨0, 0, 0, 0, []⟩) ((off - 0x0040) / 8 % 2) v
    drainRing (r.waiting.length) (put { h with rings := h.rings.setIfInBounds d r }) d
  else if 0x00C0 ≤ off && off < 0x0140 && (off - 0x00C0) / 8 % 2 == 0 then
    let d := (off - 0x00C0) / 16
    put { h with pools := h.pools.setIfInBounds d { h.pools.getD d ⟨0, [], 0, 0⟩ with word0 := v &&& ringMask } }
  else if 0x0140 ≤ off && off < 0x01C0 then locked { h with fgrp := h.fgrp.setIfInBounds ((off - 0x0140) / 8) v }
  else if 0x0200 ≤ off && off < 0x0300 then
    let w := (off - 0x0200) / 16
    put { h with inwin := h.inwin.setIfInBounds w (putWindow (h.inwin.getD w (0, 0)) ((off - 0x0200) / 8 % 2) v) }
  else if off == 0x0340 then put { h with dbgsel := v &&& 0x3FF }
  else if off == 0x0358 then put { h with dbgaddr := v &&& 0x7FFF8 }
  else s

/-- The context that DBGSEL selects (R281). -/
def debugKey (s : State) : Nat := 2 * bits s.host.dbgsel.toNat 8 0 + bits s.host.dbgsel.toNat 9 9

/-- DBGSTAT (R281). -/
def debugStatus (s : State) : Word :=
  let st := s.strandAt (debugKey s)
  w64 (packFields [(1, bit01 s.host.refused), (1, bit01 (st.any fun t => t.haltPending)), (1, bit01 (st.any fun t => t.halted))])

/-- EVAC, its RW fields as last written (R299). -/
def evacWord (h : HostRegs) : Word :=
  w64 (packFields [(8, h.evacCause), (5, 0), (3, h.evacState), (6, 0), (10, h.evacTarget), (13, 0), (3, h.evacCtl)])

/-- A read of the host-side register block (R283): offsets not listed read as zero. -/
def readHostReg (s : State) (off : Nat) : Word :=
  let h := s.host
  if off == 0x0000 then 0x71040011
  else if off == 0x0008 then w64 (bit01 h.en + 2 * bit01 h.dbgen)
  else if off == 0x0010 then h.fabid
  else if off == 0x0018 then h.qtab
  else if off == 0x0020 then h.astab
  else if off == 0x0028 then h.sltab
  else if off == 0x0030 then h.tslice
  else if 0x0040 ≤ off && off < 0x00C0 && off % 8 == 0 then
    let r := h.rings.getD ((off - 0x0040) / 16) ⟨0, 0, 0, 0, []⟩
    if off % 16 == 0 then r.word0 else w64 (r.head * 65536 + r.tail)
  else if 0x00C0 ≤ off && off < 0x0140 && off % 8 == 0 then
    let p := h.pools.getD ((off - 0x00C0) / 16) ⟨0, [], 0, 0⟩
    if off % 16 == 0 then p.word0 else w64 (p.head * 65536 + p.tail)
  else if 0x0140 ≤ off && off < 0x01C0 && off % 8 == 0 then h.fgrp.getD ((off - 0x0140) / 8) 0
  else if 0x0200 ≤ off && off < 0x0300 && off % 8 == 0 then
    let w := h.inwin.getD ((off - 0x0200) / 16) (0, 0)
    if off % 16 == 0 then w.1 else w.2
  else if off == 0x0300 then h.ptpcfg
  else if off == 0x0310 then evacWord h
  else if off == 0x0320 then h.stcfg
  else if off == 0x0340 then h.dbgsel
  else if off == 0x0350 then debugStatus s
  else if off == 0x0358 then h.dbgaddr
  else 0

/-- A word of the configuration header (R282): the device identifier 0x7104 above the vendor identifier at offset 0, Revision ID 0x11
below the class code at offset 8. PRESUMED (log 57): those places are PCI's own; every other field stands outside the manual. -/
def configWord (off : Nat) : Nat :=
  match off with
  | 0x00 => 0x7104 * 2 ^ 16 + Config.configHeader 0 % 2 ^ 16
  | 0x08 => Config.configHeader 8 % 2 ^ 24 * 2 ^ 8 + 0x11
  | _ => Config.configHeader off % 2 ^ 32

/-! ### Time (R293, R295) -/

/-- SYNC_MESSAGE: an offset estimate in nanoseconds, positive when the timebase is behind. Sixteen in a row within 40 ns lock it,
one beyond 80 ns unlocks it; unlocked and more than 1 ms behind, it steps forward (R293). -/
def syncMessage (s : State) (offset : Int) (domain : Nat) : State :=
  let cfg := s.host.ptpcfg.toNat
  if !bit cfg 9 || domain != bits cfg 7 0 then s
  else
    let t := s.time
    let run := if offset.natAbs ≤ 40 then t.run + 1 else 0
    let now := if !t.locked && 1000000 < offset then timeForward t.now offset.toNat else t.now
    let t1 := { t with run := run, now := now }
    let t2 := if 80 < offset.natAbs then { unlock t1 with run := 0 }
      else if 16 ≤ run then { t1 with locked := true, ever := true, hold := false }
      else t1
    { s with time := t2 }

/-- SYNC_TIMEOUT: no Sync for 3 s clears LOCKED. -/
def syncTimeout (s : State) : State := { s with time := unlock s.time }

/-- WAITT_EXPIRY: TIME has reached the operand of a WAITT (R295). -/
def waittExpiry (s : State) (key : Nat) : State :=
  match s.strandAt key with
  | none => s
  | some st =>
    if st.frozen == some .time && st.waits.wake.toNat ≤ s.time.now.toNat then
      s.setStrandAt key { st with frozen := none, waits := { st.waits with wake := 0 } }
    else s

/-! ### Boot (R296, R298) -/

/-- CRC-16/CCITT-FALSE: polynomial 0x1021 from 0xFFFF, most significant bit first (log 6). -/
def crc16 (l : List Byte) : Nat :=
  l.foldl (fun crc b =>
    (List.range 8).foldl (fun c i =>
      let top := c / 0x8000 % 2
      let d := b.toNat / 2 ^ (7 - i) % 2
      let c' := c * 2 % 0x10000
      if top != d then c' ^^^ 0x1021 else c') crc) 0xFFFF

/-- The board record of the boot flash (R298). -/
def boardRecord : List Byte := (Config.bootFlash.drop 0x1000).take 64

/-- A flash area of all ones holds no record. -/
def noRecord (l : List Byte) : Bool := l.all (· == 0xFF)

/-- The checks of R298 on a board record. -/
def recordValid (l : List Byte) : Bool :=
  let r := leNat l
  bits r 31 0 == 0x52425A4E && bits r 47 32 == 1 && bits r 495 64 == 0 && bits r 511 496 == crc16 (l.take 62)
    && bits r 55 48 ≤ 1 && (bits r 55 48 == 1 || bits r 63 56 == 0) && !(Config.isModule && bits r 55 48 != 0)

/-- STCFG as applied (R123, R298). -/
def appliedStcfg (l : List Byte) : Word :=
  let r := leNat l
  let mode := if noRecord l then 0 else bits r 55 48
  if mode == 0 then
    let cap := if Config.isModule then 6144 else ((List.range 48).map Config.deviceGiB).sum
    w64 (packFields [(24, cap % 2 ^ 24), (8, 0), (8, 0), (8, 0)])
  else
    let up := (bitSet 8 (bits r 63 56)).filter fun p => Config.expanderGiB p != 0
    let cap := (up.map fun p => min 1024 (Config.expanderGiB p)).sum
    w64 (packFields [(24, cap % 2 ^ 24), (8, up.foldl (fun m p => m + 2 ^ p) 0), (8, bits r 63 56), (8, 1)])

/-- The manifest verifies: its key is the fused one, its signature holds over it and the images' digests, its security version is
not below the fused minimum (R296). -/
def manifestOk (minVersion : Nat) : Bool :=
  Config.shake256 Config.manifestKey == Config.fusedKeyDigest
    && Config.mldsaVerify Config.manifestKey (Config.manifest ++ Config.bootImages.flatMap Config.shake256) Config.manifestSignature
    && minVersion ≤ Config.manifestVersion

/-- The measurement registers extended with each stage's digest. -/
def measureStages (s : State) : State :=
  (Config.bootImages.zip (List.range Config.bootImages.length)).foldl (fun s p =>
    measure s (Config.stageRegister p.2 % 8) (Config.shake256 p.1)) s

/-- POWER_ON_BOOT: Fozor verifies, measures and releases the dies, or leaves them in reset with EN fixed at 0 and a failure code (R296,
R298). -/
def powerOnBoot (s : State) : State :=
  if s.fozor.boot != 0 then s
  else
    let s1 := measureStages s
    let l := boardRecord
    if !manifestOk s.fozor.minVersion || !(noRecord l || recordValid l) then
      { s1 with fozor := { s1.fozor with boot := 2, failure := Config.bootFailure (if manifestOk s.fozor.minVersion then 1 else 0) }, host := { s1.host with en := false } }
    else
      let s2 := if noRecord l then s1 else measure s1 7 (Config.shake256 l)
      { s2 with fozor := { s2.fozor with boot := 1 }, host := { s2.host with stcfg := appliedStcfg l } }

/-- QUOTE: the measurement registers and a 32-byte nonce, signed with the identity key (R296). -/
def quote (s : State) (nonce : List Byte) : State :=
  if nonce.length != 32 then s
  else
    let body := s.fozor.measures.toList.flatten ++ nonce
    { s with reply := (body ++ Config.mldsaSign body, false) }

/-- SECURITY_VERSION_RAISE: only a command signed under the fused key raises the fused minimum (R296). -/
def raiseVersion (s : State) (version : Nat) (sig : List Byte) : State :=
  if Config.shake256 Config.manifestKey == Config.fusedKeyDigest && Config.mldsaVerify Config.manifestKey (leBytes 8 version) sig
      && s.fozor.minVersion < version then
    { s with fozor := { s.fozor with minVersion := version } }
  else s

/-- Bytes padded with spaces to 16. -/
def padName (l : List Byte) : List Byte := (l ++ List.replicate 16 0x20).take 16

/-- The identity record (R297). -/
def identityRecord : List Byte :=
  let part := if Config.isModule then ascii ['N', 'Z', '7', '1', '0', '4'] else ascii ['N', 'Z', '7', '1', '0', '4', '-', 'P']
  let digest := (Config.shake256 Config.identityKey ++ List.replicate 64 0).take 64
  let body := leBytes 2 1 ++ padName part ++ padName Config.serialNumber ++ [0x11, 0] ++ digest
  body ++ leBytes 2 (crc16 body)

/-- IDENTITY_READ (R297). -/
def identityRead (s : State) (off n : Nat) : State := { s with reply := ((identityRecord.drop off).take n, false) }

/-! ### The meanings -/

def execDevctl (value : Word) (s : State) : Host.Outcome State Fault Refusal := .next (writeDevctl s value)
def execSvpoolAppend (die : Nat) (value : Word) (s : State) : Host.Outcome State Fault Refusal := .next (svpoolAppend s die value)
def execPtpcfg (value : Word) (s : State) : Host.Outcome State Fault Refusal := .next (writePtpcfg s value)
def execSyncMessage (offset : Int) (domain : Nat) (s : State) : Host.Outcome State Fault Refusal := .next (syncMessage s offset domain)
def execSyncTimeout (s : State) : Host.Outcome State Fault Refusal := .next (syncTimeout s)
def execWaittExpiry (core ctx : Nat) (s : State) : Host.Outcome State Fault Refusal := .next (waittExpiry s (keyOf core ctx))
def execPowerOnBoot (s : State) : Host.Outcome State Fault Refusal := .next (powerOnBoot s)
def execQuote (nonce : List Byte) (s : State) : Host.Outcome State Fault Refusal := .next (quote s nonce)
def execSecurityVersionRaise (version : Nat) (sig : List Byte) (s : State) : Host.Outcome State Fault Refusal :=
  .next (raiseVersion s version sig)
def execIdentityRead (off bytes : Nat) (s : State) : Host.Outcome State Fault Refusal := .next (identityRead s off bytes)

end Sys2Proof.Machine
end

