-- ==== Sys2Proof/Machine/Debug.lean ====
section
/-!
DEFINITION. Debugger halts (R281): HALT, RESUME and STEP commands, the halt itself and DBGDATA.
-/
namespace Sys2Proof.Machine

open Sys2Proof

/-- A command was refused or taken (R281). -/
def setRefused (s : State) (r : Bool) : State := { s with host := { s.host with refused := r } }

/-- A command on the selected strand: refused with DBGEN 0, with no strand ISSUING or READY, or where it does not fit the
strand (R281). -/
def debugCommand (s : State) (fits : Strand → Bool) (f : Strand → Strand) : State :=
  let key := debugKey s
  match s.strandAt key with
  | none => setRefused s true
  | some st =>
    let c := (s.ctx key).state
    if !s.host.dbgen || !(c == .issuing || c == .ready) || !fits st then setRefused s true
    else (setRefused s false).setStrandAt key (f st)

/-- HALT makes a halt pending. -/
def debugHalt (s : State) : State := debugCommand s (fun st => !st.halted) fun st => { st with haltPending := true }

/-- The spool records that a debugger has edited take effect, once the pushes that a store spool holds are written (R281). -/
def settleDrafts (s : State) (key : Nat) : State :=
  match s.strandAt key with
  | none => s
  | some st =>
    let s1 := st.drafts.foldl (fun s d => flushSpool key d.1 9 s) s
    match s1.strandAt key with
    | none => s1
    | some st1 =>
      let edited (n r : Nat) : Option Spool :=
        let old := st1.spools.getD n none
        if r == spoolRecord old then old else spoolOfRecord st1 (bankFormats s1) old r
      s1.setStrandAt key { st1 with drafts := [], spools := st1.drafts.foldl (fun l d => l.setIfInBounds d.1 (edited d.1 d.2)) st1.spools }

/-- A command that has a halted strand run on. -/
def runOnCommand (s : State) (f : Strand → Strand) : State :=
  let s1 := debugCommand s (fun st => st.halted) f
  if s1.host.refused then s1 else settleDrafts s1 (debugKey s1)

/-- RESUME unfreezes the core. -/
def debugResume (s : State) : State := runOnCommand s fun st => { st with halted := false }

/-- STEP resumes and makes a new halt pending. -/
def debugStep (s : State) : State :=
  runOnCommand s fun st => { st with halted := false, haltPending := true, stepping := true }

/-- A pending halt is due: the strand stands at a quiescent point where no fault is taken first. -/
def haltDue (s : State) (key : Nat) : Bool :=
  match s.strandAt key with
  | none => false
  | some st => st.haltNext && (s.ctx key).state == .issuing && !st.dead && !st.halted && !st.draining && st.pos.line.busy == 0
      && !st.frozen.any Wait.fixed && quiescentHere s key st

/-- The strand of a context halts where one is due. -/
def haltAt (s : State) (key : Nat) : State :=
  match s.strandAt key with
  | none => s
  | some st => if haltDue s key then s.setStrandAt key { st with halted := true, haltPending := false } else s

/-- DEBUGGER_HALT: the pending halt of a core's issuing strand is taken, and the core freezes (R264, R281). -/
def debuggerHalt (s : State) (core : Nat) : State := haltAt (haltAt s (2 * core)) (2 * core + 1)

/-- DBGDATA: the 8 bytes at DBGADDR of the halted strand, as a save image would hold them; a write puts them (R281). -/
def debugData (s : State) (write : Option Word) : State :=
  let key := debugKey s
  let off := s.host.dbgaddr.toNat
  match s.strandAt key with
  | none => { s with reply := (leBytes 8 0, false) }
  | some st =>
    if !s.host.dbgen || !st.halted then { s with reply := (leBytes 8 0, false) }
    else match write with
      | none => { s with reply := (leBytes 8 (strandWord key st off), false) }
      | some v => s.setStrandAt key (putStrandWord st off v.toNat)

def execHalt (s : State) : Host.Outcome State Fault Refusal := .next (debugHalt s)
def execDebugResume (s : State) : Host.Outcome State Fault Refusal := .next (debugResume s)
def execStep (s : State) : Host.Outcome State Fault Refusal := .next (debugStep s)
def execDebuggerHalt (core : Nat) (s : State) : Host.Outcome State Fault Refusal := .next (debuggerHalt s core)
def execDbgdata (write : Option Word) (s : State) : Host.Outcome State Fault Refusal := .next (debugData s write)

end Sys2Proof.Machine
end

