-- ==== Sys2Proof/Machine/Evacuation.lean ====
section
/-!
DEFINITION. Evacuation (R299-R302), throttling, shutdown and the loss of power (R42, R285, R301, R304).
-/
namespace Sys2Proof.Machine

open Sys2Proof

/-- Puts the state of EVAC; a change is signalled on vector 8 (R282). -/
def setEvac (s : State) (n : Nat) : State :=
  let h := s.host
  let msix := if h.evacState == n then h.msix else h.msix.setIfInBounds 8 (h.msix.getD 8 0 + 1)
  { s with host := { h with evacState := n, msix := msix } }

/-- A failed evacuation (R301). -/
def failEvac (s : State) (cause : Nat) : State := setEvac { s with host := { s.host with evacCause := cause } } 5

/-! ### GO, ABORT, RECV (R299-R301) -/

/-- A collective ends with FABRIC_ERROR (R291, R301). -/
def endCollective (s : State) (id : Nat) : State :=
  match s.collectives.find? fun c => c.id == id with
  | none => s
  | some _ =>
    collectiveEnd { s with collectives := s.collectives.map fun c => if c.id == id then { c with running := true } else c } id [] true

/-- Every strand is asked to leave. -/
def leaveEverywhere (s : State) : State :=
  s.ctxs.foldl (fun s c =>
    match s.strandAt c.1 with
    | none => s
    | some st => s.setStrandAt c.1 { st with leaving := some (st.leaving.getD 4), resumed := false }) s

/-- GO in IDLE: towards a package in RECEIVE the STOP state begins, else the evacuation fails at once (R300, R301). -/
def evacGo (s : State) : State :=
  if s.host.evacState != 0 then s
  else if !s.inFabric || !Config.foreignReceives s.ticks s.host.evacTarget then failEvac s cFabricError
  else
    let s1 := (s.collectives.map fun c => c.id).foldl endCollective s
    leaveEverywhere (setEvac { s1 with host := { s1.host with evacAbort := false } } 1)

/-- ABORT in STOP or STREAM goes on to DRAIN (R301). -/
def evacAbort (s : State) : State :=
  if s.host.evacState == 1 || s.host.evacState == 2 then setEvac { s with host := { s.host with evacAbort := true } } 3 else s

/-- RECV in IDLE: only the evacuating package, named in TARGET, is admitted (R299, R300). -/
def evacRecv (s : State) : State :=
  if s.host.evacState != 0 then s
  else setEvac { s with host := { s.host with evacSource := some s.host.evacTarget } } 6

/-- A write of the control bits GO (1), ABORT (2) and RECV (4) of EVAC: they are kept, and the one that the state takes acts. DESIGN
CHOICE (log 12): in IDLE, GO goes before RECV. -/
def evacControl (s : State) (ctl : Nat) : State :=
  let s1 : State := { s with host := { s.host with evacCtl := ctl } }
  if s.host.evacState == 0 then (if bit ctl 0 then evacGo s1 else if bit ctl 2 then evacRecv s1 else s1)
  else if bit ctl 1 then evacAbort s1 else s1

/-- HOST_REGISTER_WRITE: a host-side register takes its fields; EVAC takes TARGET and its control bits (R283, R299). -/
def hostRegisterWrite (s : State) (off : Nat) (v : Word) : State :=
  if off == 0x0310 then evacControl { s with host := { s.host with evacTarget := bits v.toNat 25 16 } } (bits v.toNat 2 0)
  else writeHostReg s off v

/-! ### The evacuation levee image (R301) -/

/-- The strands that carry a point of a launch: one, or the members of its skein. -/
def strandsOf (s : State) (r : Nat) : Nat := if launchIsSkein s r then ((kernelImages s r).getD []).length else 1

/-- The save-image address of member `m` of a point, 0 where it has none. -/
def savedBlock (s : State) (slot : Nat) (p : InFlight) (m : Nat) : Nat :=
  let mine (v : Saved) : Bool := v.strand.ident.launch == some (s.slot slot).launch && match v.strand.ident.work with
    | .point n a b c => n == slot && a == p.x && b == p.y && c == p.z
    | .member n a b c k => n == slot && a == p.x && b == p.y && c == p.z && k == m
    | _ => false
  (s.saved.find? mine).elim 0 Saved.block

/-- The bytes of a slot in the image: R263's with FIRED kept, then the save-image address of each strand of each fired point in
firing order; 64 zero bytes for a slot not occupied (log 12). -/
def slotImage (s : State) (n : Nat) : List Byte :=
  let x := s.slot n
  if x.state == .free then List.replicate 64 0
  else padTo64 (frontierImage true { x with predw := x.predw || x.state == .waiting } ++ (firingOrder x.flying).flatMap fun p =>
    (List.range (strandsOf s x.record)).flatMap fun m => leBytes 8 (savedBlock s n p m))

/-! What the neighbour needs beside, so that every saved strand, task strands among them, goes on as it stood (R470, R302): DESIGN CHOICE
(log 12), rows of 8-byte words behind the slots, in sections that begin with their number of rows. -/

/-- A section of rows of `w` words. -/
def noteRows (w : Nat) (l : List (List Nat)) : List Byte :=
  leBytes 8 l.length ++ l.flatMap fun r => (List.range w).flatMap fun i => leBytes 8 (r.getD i 0)

/-- A set of small numbers as one word. -/
def maskOf (l : List Nat) : Nat := l.foldl (fun m i => m ||| 2 ^ i) 0

/-- What a strand is, as words. -/
def identRow (i : Ident) : List Nat :=
  let work : List Nat := match i.work with
    | .none => [0, 0, 0, 0, 0, 0]
    | .point n a b c => [1, n, a, b, c, 0]
    | .member n a b c m => [2, n, a, b, c, m]
    | .task r => [3, r, 0, 0, 0, 0]
    | .firmware => [4, 0, 0, 0, 0, 0]
  [i.uid, i.launch.getD 0, i.skein.getD 0, i.region.getD 0, i.asid, i.prio, i.image, i.codeLen, i.callDepth, i.spoolMask, i.cscope, i.weight] ++ work

/-- A number of the source as the neighbour numbers it. -/
def renumber (base n : Nat) : Nat := if n == 0 then 0 else base + n

/-- A number that may be missing. -/
def renumbered (base n : Nat) : Option Nat := if n == 0 then none else some (base + n)

/-- What a strand is, from its words. -/
def identFrom (base : Nat) (r : List Nat) : Ident :=
  let w (i : Nat) : Nat := r.getD i 0
  let work : Work := match w 12 with
    | 1 => .point (w 13) (w 14) (w 15) (w 16)
    | 2 => .member (w 13) (w 14) (w 15) (w 16) (w 17)
    | 3 => .task (renumber base (w 13))
    | 4 => .firmware
    | _ => .none
  { uid := renumber base (w 0), work := work, launch := renumbered base (w 1), skein := renumbered base (w 2), region := renumbered base (w 3)
    asid := w 4, prio := w 5, image := w 6, codeLen := w 7, callDepth := w 8, spoolMask := w 9, cscope := w 10, weight := w 11 }

/-- The slots that hold some launches. -/
def slotsOf (s : State) (l : List Nat) : Nat := maskOf ((s.slots.filter fun p => p.2.state != .free && l.contains p.2.launch).map Prod.fst)

/-- A slot beside its frontier. -/
def slotRow (s : State) (p : Nat × LaunchSlot) : List Nat :=
  let x := p.2
  let state := match x.state with
    | .free => 0
    | .waiting => 1
    | .running => 2
    | .saved => 3
  [p.1, state, bit01 x.saving, x.launch, slotsOf s x.pred0, slotsOf s x.pred1, x.lastFired, x.signalled, x.firedTotal]

/-- The widths of the sections: the next number; slots; points in flight; the launch that last used each partition; regions; packets;
inboxes; waiting strands; skeins; polders; saved strands. -/
def noteWidths : List Nat := [1, 9, 8, 2, 7, 30, 2, 4, 17, 6, 23]

/-- The sections. -/
def noteSections (s : State) : List (List (List Nat)) :=
  let taken := s.slots.filter fun p => p.2.state != .free
  [ [[s.fresh]]
  , taken.map (slotRow s)
  , taken.flatMap fun p => (firingOrder p.2.flying).map fun f => [p.1, f.x, f.y, f.z, f.order, bit01 f.trig, bit01 f.retired, bit01 f.returning]
  , s.ctxs.map fun c => [c.1, c.2.lastLaunch.getD 0]
  , s.regions.map fun r => [r.id, r.slot, r.launch, r.x, r.y, r.z, r.returned]
  , s.packets.map fun p => [p.id, p.addr, p.arg0.toNat, p.arg1.toNat, p.entry, p.weight, p.region, p.core, p.parkedOn.elim 0 (· + 1), bit01 p.arrived,
      p.launchWord.toNat, p.arg.toNat] ++ identRow p.ident
  , s.cores.flatMap fun c => c.2.inbox.map fun id => [c.1, id]
  , s.waiters.map fun w => [w.ctx, w.uid, w.cell, w.depth]
  , s.skeins.map fun k => [k.id, k.slot, k.launch, k.x, k.y, k.z, maskOf k.done, maskOf k.trigs, k.members.length] ++ k.members
  , s.polders.map fun p => [p.level, p.pid, p.domain, p.count, p.phase, p.members]
  , s.saved.map fun v => [v.block, v.ctx, v.stamp, bit01 v.strand.sideEffect, bit01 v.strand.dead] ++ identRow v.strand.ident ]

/-- The image of the 64 slots, and what stands behind it. -/
def leveeImage (s : State) : List Byte :=
  (List.range 64).flatMap (slotImage s) ++ (noteWidths.zip (noteSections s)).flatMap fun p => noteRows p.1 p.2

/-- No strand is left in a context. -/
def coresEmpty (s : State) : Bool := s.ctxs.all fun c => c.2.strand.isNone

/-- No engine has an access to make any more: every request that the package issued has its response (R301). -/
def enginesIdle (s : State) : Bool :=
  s.copies.isEmpty && s.merges.isEmpty && s.casts.isEmpty && s.collectives.isEmpty && s.cores.all fun c => c.2.probes.isEmpty

/-- Every launch stands saved (R301). -/
def saveLaunches (s : State) : State :=
  { s with slots := s.slots.map fun (n, x) =>
      if x.state == .free then (n, x) else (n, { x with predw := x.predw || x.state == .waiting, state := .saved, saving := false }) }

/-- EVAC_STOP_COMPLETE: every strand is out; the levee image is written and the stream begins (R301). -/
def evacStopped (s : State) : State :=
  if s.host.evacState != 1 || !coresEmpty s then s
  else setEvac (saveLaunches (s.writePhys Config.evacImage (leveeImage s))) 2

/-- EVAC_STREAM_COMPLETE: the populated package space stands at the neighbour (R301). -/
def evacStreamed (s : State) : State := if s.host.evacState == 2 then setEvac s 3 else s

/-- EVAC_DRAIN_COMPLETE: nothing is owed any more: QUIET, with every station idle and UNLATCH_OK, or after an ABORT, IDLE with EN = 0
(R301). -/
def evacDrained (s : State) : State :=
  if s.host.evacState != 3 || !coresEmpty s || !enginesIdle s then s
  else if s.host.evacAbort then
    let s1 := saveLaunches s
    setEvac { s1 with host := { s1.host with evacAbort := false, en := false } } 0
  else setEvac { s with stationsDown := List.range 96, host := { s.host with unlatch := true } } 4

/-- EVAC_TIMEOUT: 30 s from GO have passed (R301). -/
def evacTimeout (s : State) : State :=
  if 1 ≤ s.host.evacState && s.host.evacState ≤ 3 then failEvac s (Config.evacCause s.ticks % 256) else s

/-! ### The neighbour (R302) -/

/-- The operation that a recorded replay entry stands for, by its slot and encoding, to be run with operands read afresh: the image holds
no captured ones (log 12). -/
def adoptedRedo (e : Nat) : Option Instr :=
  ([SlotKind.c, .a, .b, .v, .w, .m, .x, .t][bits e 135 133]?).bind fun k => decodeSlot k (bits e 55 0)

/-- The replay entries of an image that comes from another package. -/
def adoptedEntries (s : State) (block : Nat) : List Replay :=
  (List.range (bits (s.readNat block 64) 68 63)).filterMap fun i =>
    (adoptedRedo (s.readNat (block + 0x47000 + 32 * i) 32)).map fun op => ⟨i, 0, 0, 0, 0, false, 0, 1, .op op [] 0⟩

/-- A strand with loop levels, return addresses and replay entries for as many as its image counts, into which the image is read. -/
def emptyStrand (s : State) (block : Nat) : Strand :=
  let status := s.readNat (block + 0x400) 8
  let z := Strand.init
  let level : Level := { start := 0, stop := 0, count := 0, index := 0, stages := 0, run := 0, tail := 0, drained := false }
  { z with
    faults := adoptedEntries s block
    pos := { z.pos with loops := List.replicate (bits status 14 12) level, rets := List.replicate (bits status 19 15) 0 } }

/-- The rows of some sections from an address. -/
def readNotes (s : State) : List Nat → Nat → List (List (List Nat))
  | [], _ => []
  | w :: ws, a =>
    let n := s.readNat a 8
    let row (i : Nat) : List Nat := (List.range w).map fun j => s.readNat (a + 8 + 8 * (w * i + j)) 8
    (List.range n).map row :: readNotes s ws (a + 8 + 8 * w * n)

/-- A slot of the levee image: its frontier and the save images of its points; and the address behind it. -/
structure SlotPart where
  frontier : Option Frontier
  blocks : List Nat
  next : Nat

/-- The slot whose part of the levee image stands at an address, or none where it fails the checks of a save image but for its FIRED bits
(R5, R262, R301, R302). -/
def slotPart (s : State) (va : Nat) : Option SlotPart :=
  let header := s.readNat va 64
  if header == 0 then some ⟨none, [], va + 64⟩
  else
    let record := s.readNat (va + 64) 128
    let ncol := bits header 127 96
    let ninf := bits header 159 128
    let cols := (List.range ncol).map fun i => s.readNat (va + 192 + 8 * i) 8
    let entries := (List.range ninf).map fun i => s.readNat (va + 192 + 8 * ncol + 16 * i) 16
    let f : Frontier := ⟨record, 0, bit header 80, cols, entries⟩
    let unfired (w : Nat) : Nat := w - bits w 39 32 * 2 ^ 32
    let n := ninf * strandsOf s record
    let blocks := ((List.range n).map fun i => s.readNat (va + frontierBytes ncol ninf + 8 * i) 8).filter (· != 0)
    if recordOk s record && frontierOk header { f with cols := cols.map unfired } && blocks.all (imageOk s) then
      some ⟨some f, blocks, va + roundUp (frontierBytes ncol ninf + 8 * n) 64⟩
    else none

/-- The parts of `n` slots from an address, and the address behind them. -/
def slotParts (s : State) : Nat → Nat → Option (List SlotPart × Nat)
  | 0, va => some ([], va)
  | n + 1, va => (slotPart s va).bind fun p => (slotParts s n p.next).map fun q => (p :: q.1, q.2)

/-- A slot of the image in the neighbour's levee. -/
def adoptSlot (base : Nat) (rows points : List (List Nat)) (p : SlotPart × Nat) : Option (Nat × LaunchSlot) :=
  p.1.frontier.bind fun f => (rows.find? fun r => r.getD 0 0 == p.2).map fun r =>
    let w (i : Nat) : Nat := r.getD i 0
    let launches (m : Nat) : List Nat := (rows.filter fun r => bit m (r.getD 0 0)).map fun r => renumber base (r.getD 3 0)
    let rooted (x y z : Nat) : Bool := f.entries.any fun e => bits e 31 0 == x && bits e 63 32 == y && bits e 95 64 == z && bit e 96
    let flying := (points.filter fun r => r.getD 0 0 == p.2).map fun r =>
      let q (i : Nat) : Nat := r.getD i 0
      (⟨q 1, q 2, q 3, renumber base (q 4), q 5 != 0, q 6 != 0, q 7 != 0, rooted (q 1) (q 2) (q 3)⟩ : InFlight)
    (p.2, { LaunchSlot.init with
      state := if w 1 == 3 then .saved else if f.predw then .waiting else .running
      record := f.record, launch := renumber base (w 3), columns := frontierColumns f, flying := flying, pred0 := launches (w 4), pred1 := launches (w 5)
      signalled := w 7, firedTotal := w 8, saving := w 2 != 0, predw := f.predw, lastFired := renumber base (w 6) })

/-- A saved strand of the source, as its image and its row give it. -/
def adoptStrand (s : State) (base : Nat) (r : List Nat) : Saved :=
  let w (i : Nat) : Nat := r.getD i 0
  let z := { emptyStrand s (w 0) with ident := identFrom base (r.drop 5), sideEffect := w 3 != 0, dead := w 4 != 0 }
  { ctx := w 1, block := w 0, strand := readImage s (w 0) false z, copies := [], phys := false, stamp := renumber base (w 2) }

/-- A skein of the source; its pipes come back with the images of its members. -/
def adoptSkein (s : State) (base : Nat) (record : Nat) (r : List Nat) : Skein :=
  let w (i : Nat) : Nat := r.getD i 0
  { id := renumber base (w 0), slot := w 1, launch := renumber base (w 2), x := w 3, y := w 4, z := w 5, members := (r.drop 9).take (w 8)
    done := bitSet 8 (w 6), trigs := bitSet 8 (w 7), pipes := skeinPipes s record }

/-- The neighbour takes over the levee of an image and its strands (R302); none where a part fails its checks. -/
def adoptAll (s : State) : Option State :=
  (slotParts s 64 Config.evacImage).bind fun (parts, tail) =>
    let notes := readNotes s noteWidths tail
    let rows (i : Nat) : List (List Nat) := notes.getD i []
    let base := s.fresh
    let slots := (parts.zip (List.range 64)).filterMap (adoptSlot base (rows 1) (rows 2))
    let recordAt (n : Nat) : Nat := (slots.find? fun p => p.1 == n).elim 0 fun p => p.2.record
    if !(rows 10).all fun r => imageOk s (r.getD 0 0) then none
    else
      let region (r : List Nat) : Region :=
        ⟨renumber base (r.getD 0 0), r.getD 1 0, renumber base (r.getD 2 0), r.getD 3 0, r.getD 4 0, r.getD 5 0, r.getD 6 0⟩
      let packet (r : List Nat) : Packet :=
        let w (i : Nat) : Nat := r.getD i 0
        { id := renumber base (w 0), addr := w 1, arg0 := w64 (w 2), arg1 := w64 (w 3), entry := w 4, weight := w 5, region := renumber base (w 6)
          core := w 7, parkedOn := if w 8 == 0 then none else some (w 8 - 1), arrived := w 9 != 0, launchWord := w64 (w 10), arg := w64 (w 11)
          ident := identFrom base (r.drop 12) }
      let used (s : State) (r : List Nat) : State :=
        s.setCtx (r.getD 0 0) { s.ctx (r.getD 0 0) with lastLaunch := renumbered base (r.getD 1 0) }
      let queued (s : State) (r : List Nat) : State :=
        let c := s.core (r.getD 0 0)
        s.setCore (r.getD 0 0) { c with inbox := c.inbox ++ [renumber base (r.getD 1 0)] }
      let polder (r : List Nat) : Polder := ⟨r.getD 0 0, r.getD 1 0, r.getD 2 0, r.getD 3 0, r.getD 4 0, r.getD 5 0⟩
      let s1 := (rows 6).foldl queued ((rows 3).foldl used (((rows 9).map polder).foldl setPolder s))
      some { s1 with
        fresh := base + ((rows 0).headD []).headD 0, slots := slots
        regions := s.regions ++ (rows 4).map region, packets := s.packets ++ (rows 5).map packet
        waiters := s.waiters ++ (rows 7).map fun r => ⟨r.getD 0 0, renumber base (r.getD 1 0), r.getD 2 0, r.getD 3 0⟩
        skeins := s.skeins ++ (rows 8).map fun r => adoptSkein s base (recordAt (r.getD 1 0)) r
        saved := s.saved ++ (rows 10).map (adoptStrand s base) }

/-- ADOPTED: with the source in QUIET, the neighbour loads the levee image and its strands and answers to the source's identifier
(R302); an image that fails its checks is a failed step (R301). -/
def evacAdopted (s : State) (ident : Nat) : State :=
  if s.host.evacState != 6 || s.host.evacSource != some ident then s
  else
    match adoptAll s with
    | none => failEvac s cLaunchInvalid
    | some s1 => setEvac { s1 with host := { s1.host with adopted := some ident, evacSource := none } } 7

/-! ### Stations, clocks and power (R42, R285, R301, R303, R304) -/

/-- STATION_DOWN: a station's link goes down or comes back. -/
def stationDown (s : State) (n : Nat) (live : Bool) : State :=
  if 96 ≤ n then s
  else
    let others := s.stationsDown.filter fun k => k != n
    { s with stationsDown := if live then others else n :: others }

/-- Whether two strands are throttled together: they share a polder or a skein (R42, R304). -/
def throttledAlike (a b : Nat × Strand) : Bool :=
  (polderEn a.2.sys.polder && polderEn b.2.sys.polder && polderKey a.1 a.2.sys.polder == polderKey b.1 b.2.sys.polder)
    || (a.2.ident.skein.isSome && a.2.ident.skein == b.2.ident.skein)

/-- The cores with a strand that is throttled with a strand of these cores, and these. -/
def throttleMates (s : State) (cores : List Nat) : List Nat :=
  let strands := s.ctxs.filterMap fun c => c.2.strand.map fun st => (c.1, st)
  let mine := strands.filter fun p => cores.contains (keyCore p.1)
  let more := (strands.filter fun p => !cores.contains (keyCore p.1) && mine.any (throttledAlike p)).map fun p => keyCore p.1
  cores ++ more.eraseDups

/-- The cores that are throttled with one: each unit that a core of them belongs to lies in them whole (R42, R304). -/
def throttledWith (s : State) (core : Nat) : List Nat := s.ctxs.foldl (fun l _ => throttleMates s l) [core]

/-- THROTTLE: the clock of a core and of those with it, in steps of 100 MHz from 0.4 to 1.4 GHz, to one frequency; lowering a clock raises
none: they go to the lowest among them (R42, R304). -/
def throttle (s : State) (core mhz : Nat) : State :=
  if mhz % 100 != 0 || mhz < 400 || 1400 < mhz || 512 ≤ core then s
  else
    let mates := throttledWith s core
    let clock := if mhz < (s.core core).mhz then mates.foldl (fun m n => min m (s.core n).mhz) mhz else mhz
    mates.foldl (fun s n => s.setCore n { s.core n with mhz := clock }) s

/-- The package without its volatile state: what Fozor has fused stays (R301, R304). -/
def powerLost (s : State) : State :=
  { State.reset with
    powered := false, fozor := { State.reset.fozor with minVersion := s.fozor.minVersion }
    agenda := s.agenda, focus := s.focus, fresh := s.fresh, ticks := s.ticks }

/-- THERMAL_SHUTDOWN: above 105 °C with every clock at 0.4 GHz, Fozor stops every clock (R304). -/
def thermalShutdown (s : State) (celsius : Nat) : State :=
  if 105 < celsius && (List.range 512).all (fun n => (s.core n).mhz == 400) then powerLost s else s

/-! ### The meanings -/

def execHostRegisterWrite (off : Nat) (value : Word) (s : State) : Host.Outcome State Fault Refusal :=
  .next (hostRegisterWrite s off value)
def execGo (s : State) : Host.Outcome State Fault Refusal := .next (evacControl s 1)
def execAbort (s : State) : Host.Outcome State Fault Refusal := .next (evacControl s 2)
def execRecv (s : State) : Host.Outcome State Fault Refusal := .next (evacControl s 4)
def execEvacStopComplete (s : State) : Host.Outcome State Fault Refusal := .next (evacStopped s)
def execEvacStreamComplete (s : State) : Host.Outcome State Fault Refusal := .next (evacStreamed s)
def execEvacDrainComplete (s : State) : Host.Outcome State Fault Refusal := .next (evacDrained s)
def execEvacTimeout (s : State) : Host.Outcome State Fault Refusal := .next (evacTimeout s)
def execAdopted (ident : Nat) (s : State) : Host.Outcome State Fault Refusal := .next (evacAdopted s ident)
def execThrottle (core mhz : Nat) (s : State) : Host.Outcome State Fault Refusal := .next (throttle s core mhz)
def execThermalShutdown (celsius : Nat) (s : State) : Host.Outcome State Fault Refusal := .next (thermalShutdown s celsius)
def execPowerOff (s : State) : Host.Outcome State Fault Refusal := .next (powerLost s)
def execStationDown (station : Nat) (live : Bool) (s : State) : Host.Outcome State Fault Refusal := .next (stationDown s station live)

end Sys2Proof.Machine
end

