-- ==== Sys2Proof/Machine/Fabric.lean ====
section
/-!
DEFINITION. Far accesses performing and landing (R60, R218, R287), the fabric and its stations (R284-R289), accesses from the host
and other packages (R125, R282, R286), and ECC events (R139, R140).
-/
namespace Sys2Proof.Machine

open Sys2Proof

/-! ### Far accesses of a strand (R60, R140, R141, R287) -/

/-- A far access of a strand. -/
def farAt (st : Strand) (id : Nat) : Option FarOp := st.far.find? fun f => f.id == id

/-- The far access is over. -/
def dropFar (st : Strand) (id : Nat) : Strand := { st with far := st.far.filter fun f => f.id != id }

/-- Whether a far access reads: a load or an atomic. -/
def FarOp.reads (f : FarOp) : Bool :=
  match f.kind with
  | .load _ | .amo _ _ _ _ | .acas _ _ _ => true
  | .store _ | .sluice _ _ => false

/-- Far data land in their destination. -/
def landFar (s : State) (key : Nat) (d : Dest) (v : Nat) : State :=
  match d with
  | .none => s
  | .x bank n f => writeXAt s key bank n (w64 (intExtend f v))
  | .pair bank n => writeXAt (writeXAt s key bank n (w64 v)) key bank (n + 1) (w64 (v / 2 ^ 64))
  | .vec _ a => s.writePhys a (leBytes 128 v)

/-- A far access that fails: a read leaves its destination faulting at its first use, a write is dropped and reported on its path
(R140, R141, R287). -/
def failFar (s : State) (key : Nat) (f : FarOp) (r : Raise) : State :=
  match s.strandAt key with
  | none => s
  | some st =>
    let st1 := dropFar st f.id
    if f.reads then s.setStrandAt key { st1 with bad := if f.dest == .none then st1.bad else st1.bad ++ [⟨f.dest, r⟩] }
    else s.setStrandAt key { st1 with reports := st1.reports ++ [⟨f.path, r, false⟩] }

/-- A far read that succeeds. -/
def endFar (s : State) (key : Nat) (f : FarOp) (v : Nat) : State :=
  match s.strandAt key with
  | none => s
  | some st => landFar (s.setStrandAt key (dropFar st f.id)) key f.dest v

/-- The package that a far access reaches through the fabric, when it is another one. -/
def foreignTo (s : State) (st : Strand) (f : FarOp) : Option Nat :=
  match f.kind with
  | .sluice q _ =>
    let e := s.readNat (sluiceEntryAddr s st.ident.asid (q - 4)) 32
    if s.isOwn (bits e 25 16) then none else some (bits e 25 16)
  | _ =>
    match s.space (f.pieces.headD (0, 0)).1 with
    | .fabric j => if s.isOwn j then none else some j
    | _ => none

/-- Why a far access that this package serves is refused: out of the fabric, a hole or a crossing, or a block reached otherwise
than by aligned words (R127, R284, R287). -/
def refusedHere (s : State) (f : FarOp) : Bool :=
  f.path == 5 && (!s.inFabric ||
    match spaceCheck s (f.pieces.map (homePiece s)) with
    | .error _ => true
    | .ok (.counter _) | .ok (.ras _) => f.va % 8 != 0 || (f.pieces.map Prod.snd).sum != 8 || (match f.kind with
      | .load _ | .store _ => false
      | _ => true)
    | .ok _ => false)

/-- The fault of a fabric access. -/
def fabricError (f : FarOp) : Raise := ⟨cFabricError, w64 f.va, false⟩

/-- The new bytes that an access of old value `old` writes. -/
def farWrite (f : FarOp) (old : Nat) : Option (List Byte) :=
  match f.kind with
  | .load _ | .sluice _ _ => none
  | .store d => some d
  | .amo _ op k b => some (leBytes k (amoValue op k old b))
  | .acas _ e n => if old == e then some (leBytes 16 n) else none

/-- A far access performs at its home in this package (R218). -/
def performFar (s : State) (key : Nat) (f : FarOp) : State :=
  let ps := f.pieces.map (homePiece s)
  let a : Access := ⟨f.va, ps, .hbm⟩
  if refusedHere s f then failFar s key f (fabricError f)
  else if f.reads then
    match a.poison s with
    | some w => failFar s key f ⟨cPoison, w64 (a.vaOf (s.eccUnit w) w), false⟩
    | none =>
      let old := leNat (s.readPieces ps)
      let s1 := match farWrite f old with
        | some d => s.writePieces ps d
        | none => s
      endFar s1 key f old
  else
    match ps.findSome? fun p => s.partialPoison p.1 p.2 with
    | some _ => failFar s key f ⟨cSubwordPoison, w64 f.va, false⟩
    | none =>
      let s1 := match farWrite f 0 with
        | some d => s.writePieces ps d
        | none => s
      endFar s1 key f 0

/-- A sluice send within the package performs: it arrives when the partner's ring has room, or is dropped (R289). -/
def performSend (s : State) (key : Nat) (st : Strand) (f : FarOp) (q : Nat) (v : Word) : State :=
  let e := s.readNat (sluiceEntryAddr s st.ident.asid (q - 4)) 32
  let pasid := bits e 37 26
  let pk := bits e 39 38
  if !s.inFabric || !sluiceBound (s.readNat (sluiceEntryAddr s pasid pk) 32) then failFar s key f (bare s cFabricError)
  else if !sluiceRoom s pasid pk then s
  else sluiceArrive (s.setStrandAt key (dropFar st f.id)) pasid pk v

/-! ### Stations (R285) -/

/-- The offset that a far access asks of its target. -/
def FarOp.offset (f : FarOp) : Nat := (f.pieces.headD (0, 0)).1 % 2 ^ 44

/-- A request of the strand can reach another package: both ends' switches are reached by a live station. -/
def canSend (s : State) (st : Strand) (f : FarOp) : Bool :=
  s.inFabric && (stationOf s (bits st.sys.fent.toNat 15 0) f.offset).isSome

/-- A far access whose turn has come: served here it leaves this state; to another package it fails where the fabric cannot take it, and
else waits for the response (R284, R285, R287). -/
def performOrFail (s : State) (key : Nat) (st : Strand) (f : FarOp) (served : State) : State :=
  if (foreignTo s st f).isNone then served else if canSend s st f then s else failFar s key f (fabricError f)

/-- FAR_LOAD_LANDING: a far load, AMO or ACAS that this package serves performs and lands (R60). -/
def farLoadLanding (s : State) (key id : Nat) : State :=
  match s.strandAt key with
  | none => s
  | some st =>
    match farAt st id with
    | none => s
    | some f => if !f.reads || !mayPerform st f then s else performOrFail s key st f (performFar s key f)

/-- FAR_STORE_PERFORM: a far store or a sluice send that this package serves performs, or is dropped with a report (R141, R218). -/
def farStorePerform (s : State) (key id : Nat) : State :=
  match s.strandAt key with
  | none => s
  | some st =>
    match farAt st id with
    | none => s
    | some f =>
      if f.reads || !mayPerform st f then s
      else performOrFail s key st f (match f.kind with
        | .sluice q v => performSend s key st f q v
        | _ => performFar s key f)

/-- FABRIC_RESPONSE (R286, R287): another package answers with the data, with poison (status 1) or with a refusal (status 2); a
congestion mark rotates FENT at the next boundary. -/
def fabricResponse (s : State) (key id : Nat) (mark : Bool) (data : List Byte) (status : Nat) : State :=
  match s.strandAt key with
  | none => s
  | some st =>
    match farAt st id with
    | none => s
    | some f =>
      if (foreignTo s st f).isNone || !mayPerform st f || !canSend s st f then s
      else
        let s1 := s.setStrandAt key { st with rotate := st.rotate || mark }
        if status == 0 then endFar s1 key f (leNat data % 2 ^ (8 * (f.pieces.map Prod.snd).sum))
        else failFar s1 key f ⟨if status == 1 then (if f.reads then cPoison else cSubwordPoison) else cFabricError, w64 f.va, false⟩

/-- FABRIC_TIMEOUT: no response in 2 ms fails the access (R287). -/
def fabricTimeout (s : State) (key id : Nat) : State :=
  match s.strandAt key with
  | none => s
  | some st =>
    match farAt st id with
    | none => s
    | some f => if (foreignTo s st f).isNone then s else failFar s key f (fabricError f)

/-! ### Accesses from outside (R125, R282, R286, R300, R301) -/

/-- Every byte of an access lies in one inbound window that permits it (R286). -/
def inWindow (s : State) (addr n : Nat) (write : Bool) : Bool :=
  (List.range 16).any fun w =>
    let (lo, hi) := s.host.inwin.getD w (0, 0)
    let base := bits lo.toNat 43 16 * 65536
    let size := bits hi.toNat 43 16 * 65536
    (if write then bit hi.toNat 1 else bit hi.toNat 0) && base ≤ addr && addr + n ≤ base + size

/-- The admission of an access from package `source` (R284, R286, R300, R301). -/
def admitted (s : State) (source addr n : Nat) (write : Bool) : Bool :=
  match s.host.evacState with
  | 6 => s.inFabric && s.host.evacSource == some source
  | 0 | 5 | 7 => s.inFabric && inGroup s source && inWindow s addr n write
  | _ => false

/-- The one space that an outside access lies in; counter and RAS blocks take aligned words. -/
def outerSpace (s : State) (addr n : Nat) : Option Space :=
  if n == 0 || 2 ^ 44 < addr + n then none
  else match spaceCheck s [(addr, n)] with
    | .error _ => none
    | .ok (.counter k) => if n == 8 && addr % 8 == 0 then some (.counter k) else none
    | .ok (.ras k) => if n == 8 && addr % 8 == 0 then some (.ras k) else none
    | .ok sp => some sp

/-- The bytes of an outside access; none for one that names no memory. -/
def outerSize : OuterAccess → Nat
  | .read n => n
  | .write d => d.length
  | .poison n => n
  | .amo _ n _ => n
  | .acas _ _ => 16
  | .register | .tail | .config | .failureCode => 0

/-- An atomic from outside is aligned and touches no counter or RAS block (R127, R218). -/
def atomicOk (s : State) (addr : Nat) (access : OuterAccess) : Bool :=
  let plain : Bool := match s.space addr with
    | .counter _ | .ras _ => false
    | _ => true
  match access with
  | .amo op n _ => op ≤ 8 && (n == 4 || n == 8) && addr % n == 0 && plain
  | .acas _ _ => addr % 16 == 0 && plain
  | _ => true

/-- Poisons the ECC words that bytes cover. -/
def poisonBytes (s : State) (addr n : Nat) : State :=
  let unit := s.eccUnit addr
  if unit == 0 then s
  else
    let first := addr / unit
    let last := (addr + n - 1) / unit
    { s with poison := (List.range (last + 1 - first)).foldl (fun l i =>
        let w := (first + i) * unit
        if l.contains w then l else w :: l) s.poison }

/-- An atomic from outside performs at its home: it answers the old bytes, or poison (R140, R218, R287). -/
def serveAtomic (s : State) (addr n : Nat) (new : Nat → Option (List Byte)) : State :=
  if (s.poisoned addr n).isSome then { s with reply := (leBytes n (leNat (Config.poisonBytes s.ticks)), true) }
  else
    let old := s.readNat addr n
    let s1 := match new old with
      | some d => s.writePhys addr d
      | none => s
    { s1 with reply := (leBytes n old, false) }

/-- An outside access to bytes that lie in one space: what it answers, and what it leaves. -/
def serveOuter (s : State) (addr : Nat) (access : OuterAccess) : State :=
  match access with
  | .read n =>
    if (s.poisoned addr n).isSome then { s with reply := (leBytes n (leNat (Config.poisonBytes s.ticks)), true) }
    else { s with reply := (s.readPhys addr n, false) }
  | .write d => if (s.partialPoison addr d.length).isSome then { s with reply := ([], true) } else { s.writePhys addr d with reply := ([], false) }
  | .poison n => { poisonBytes s addr n with reply := ([], false) }
  | .amo op n b => serveAtomic s addr n fun old => some (leBytes n (amoValue op n old (b % 2 ^ (8 * n))))
  | .acas e v => serveAtomic s addr 16 fun old => if old == e then some (leBytes 16 v) else none
  | .register | .tail | .config | .failureCode => { s with reply := ([], true) }

/-- FABRIC_ACCESS: an access arriving from another package is admitted or refused (R286, R287); an atomic performs here (R218). -/
def fabricAccess (s : State) (source addr : Nat) (access : OuterAccess) : State :=
  let write := match access with
    | .read _ => false
    | _ => true
  if !admitted s source addr (outerSize access) write || (outerSpace s addr (outerSize access)).isNone || !atomicOk s addr access then
    { s with reply := ([], true) }
  else serveOuter s addr access

/-- Whether an access lies in host memory: the host makes it there by itself (R235). -/
def inHostMemory (s : State) (addr n : Nat) : Bool := s.space addr == .host && s.space (addr + n - 1) == .host

/-- A CXL.mem read or write of the package space (R282); none is taken up once an evacuation stops the package (R301). The host's own
memory is the host's to read and change (R235). -/
def hostMemory (s : State) (addr : Nat) (access : OuterAccess) : State :=
  if inHostMemory s addr (outerSize access) then serveOuter s addr access
  else if 1 ≤ s.host.evacState && s.host.evacState ≤ 4 then { s with reply := ([], true) }
  else
    match outerSpace s addr (outerSize access) with
    | some _ => serveOuter s addr access
    | none =>
      match access with
      | .read n => { s with reply := (List.replicate n 0, true) }
      | _ => { s with reply := ([], false) }

/-- HOST_ACCESS: the host reads or writes memory (R235, R282), or reads a host-side register (R283), a tail (R237), the configuration
header (R282) or, over the management bus, the boot's failure code (R296). -/
def hostAccess (s : State) (addr : Nat) (access : OuterAccess) : State :=
  match access with
  | .read _ | .write _ | .poison _ => hostMemory s addr access
  | .amo _ _ _ | .acas _ _ => { s with reply := ([], true) }
  | .register => { s with reply := (leBytes 8 (readHostReg s addr).toNat, false) }
  | .tail => { s with reply := (leBytes 8 (if addr % 8 == 0 && addr / 8 < 16384 then (s.queue (addr / 8)).tail else 0), false) }
  | .config => { s with reply := (leBytes 4 (configWord addr), false) }
  | .failureCode => { s with reply := (leBytes 8 s.fozor.failure, false) }

/-- An access within one 64-byte line of a core's scratchpad or register space. -/
def windowOk (core off n : Nat) : Bool :=
  core < 512 && 0 < n && off / 64 == (off + n - 1) / 64 && (off + n ≤ 0x480000)

/-- The results due in the strand of a context that issues land. -/
def landDue (s : State) (key : Nat) : State := if (s.ctx key).state == .issuing then (land s key).1 else s

/-- WINDOW_WRITE: a write through the window lands between bundles, one line at a time, behind every result due there (R63, R125). -/
def windowWrite (s : State) (core off : Nat) (data : List Byte) : State :=
  let a := windowBase core + off
  if !windowOk core off data.length then s
  else
    let s1 := landDue (landDue s (2 * core)) (2 * core + 1)
    if (s1.partialPoison a data.length).isSome then s1 else s1.writePhys a data

/-- WINDOW_READ: a read through the window samples between bundles (R125). -/
def windowRead (s : State) (core off n : Nat) : State :=
  if windowOk core off n then serveOuter s (windowBase core + off) (.read n) else s

/-- The admission of a sluice element from package `source`: none while an evacuation stops the package, in RECEIVE the evacuating
package's alone (R286, R300, R301). -/
def sluiceAdmitted (s : State) (source : Nat) : Bool :=
  s.inFabric && match s.host.evacState with
    | 6 => s.host.evacSource == some source
    | 0 | 5 | 7 => inGroup s source
    | _ => false

/-- SLUICE_ARRIVAL: an element from another package arrives while the sluice's ring has room (R289). -/
def sluiceArrival (s : State) (source asid k : Nat) (v : Word) : State :=
  let e := s.readNat (sluiceEntryAddr s asid k) 32
  if !sluiceAdmitted s source || 4096 ≤ asid || 4 ≤ k || !sluiceBound e || !sluiceRoom s asid k then s
  else sluiceArrive s asid k v

/-! ### ECC (R139, R140) -/

/-- ECC_CORRECTION: a correctable error in a core's SRAM is counted and freezes the core for 24 cycles. DESIGN CHOICE (log 65): on a supervisor
core, which has no RAS block and no place among the 512 (R17), it shows nowhere. -/
def eccCorrection (s : State) (core : Nat) : State :=
  if 512 ≤ core then s
  else
    let c := s.core core
    s.setCore core { c with cecnt := countUp c.cecnt 1, eccFreeze := c.eccFreeze + 24 }

/-- UNCORRECTABLE_ERROR: the ECC word at an address is poisoned; on a core's SRAM the RAS block takes note. -/
def uncorrectableError (s : State) (addr : Nat) : State :=
  let unit := s.eccUnit addr
  if unit == 0 then s
  else
    let w := addr / unit * unit
    let s1 := poisonBytes s w unit
    match s.space addr with
    | .scratch n | .regs n =>
      if 512 ≤ n then s1
      else
        let c := s1.core n
        s1.setCore n { c with uecnt := countUp c.uecnt 1, ueaddr := w64 (w - windowBase n) }
    | _ => s1

/-! ### The meanings -/

def execFarLoadLanding (core ctx id : Nat) (s : State) : Host.Outcome State Fault Refusal := .next (farLoadLanding s (keyOf core ctx) id)
def execFarStorePerform (core ctx id : Nat) (s : State) : Host.Outcome State Fault Refusal := .next (farStorePerform s (keyOf core ctx) id)
def execFabricResponse (core ctx id : Nat) (mark : Bool) (data : List Byte) (status : Nat) (s : State) :
    Host.Outcome State Fault Refusal := .next (fabricResponse s (keyOf core ctx) id mark data status)
def execFabricTimeout (core ctx id : Nat) (s : State) : Host.Outcome State Fault Refusal := .next (fabricTimeout s (keyOf core ctx) id)
def execFabricAccess (source addr : Nat) (access : OuterAccess) (s : State) : Host.Outcome State Fault Refusal :=
  .next (fabricAccess s source addr access)
def execHostAccess (addr : Nat) (access : OuterAccess) (s : State) : Host.Outcome State Fault Refusal := .next (hostAccess s addr access)
def execWindowWrite (core off : Nat) (data : List Byte) (s : State) : Host.Outcome State Fault Refusal := .next (windowWrite s core off data)
def execWindowRead (core off bytes : Nat) (s : State) : Host.Outcome State Fault Refusal := .next (windowRead s core off bytes)
def execSluiceArrival (source asid k : Nat) (element : Word) (s : State) : Host.Outcome State Fault Refusal :=
  .next (sluiceArrival s source asid k element)
def execEccCorrection (core : Nat) (s : State) : Host.Outcome State Fault Refusal := .next (eccCorrection s core)
def execUncorrectableError (addr : Nat) (s : State) : Host.Outcome State Fault Refusal := .next (uncorrectableError s addr)

end Sys2Proof.Machine
end

