-- ==== Sys2Proof/Machine/Traps.lean ====
section
/-!
DEFINITION. The events that take a strand out of its program at a boundary, traps (R264-R271) and user-level interrupts (R273,
R274), the idle bundle (R52) and the events of the array (R189, R178).
-/
namespace Sys2Proof.Machine

open Sys2Proof

/-! ### Traps -/

/-- What fetch finds for the strand of a context: a standing bundle, a fault, or none while a walk is awaited. -/
def fetchAt (s : State) (key : Nat) : Option (Except Raise Standing) :=
  match fetchOp { s with focus := key } with
  | .ok ((a, r), _) => some (.ok ⟨a, r⟩)
  | .error (.raise r) => some (.error r)
  | .error _ => none

/-- The trap due at the boundary where the strand of a context stands (R266, R267). -/
def trapDue (s : State) (key : Nat) : Option TrapCall :=
  match s.strandAt key with
  | none => none
  | some st =>
    if (s.ctx key).state != .issuing || st.dead || st.halted || st.draining || st.pos.line.busy != 0 then none
    else (fetchAt s key).bind fun f => trapAt s key st f

/-- TRAP_ENTRY: the trap of this cause and address is taken at its trap point (R266-R271). -/
def trapEntry (s : State) (key cause : Nat) (info : Word) : State :=
  match trapDue s key with
  | none => s
  | some t => if t.err.cause == cause && t.err.info == info then boundaryTake s key t else s

/-! ### User-level interrupts (R273, R274) -/

/-- Enabled pending bits as the event word gives them: copy tags in [15:0], sluices in [19:16]. -/
def pendingEvents (umask : Word) : Nat := bits umask.toNat 51 32 &&& bits umask.toNat 19 0

/-- The user handler is to be entered (R274). -/
def interruptDue (s : State) (key : Nat) : Bool :=
  match s.strandAt key with
  | none => false
  | some st => st.sys.uie && !st.sys.uih && pendingEvents st.sys.umask != 0 && atQuiescent s key st

/-- USER_INTERRUPT: the strand is suspended, the enabled pending bits are cleared and delivered in shadow x48, shadow x49 takes the
bundle's address, and fetch goes to UVEC at user privilege (R274). -/
def userInterrupt (s : State) (key : Nat) : State :=
  if !interruptDue s key then s
  else
    match s.strandAt key, standingAt s key with
    | some st, some f =>
      let e := pendingEvents st.sys.umask
      s.setStrandAt key { st with
        shadowX := (st.shadowX.setIfInBounds 0 (w64 e)).setIfInBounds 1 (w64 f.addr)
        sys := { st.sys with uih := true, priv := false, umask := st.sys.umask &&& ~~~(w64 (e * 2 ^ 32)) }
        frozen := none, waits := WaitState.none
        pos := { st.pos with
          pc := st.ident.image + 64 + bits st.sys.uvec.toNat 31 0
          susp := ⟨.user, st.pos.line, st.pos.loopQuiet, st.pos.backEdge, st.call, st.waits, st.pos.seq⟩ :: st.pos.susp
          line := ⟨0, 0, []⟩, loopQuiet := false, backEdge := false } }
    | _, _ => s

/-! ### The array and the multicast (R178, R189) -/

/-- The state that an event of the array leaves. -/
def afterArr (s : State) (r : ArrStep) : State :=
  match r with
  | .moved s' => s'
  | .idle | .starved => s

/-- The array of a context moves with its core. -/
def arrayRuns (s : State) (key : Nat) : Bool :=
  (s.strandAt key).any fun st => !st.dead && !st.halted && ((s.ctx key).state == .issuing || (s.ctx key).state == .saving)

/-- An event of the array of a context. -/
def arrayEvent (f : State → Nat → ArrStep) (s : State) (key : Nat) : State := if arrayRuns s key then afterArr s (f s key) else s

/-! ### The meanings -/

/-- IDLE_BUNDLE (R52): a bundle of no operation that occupies k bundle-times. -/
def execIdleBundle (k : BitVec 3) (q : BitVec 1) (s : State) : Host.Outcome State Fault Refusal :=
  issueOps [] { s with issue := { s.issue with idle := k.toNat - 1, q := q == 1 } }

def execTrapEntry (core ctx cause : Nat) (info : Word) (s : State) : Host.Outcome State Fault Refusal :=
  .next (trapEntry s (keyOf core ctx) cause info)
def execUserInterrupt (core ctx : Nat) (s : State) : Host.Outcome State Fault Refusal := .next (userInterrupt s (keyOf core ctx))
def execArrayStart (core ctx : Nat) (s : State) : Host.Outcome State Fault Refusal := .next (arrayEvent arrStart s (keyOf core ctx))
def execArrayElement (core ctx : Nat) (s : State) : Host.Outcome State Fault Refusal := .next (arrayEvent arrElement s (keyOf core ctx))
def execArrayCompletion (core ctx : Nat) (s : State) : Host.Outcome State Fault Refusal :=
  .next (arrayEvent arrCompletion s (keyOf core ctx))
def execMulticastRowRead (id : Nat) (s : State) : Host.Outcome State Fault Refusal := .next (castRead s id)

end Sys2Proof.Machine
end

