-- ==== Sys2Proof/Machine/Dispatch.lean ====
section
/-! DEFINITION. The dispatch of an instruction to its meaning: one arm per constructor of Instr. -/
namespace Sys2Proof.Machine

open Sys2Proof

def exec (i : Instr) (s : State) : Host.Outcome State Fault Refusal :=
  match i with
  -- C slot (R308, R309)
  | .brLabel off => Sys2Proof.Machine.execBrLabel off s
  | .brReg b => Sys2Proof.Machine.execBrReg b s
  | .btree t0 t1 t2 t3 => Sys2Proof.Machine.execBtree t0 t1 t2 t3 s
  | .callLabel off => Sys2Proof.Machine.execCallLabel off s
  | .callReg b => Sys2Proof.Machine.execCallReg b s
  | .ret => Sys2Proof.Machine.execRet s
  | .movb xf bd xa off => Sys2Proof.Machine.execMovb xf bd xa off s
  | .loopImm endOff count => Sys2Proof.Machine.execLoopImm endOff count s
  | .loopX endOff xa => Sys2Proof.Machine.execLoopX endOff xa s
  | .loopSpool endOff n => Sys2Proof.Machine.execLoopSpool endOff n s
  | .loops endOff sm1 pk xf count => Sys2Proof.Machine.execLoops endOff sm1 pk xf count s
  | .leave n => Sys2Proof.Machine.execLeave n s
  | .pand na nb pd pa pb => Sys2Proof.Machine.execPand na nb pd pa pb s
  | .por na nb pd pa pb => Sys2Proof.Machine.execPor na nb pd pa pb s
  | .pxor na nb pd pa pb => Sys2Proof.Machine.execPxor na nb pd pa pb s
  | .pnot pd pa => Sys2Proof.Machine.execPnot pd pa s
  | .pmov na pd pa => Sys2Proof.Machine.execPmov na pd pa s
  | .done => Sys2Proof.Machine.execDone s
  | .yield => Sys2Proof.Machine.execYield s
  | .waitt xa => Sys2Proof.Machine.execWaitt xa s
  | .bar o paths => Sys2Proof.Machine.execBar o paths s
  | .trig => Sys2Proof.Machine.execTrig s
  | .sysc code => Sys2Proof.Machine.execSysc code s
  | .brk code => Sys2Proof.Machine.execBrk code s
  | .rft => Sys2Proof.Machine.execRft s
  | .uret => Sys2Proof.Machine.execUret s
  | .mfs xd srn => Sys2Proof.Machine.execMfs xd srn s
  | .mts xa srn => Sys2Proof.Machine.execMts xa srn s
  -- A and B slots (R310-R312)
  | .add t xd xa xb mode => Sys2Proof.Machine.execAdd t xd xa xb mode s
  | .addi t xd xa imm => Sys2Proof.Machine.execAddi t xd xa imm s
  | .sub t xd xa xb mode => Sys2Proof.Machine.execSub t xd xa xb mode s
  | .mul t xd xa xb => Sys2Proof.Machine.execMul t xd xa xb s
  | .mulh t xd xa xb => Sys2Proof.Machine.execMulh t xd xa xb s
  | .mulhn t xd xa xb => Sys2Proof.Machine.execMulhn t xd xa xb s
  | .div t xd xa xb => Sys2Proof.Machine.execDiv t xd xa xb s
  | .divn t xd xa xb => Sys2Proof.Machine.execDivn t xd xa xb s
  | .rem t xd xa xb => Sys2Proof.Machine.execRem t xd xa xb s
  | .remn t xd xa xb => Sys2Proof.Machine.execRemn t xd xa xb s
  | .and t xd xa xb => Sys2Proof.Machine.execAnd t xd xa xb s
  | .andi t xd xa imm => Sys2Proof.Machine.execAndi t xd xa imm s
  | .or t xd xa xb => Sys2Proof.Machine.execOr t xd xa xb s
  | .ori t xd xa imm => Sys2Proof.Machine.execOri t xd xa imm s
  | .xor t xd xa xb => Sys2Proof.Machine.execXor t xd xa xb s
  | .xori t xd xa imm => Sys2Proof.Machine.execXori t xd xa imm s
  | .shl t xd xa xb => Sys2Proof.Machine.execShl t xd xa xb s
  | .shli t xd xa amount => Sys2Proof.Machine.execShli t xd xa amount s
  | .shr t xd xa xb => Sys2Proof.Machine.execShr t xd xa xb s
  | .shri t xd xa amount => Sys2Proof.Machine.execShri t xd xa amount s
  | .sar t xd xa xb => Sys2Proof.Machine.execSar t xd xa xb s
  | .sari t xd xa amount => Sys2Proof.Machine.execSari t xd xa amount s
  | .min t xd xa xb => Sys2Proof.Machine.execMin t xd xa xb s
  | .max t xd xa xb => Sys2Proof.Machine.execMax t xd xa xb s
  | .minn t xd xa xb => Sys2Proof.Machine.execMinn t xd xa xb s
  | .maxn t xd xa xb => Sys2Proof.Machine.execMaxn t xd xa xb s
  | .cmp t pd xa xb cc fmt => Sys2Proof.Machine.execCmp t pd xa xb cc fmt s
  | .cmpi t pd xa cc imm => Sys2Proof.Machine.execCmpi t pd xa cc imm s
  | .sel t xd xa xb ps => Sys2Proof.Machine.execSel t xd xa xb ps s
  | .lea t xd xa xb sh imm => Sys2Proof.Machine.execLea t xd xa xb sh imm s
  | .li t xd imm => Sys2Proof.Machine.execLi t xd imm s
  | .lih t xd imm => Sys2Proof.Machine.execLih t xd imm s
  | .clz t xd xa => Sys2Proof.Machine.execClz t xd xa s
  | .ctz t xd xa => Sys2Proof.Machine.execCtz t xd xa s
  | .popc t xd xa => Sys2Proof.Machine.execPopc t xd xa s
  | .bfx t xd xa pos lm1 sx => Sys2Proof.Machine.execBfx t xd xa pos lm1 sx s
  | .bfi t xd xa pos lm1 => Sys2Proof.Machine.execBfi t xd xa pos lm1 s
  | .fadd t xd xa xb fmt rm => Sys2Proof.Machine.execFadd t xd xa xb fmt rm s
  | .fsub t xd xa xb fmt rm => Sys2Proof.Machine.execFsub t xd xa xb fmt rm s
  | .fmul t xd xa xb fmt rm => Sys2Proof.Machine.execFmul t xd xa xb fmt rm s
  | .ffma t xd xa xb xc fmt rm => Sys2Proof.Machine.execFfma t xd xa xb xc fmt rm s
  | .fmin t xd xa xb fmt => Sys2Proof.Machine.execFmin t xd xa xb fmt s
  | .fmax t xd xa xb fmt => Sys2Proof.Machine.execFmax t xd xa xb fmt s
  | .fcmp t pd xa xb cc fmt => Sys2Proof.Machine.execFcmp t pd xa xb cc fmt s
  | .fcvt t xd xa fd fs rm sat => Sys2Proof.Machine.execFcvt t xd xa fd fs rm sat s
  -- V and W slots (R313-R315)
  | .vadd t vd va pa vb pb et sx => Sys2Proof.Machine.execVadd t vd va pa vb pb et sx s
  | .vsub t vd va pa vb pb et sx => Sys2Proof.Machine.execVsub t vd va pa vb pb et sx s
  | .vmul t vd va pa vb pb et => Sys2Proof.Machine.execVmul t vd va pa vb pb et s
  | .vfma t vd pd va pa vb pb et => Sys2Proof.Machine.execVfma t vd pd va pa vb pb et s
  | .vmin t vd va pa vb pb et => Sys2Proof.Machine.execVmin t vd va pa vb pb et s
  | .vmax t vd va pa vb pb et => Sys2Proof.Machine.execVmax t vd va pa vb pb et s
  | .vabs t vd va pa et => Sys2Proof.Machine.execVabs t vd va pa et s
  | .vneg t vd va pa et => Sys2Proof.Machine.execVneg t vd va pa et s
  | .vand t vd va pa vb pb et => Sys2Proof.Machine.execVand t vd va pa vb pb et s
  | .vor t vd va pa vb pb et => Sys2Proof.Machine.execVor t vd va pa vb pb et s
  | .vxor t vd va pa vb pb et => Sys2Proof.Machine.execVxor t vd va pa vb pb et s
  | .vnot t vd va pa et => Sys2Proof.Machine.execVnot t vd va pa et s
  | .vshl t vd va pa vb pb et => Sys2Proof.Machine.execVshl t vd va pa vb pb et s
  | .vshr t vd va pa vb pb et => Sys2Proof.Machine.execVshr t vd va pa vb pb et s
  | .vsar t vd va pa vb pb et => Sys2Proof.Machine.execVsar t vd va pa vb pb et s
  | .vcmp t vd va pa vb pb fmt cc => Sys2Proof.Machine.execVcmp t vd va pa vb pb fmt cc s
  | .vsel t vd pd va pa vb pb et => Sys2Proof.Machine.execVsel t vd pd va pa vb pb et s
  | .vcvt t vd va pa fd fs rm sat part => Sys2Proof.Machine.execVcvt t vd va pa fd fs rm sat part s
  | .vbcst t vd xa et => Sys2Proof.Machine.execVbcst t vd xa et s
  | .vperm t vd va pa vb pb et => Sys2Proof.Machine.execVperm t vd va pa vb pb et s
  | .vins t vd pd xa ew idx => Sys2Proof.Machine.execVins t vd pd xa ew idx s
  | .vext t xd va pa et idx => Sys2Proof.Machine.execVext t xd va pa et idx s
  | .vred t xd va pa et op => Sys2Proof.Machine.execVred t xd va pa et op s
  | .vamax t xd va pa et => Sys2Proof.Machine.execVamax t xd va pa et s
  | .vargmx t xd va pa et => Sys2Proof.Machine.execVargmx t xd va pa et s
  | .vexp2 t vd va pa et => Sys2Proof.Machine.execVexp2 t vd va pa et s
  | .vlog2 t vd va pa et => Sys2Proof.Machine.execVlog2 t vd va pa et s
  | .vrcp t vd va pa et => Sys2Proof.Machine.execVrcp t vd va pa et s
  | .vrsq t vd va pa et => Sys2Proof.Machine.execVrsq t vd va pa et s
  | .vmask t vd va pa vb pb et => Sys2Proof.Machine.execVmask t vd va pa vb pb et s
  | .vsprs t vd va pa fmt => Sys2Proof.Machine.execVsprs t vd va pa fmt s
  -- M slot (R316-R318)
  | .ld t xv xa sz imm => Sys2Proof.Machine.execLd t xv xa sz imm s
  | .st t xv xa sz imm => Sys2Proof.Machine.execSt t xv xa sz imm s
  | .lda t xv xa sz scope imm => Sys2Proof.Machine.execLda t xv xa sz scope imm s
  | .stl t xv xa sz scope imm => Sys2Proof.Machine.execStl t xv xa sz scope imm s
  | .vld t vv xa imm => Sys2Proof.Machine.execVld t vv xa imm s
  | .vst t vv pv xa imm => Sys2Proof.Machine.execVst t vv pv xa imm s
  | .amo t xd xa xb op w ord scope => Sys2Proof.Machine.execAmo t xd xa xb op w ord scope s
  | .acas t xd xa xb xc ord scope => Sys2Proof.Machine.execAcas t xd xa xb xc ord scope s
  | .fence t scope src dst => Sys2Proof.Machine.execFence t scope src dst s
  | .drain t paths => Sys2Proof.Machine.execDrain t paths s
  | .scfg t va pa sd => Sys2Proof.Machine.execScfg t va pa sd s
  | .srel t sd => Sys2Proof.Machine.execSrel t sd s
  | .dcp t tag vs ps vd pd => Sys2Proof.Machine.execDcp t tag vs ps vd pd s
  | .dstat t xd tag => Sys2Proof.Machine.execDstat t xd tag s
  | .frd t xd xa => Sys2Proof.Machine.execFrd t xd xa s
  | .fwr t xa xb => Sys2Proof.Machine.execFwr t xa xb s
  | .fclr t xa => Sys2Proof.Machine.execFclr t xa s
  | .spawn t xe xa xb xc => Sys2Proof.Machine.execSpawn t xe xa xb xc s
  | .lnch t xa va pa => Sys2Proof.Machine.execLnch t xa va pa s
  | .hfam t va pa f => Sys2Proof.Machine.execHfam t va pa f s
  | .hprb t sd xt xo xc qs qn pq => Sys2Proof.Machine.execHprb t sd xt xo xc qs qn pq s
  | .hins t xt xi => Sys2Proof.Machine.execHins t xt xi s
  | .hdel t xt xi => Sys2Proof.Machine.execHdel t xt xi s
  | .hreh t xt xn => Sys2Proof.Machine.execHreh t xt xn s
  | .hacc t xa va pa => Sys2Proof.Machine.execHacc t xa va pa s
  | .merge t xa sd => Sys2Proof.Machine.execMerge t xa sd s
  | .cred t xa => Sys2Proof.Machine.execCred t xa s
  | .tlbiAll t => Sys2Proof.Machine.execTlbiAll t s
  | .tlbiAs t xb => Sys2Proof.Machine.execTlbiAs t xb s
  | .tlbiPage t xa xb => Sys2Proof.Machine.execTlbiPage t xa xb s
  | .lvs t xa xb => Sys2Proof.Machine.execLvs t xa xb s
  | .lvr t xa xb => Sys2Proof.Machine.execLvr t xa xb s
  -- X slot (R319, R320)
  | .cprog t pg va pa => Sys2Proof.Machine.execCprog t pg va pa s
  | .csel t pg => Sys2Proof.Machine.execCsel t pg s
  | .aflow t xa => Sys2Proof.Machine.execAflow t xa s
  | .aldbLocal t tv pt => Sys2Proof.Machine.execAldbLocal t tv pt s
  | .aldbCluster t xa xb => Sys2Proof.Machine.execAldbCluster t xa xb s
  | .arun t av asp an pan bsp bn pbn mm1 => Sys2Proof.Machine.execArun t av asp an pan bsp bn pbn mm1 s
  | .aruns t av asp an pan mv pmv mm1 => Sys2Proof.Machine.execAruns t av asp an pan mv pmv mm1 s
  | .ascl t am ta bm tb => Sys2Proof.Machine.execAscl t am ta bm tb s
  | .aclrView t av => Sys2Proof.Machine.execAclrView t av s
  | .aclrArray t => Sys2Proof.Machine.execAclrArray t s
  | .adrn t td sk av pav sat => Sys2Proof.Machine.execAdrn t td sk av pav sat s
  -- T slot (R319, R320)
  | .txin t va pa row => Sys2Proof.Machine.execTxin t va pa row s
  | .txout t vd ci h wl => Sys2Proof.Machine.execTxout t vd ci h wl s
  | .txclr t => Sys2Proof.Machine.execTxclr t s
  -- Events of the sequencer and of memory
  | .idleBundle k q => Sys2Proof.Machine.execIdleBundle k q s
  | .resultLanding core ctx => Sys2Proof.Machine.execResultLanding core ctx s
  | .farLoadLanding core ctx id => Sys2Proof.Machine.execFarLoadLanding core ctx id s
  | .farStorePerform core ctx id => Sys2Proof.Machine.execFarStorePerform core ctx id s
  | .windowWrite core off data => Sys2Proof.Machine.execWindowWrite core off data s
  | .windowRead core off bytes => Sys2Proof.Machine.execWindowRead core off bytes s
  | .eccCorrection core => Sys2Proof.Machine.execEccCorrection core s
  | .uncorrectableError addr => Sys2Proof.Machine.execUncorrectableError addr s
  | .walkComplete id => Sys2Proof.Machine.execWalkComplete id s
  | .trapEntry core ctx cause info => Sys2Proof.Machine.execTrapEntry core ctx cause info s
  | .userInterrupt core ctx => Sys2Proof.Machine.execUserInterrupt core ctx s
  | .budgetExpiry core ctx => Sys2Proof.Machine.execBudgetExpiry core ctx s
  | .hung core ctx => Sys2Proof.Machine.execHung core ctx s
  | .preemption core ctx => Sys2Proof.Machine.execPreemption core ctx s
  | .timeSliceSwitch core ctx => Sys2Proof.Machine.execTimeSliceSwitch core ctx s
  | .strandSwitch core ctx => Sys2Proof.Machine.execStrandSwitch core ctx s
  | .contextSaveComplete core ctx => Sys2Proof.Machine.execContextSaveComplete core ctx s
  | .strandResume image ctx => Sys2Proof.Machine.execStrandResume image ctx s
  | .contextSwitch core => Sys2Proof.Machine.execContextSwitch core s
  -- Events of the levee, tasks and queues
  | .skeinBind slot x y z => Sys2Proof.Machine.execSkeinBind slot x y z s
  | .pointFire slot x y z core ctx => Sys2Proof.Machine.execPointFire slot x y z core ctx s
  | .pointCompletion slot x y z => Sys2Proof.Machine.execPointCompletion slot x y z s
  | .launchAdmission queue => Sys2Proof.Machine.execLaunchAdmission queue s
  | .doorbell queue tail => Sys2Proof.Machine.execDoorbell queue tail s
  | .taskPacketArrival id => Sys2Proof.Machine.execTaskPacketArrival id s
  | .taskBind core ctx => Sys2Proof.Machine.execTaskBind core ctx s
  -- Events of the engines
  | .spoolElementFetch core ctx n => Sys2Proof.Machine.execSpoolElementFetch core ctx n s
  | .storeSpoolWrite core ctx n => Sys2Proof.Machine.execStoreSpoolWrite core ctx n s
  | .copyElement id => Sys2Proof.Machine.execCopyElement id s
  | .copyCompletion id => Sys2Proof.Machine.execCopyCompletion id s
  | .mergeStart id => Sys2Proof.Machine.execMergeStart id s
  | .mergeEnd id => Sys2Proof.Machine.execMergeEnd id s
  | .probeStart core ctx => Sys2Proof.Machine.execProbeStart core ctx s
  | .probeEnd core ctx => Sys2Proof.Machine.execProbeEnd core ctx s
  | .updateStart core ctx => Sys2Proof.Machine.execUpdateStart core ctx s
  | .updateEnd core ctx => Sys2Proof.Machine.execUpdateEnd core ctx s
  | .arrayStart core ctx => Sys2Proof.Machine.execArrayStart core ctx s
  | .arrayElement core ctx => Sys2Proof.Machine.execArrayElement core ctx s
  | .arrayCompletion core ctx => Sys2Proof.Machine.execArrayCompletion core ctx s
  | .multicastRowRead id => Sys2Proof.Machine.execMulticastRowRead id s
  | .collectiveStart id => Sys2Proof.Machine.execCollectiveStart id s
  | .collectiveEnd id others down => Sys2Proof.Machine.execCollectiveEnd id others down s
  -- Events of the fabric, the host and the package
  | .sluiceArrival source asid k element => Sys2Proof.Machine.execSluiceArrival source asid k element s
  | .fabricAccess source addr access => Sys2Proof.Machine.execFabricAccess source addr access s
  | .fabricResponse core ctx id mark data status => Sys2Proof.Machine.execFabricResponse core ctx id mark data status s
  | .fabricTimeout core ctx id => Sys2Proof.Machine.execFabricTimeout core ctx id s
  | .hostAccess addr access => Sys2Proof.Machine.execHostAccess addr access s
  | .syncMessage offset domain => Sys2Proof.Machine.execSyncMessage offset domain s
  | .syncTimeout => Sys2Proof.Machine.execSyncTimeout s
  | .waittExpiry core ctx => Sys2Proof.Machine.execWaittExpiry core ctx s
  | .powerOnBoot => Sys2Proof.Machine.execPowerOnBoot s
  | .quote nonce => Sys2Proof.Machine.execQuote nonce s
  | .securityVersionRaise version sig => Sys2Proof.Machine.execSecurityVersionRaise version sig s
  | .identityRead off bytes => Sys2Proof.Machine.execIdentityRead off bytes s
  | .devctl value => Sys2Proof.Machine.execDevctl value s
  | .svpoolAppend die value => Sys2Proof.Machine.execSvpoolAppend die value s
  | .ptpcfg value => Sys2Proof.Machine.execPtpcfg value s
  | .hostRegisterWrite off value => Sys2Proof.Machine.execHostRegisterWrite off value s
  | .halt => Sys2Proof.Machine.execHalt s
  | .debugResume => Sys2Proof.Machine.execDebugResume s
  | .step => Sys2Proof.Machine.execStep s
  | .debuggerHalt core => Sys2Proof.Machine.execDebuggerHalt core s
  | .dbgdata write => Sys2Proof.Machine.execDbgdata write s
  | .go => Sys2Proof.Machine.execGo s
  | .abort => Sys2Proof.Machine.execAbort s
  | .recv => Sys2Proof.Machine.execRecv s
  | .evacStopComplete => Sys2Proof.Machine.execEvacStopComplete s
  | .evacStreamComplete => Sys2Proof.Machine.execEvacStreamComplete s
  | .evacDrainComplete => Sys2Proof.Machine.execEvacDrainComplete s
  | .evacTimeout => Sys2Proof.Machine.execEvacTimeout s
  | .adopted ident => Sys2Proof.Machine.execAdopted ident s
  | .throttle core mhz => Sys2Proof.Machine.execThrottle core mhz s
  | .thermalShutdown celsius => Sys2Proof.Machine.execThermalShutdown celsius s
  | .powerOff => Sys2Proof.Machine.execPowerOff s
  | .stationDown station live => Sys2Proof.Machine.execStationDown station live s
  | .loadComplete core ctx => Sys2Proof.Machine.execLoadComplete core ctx s

end Sys2Proof.Machine
end

