-- ==== Sys2Proof/Machine/Boundary.lean ====
section
/-!
DEFINITION. What comes next: the events that engines and units can make, the re-injection of replay entries (R272), and how the
strand in focus moves on: landing, waiting, the events of a boundary in their order (R264), and the issue of what fetch finds.
-/
namespace Sys2Proof.Machine

open Sys2Proof

/-! ### Events of engines and units -/

/-- A far access whose turn it is performs, when its home is this package; one that the fabric cannot take fails. -/
def farEvents (s : State) (key : Nat) (st : Strand) : List Instr :=
  (st.far.filter fun f => mayPerform st f && ((foreignTo s st f).isNone || !canSend s st f)).map fun f =>
    if f.reads then .farLoadLanding (keyCore key) (key % 2) f.id else .farStorePerform (keyCore key) (key % 2) f.id

/-- The stream engine's events for a strand: load spools fetch and store spools write. -/
def spoolEvents (s : State) (key : Nat) (st : Strand) : List Instr :=
  (List.range 16).flatMap fun n =>
    match st.spools.getD n none with
    | none => []
    | some sp =>
      if spIsStore sp.desc then (if sp.buf.isEmpty then [] else [.storeSpoolWrite (keyCore key) (key % 2) (BitVec.ofNat 4 n)])
      else if canFetch s key st n then [.spoolElementFetch (keyCore key) (key % 2) (BitVec.ofNat 4 n)]
      else []

/-- The probe engine's event on a core. -/
def probeEvents (s : State) (core : Nat) : List Instr :=
  match probeHead s core with
  | none => []
  | some q =>
    let ctx := q.ctx % 2
    [match q.kind == 0, q.started with
      | true, false => .probeStart core ctx
      | true, true => .probeEnd core ctx
      | false, false => .updateStart core ctx
      | false, true => .updateEnd core ctx]

/-- The merge engine works for the core's probe, in a freeze of the core too (R19). -/
def unionHanded (s : State) (core : Nat) : Bool := (probeHead s core).any fun q => q.union.isSome

/-- A debugger halt freezes the core: the other context of it moves no further either (R281). -/
def coreHalted (s : State) (core : Nat) : Bool :=
  (List.range 2).any fun c => (s.strandAt (2 * core + c)).any fun st => st.halted

/-- The waits that stop the stream and probe engines with their core (R19, R61). DEDUCED (log 33): a wait for what these engines or the
array do, or for an ordering that they bring about, leaves them running. -/
def Wait.stopsEngines : Wait → Bool
  | .blocked | .farOrder | .walk | .pending | .queue | .barrier | .time | .future | .inbox | .copyQueue | .workQueue | .levee => true
  | .held | .spool | .ordering | .probeQueue | .yielded | .squashed | .arrayQueue | .done | .ownWork | .results => false

/-- The freeze domain of a core moves: no ECC fix, debugger halt or wait of the strand that issues stands against it (R19, R61). -/
def coreMoves (s : State) (core : Nat) : Bool :=
  (s.core core).eccFreeze == 0 && !coreHalted s core && (List.range 2).all fun c =>
    let key := 2 * core + c
    (s.ctx key).state != .issuing || (s.strandAt key).all fun st => (!st.dead || memberDone s key) && !st.frozen.any Wait.stopsEngines

/-- The timebase reaches what a WAITT of the strand waits for (R295). -/
def waittEvents (s : State) (key : Nat) (st : Strand) : List Instr :=
  if st.frozen == some .time && st.waits.wake.toNat ≤ s.time.now.toNat then [.waittExpiry (keyCore key) (key % 2)] else []

/-- The events that serve the strand of one context. -/
def contextEvents (s : State) (p : Nat × Context) : List Instr :=
  match p.2.strand with
  | none => []
  | some st => farEvents s p.1 st ++ (if coreMoves s (keyCore p.1) then spoolEvents s p.1 st else []) ++ waittEvents s p.1 st

/-- The events of the copy, merge and collective engines. -/
def engineEvents (s : State) : List Instr :=
  ((s.copies.filter fun c => c.engine.isSome).map fun c =>
      if c.next < tlPoints c.src then .copyElement c.id else .copyCompletion c.id)
    ++ (s.merges.map fun m => if m.running then .mergeEnd m.id else .mergeStart m.id)
    ++ s.collectives.flatMap fun c =>
      if !c.running then [.collectiveStart c.id]
      else if (bitSet 1024 c.mask).length == 1 then [.collectiveEnd c.id [] false] else []

/-- The levee fires the next point or binds the next skein (R249, R252). -/
def fireEvents (s : State) : List Instr :=
  match nextShot s with
  | none => []
  | some shot =>
    if launchIsSkein s (s.slot shot.slot).record then [.skeinBind shot.slot shot.x shot.y shot.z]
    else
      let k := shot.keys.headD 0
      [.pointFire shot.slot shot.x shot.y shot.z (keyCore k) (k % 2)]

/-- The events of queues, launches and tasks. -/
def leveeEvents (s : State) : List Instr :=
  (s.queues.map fun q => .launchAdmission q.1) ++ fireEvents s
    ++ (s.slots.flatMap fun p => (p.2.flying.filter fun f => f.retired && !f.returning).map fun f => .pointCompletion p.1 f.x f.y f.z)
    ++ ((s.packets.filter fun p => !p.arrived && p.parkedOn.isNone).map fun p => .taskPacketArrival p.id)
    ++ s.cores.flatMap fun c => if c.2.inbox.isEmpty then [] else [.taskBind c.1 0, .taskBind c.1 1]

/-- A saved strand may come back unless its image's BUDGET has run out: it then waits for system software (R276, R280). -/
def resumeEvents (s : State) : List Instr :=
  (s.saved.filter (mayReturn s)).flatMap fun x => [.strandResume x.block 0, .strandResume x.block 1]

/-- The evacuation engine's next event (R301). -/
def evacEvents (s : State) : List Instr :=
  match s.host.evacState with
  | 1 => if coresEmpty s then [.evacStopComplete] else []
  | 2 => [.evacStreamComplete]
  | 3 => if coresEmpty s then [.evacDrainComplete] else []
  | _ => []

/-- Every event that the engines, the levee and the units can make now. -/
def enabledEvents (s : State) : List Instr :=
  s.ctxs.flatMap (contextEvents s) ++ engineEvents s ++ (s.walks.map fun w => .walkComplete w.id)
    ++ (s.cores.flatMap fun c => if coreMoves s c.1 || unionHanded s c.1 then probeEvents s c.1 else []) ++ (s.casts.map fun c => .multicastRowRead c.id)
    ++ leveeEvents s ++ resumeEvents s ++ evacEvents s

/-- The event at a place of a list; none past its end. -/
def pickEvent : List Instr → Nat → Option Instr
  | [], _ => none
  | e :: _, 0 => some e
  | _ :: l, n + 1 => pickEvent l n

/-! ### Re-injection (R272) -/

/-- An entry that faults again at its re-injection. -/
def faultAgain (s : State) (e : Replay) (r : Raise) : State :=
  let st := s.strand
  s.setStrand { st with faults := st.faults ++ [{ e with cause := r.cause, info := r.info, phys := r.phys }] }

/-- The state that a re-injected operation runs in: its operands supplied, its latency counted from its own issue. -/
def replayState (s : State) (e : Replay) (log : List Supply) (bt : Nat) : State :=
  { s with issue := { Issue.init with mode := 2, log := log, issueBt := bt, seq := e.seq / 8, slot := e.slot, sword := e.sword
                                      pc := s.strand.pos.pc } }

/-- The focus strand waits with these entries still to re-inject. -/
def replayWait (s : State) (es : List Replay) (w : Wait) : State :=
  let st := s.strand
  s.setStrand { st with replay := es, frozen := some w }

/-- A re-injected LOOP of count 0 passes over its loop, whose start the strand stands at: it branches late. DEDUCED (log 59). -/
def replayBranch (s : State) : State :=
  match s.issue.target with
  | none => s
  | some t =>
    let st := s.strand
    s.setStrand { st with pos := { st.pos with pc := t, backEdge := false, loopQuiet := false, line := { st.pos.line with busy := st.pos.line.busy + 2 } } }

/-- Re-injects entries in order; `bad` names the spools whose pop has failed again (R266, R272). -/
def replayAll : List Replay → List Nat → State → State
  | [], _, s =>
    let st := s.strand
    s.setStrand { st with replay := [], frozen := none }
  | e :: rest, bad, s =>
    match e.redo with
    | .op i log bt =>
      match runOp (operate i) (replayState s e log bt) with
      | .ok s' => replayAll rest bad (replayBranch s')
      | .over _ => replayAll rest bad s
      | .raise r | .answer r => replayAll rest bad (faultAgain s e r)
      | .post r n => replayAll rest (n :: bad) (faultAgain s e (if bad.contains n then noRaise else r))
      | .freeze w => replayWait s (e :: rest) w
      | .hold w register => replayWait (register s) (e :: rest) w
    | .push eff flags =>
      let st := s.strand
      let fs := insertFlight ⟨e.due, e.seq, e.slot, eff⟩ st.pos.line.flights
      let fs := if flags == 0 then fs else insertFlight ⟨e.due, e.seq, e.slot, .flags flags⟩ fs
      replayAll rest bad (s.setStrand { st with pos := { st.pos with line := { st.pos.line with flights := fs } } })
    | .array o =>
      let st := s.strand
      replayAll rest bad (s.setStrand { st with arr := reinjectArr st.pos.line.bt st.arr o })
    | .probe _ => replayAll rest bad s

/-- Engine requests re-enter the head of the core's queue, in entry order (R272). -/
def replayProbes (s : State) : State :=
  let st := s.strand
  let qs := st.replay.filterMap fun e => match e.redo with
    | .probe q => some { q with ctx := s.focus, started := false, plan := none, found := [], failed := false, union := none }
    | _ => none
  let c := s.core s.coreNo
  (if qs.isEmpty then s else s.setCore s.coreNo { c with probes := qs ++ c.probes }).setStrand
    { st with replay := st.replay.filter fun e => match e.redo with
        | .probe _ => false
        | _ => true }

/-- The re-injection of the entries that the focus strand's handler did not drop. -/
def replayStep (s : State) : State :=
  let s1 := replayProbes s
  replayAll s1.strand.replay [] s1

/-! ### The strand in focus -/

/-- The results due land, and the array does what is due; answers whether the core stays frozen for a push or a stream. -/
def landPulse (s : State) (key : Nat) : State × Bool :=
  let (s1, held) := land s key
  if held then (freezeAt s1 key (heldWait s1 key), true)
  else
    match s1.strandAt key with
    | none => (s1, false)
    | some st =>
      if !st.ownLine then (s1, false)
      else
        let (s2, starved) := arrPulse s1 key
        if starved then (freezeAt s2 key .held, true) else (s2, false)

/-- The reads that the bundle at hand waits for, marked where their data have returned (R206, R404). -/
def answerReads (n : Nat) (st : Strand) : Strand := { st with asked := st.asked.map fun q => (q.1, q.2 || Config.answers n q.1) }

/-- A cycle of waiting of a strand: it counts against BUDGET, and reads return (R206, R276). -/
def waitOn (s : State) (key : Nat) (st : Strand) (w : Wait) : State :=
  let s1 := s.setStrandAt key (answerReads s.ticks (spendWait st w (Config.waitCycles s.ticks)))
  if w.needsTime st then advance s1 key else s1

/-- The issue of what fetch found: one instruction is executed as it stands, several as one bundle. -/
def issueStanding (s : State) (f : Standing) : Host.Outcome State Fault Refusal :=
  match f.result with
  | .idle k q => exec (.idleBundle (BitVec.ofNat 3 k) (BitVec.ofBool q)) (standBundle s s.focus f 0 2 q)
  | .bundle b =>
    match b.ops with
    | [i] => exec i (standBundle s s.focus f b.idle b.length b.quiescent)
    | ops => issueOps (ops.map fun i => (i, operate i)) (standBundle s s.focus f b.idle b.length b.quiescent)
  | .endOfLine | .illegal => .next s

/-- The events of a boundary in the order of R264, after which the bundle issues; a fault, a squash or a DONE of that bundle comes
before them (R50). -/
def boundaryStep (s : State) (core ctx : Nat) (st : Strand) (f : Except Raise Standing) : Host.Outcome State Fault Refusal :=
  let key := 2 * core + ctx
  match trapAt s key st f with
  | some t => exec (.trapEntry core ctx t.err.cause t.err.info) s
  | none =>
    if haltDue s key then exec (.debuggerHalt core) s
    else if readyToLeave s key then exec (.strandSwitch core ctx) s
    else if interruptDue s key then exec (.userInterrupt core ctx) s
    else match f with
      | .ok x => issueStanding s x
      | .error _ => .next s

/-- A loop that starts at an address starts at the header that fetch finds from there on (R52, R85). -/
def startAt (pc a : Nat) (st : Strand) : Strand :=
  if pc == a then st
  else { st with pos := { st.pos with loops := st.pos.loops.map fun l => if l.start == pc then { l with start := a } else l } }

/-- Fetch at a boundary where the last bundle's occupancy has passed (R52, R55). -/
def fetchStep (s : State) (core ctx : Nat) (st : Strand) : Host.Outcome State Fault Refusal :=
  match fetchOp s with
  | .ok ((a, r), _) =>
    let st1 := startAt st.pos.pc a st
    boundaryStep (s.setStrand st1) core ctx st1 (.ok ⟨a, r⟩)
  | .error (.raise r) | .error (.answer r) | .error (.post r _) => boundaryStep s core ctx st (.error r)
  | .error (.over _) => .next s
  | .error (.freeze w) => .next (freezeAt s s.focus w)
  | .error (.hold w register) => .next (freezeAt (register s) s.focus w)

/-- What held the strand up has gone on. -/
def release (s : State) (key : Nat) : State := if (s.strandAt key).any fun st => st.frozen == some .held || st.frozen == some .blocked then thaw s key else s

/-- A strand that issues, with no event of its own due: it lands, occupies or stands at a boundary. -/
def runStep (s : State) (core ctx : Nat) : Host.Outcome State Fault Refusal :=
  let (s1, held) := landPulse s s.focus
  if held then .next s1
  else
    let s2 := release s1 s1.focus
    match s2.strandAt s2.focus with
    | none => .next s2
    | some st => if 0 < st.pos.line.busy then exec (.resultLanding core ctx) s2 else fetchStep s2 core ctx st

/-- A strand in its drain span: a bundle-time passes, or, with everything landed and complete, it leaves ISSUING (R33, R277). -/
def drainStep (s : State) (core ctx : Nat) : Host.Outcome State Fault Refusal :=
  let (s1, held) := landPulse (withdrawAldbs (thaw s s.focus) s.focus) s.focus
  if held then .next s1
  else
    match s1.strandAt s1.focus with
    | none => .next s1
    | some st => if drained s1 st then exec (.strandSwitch core ctx) s1 else exec (.resultLanding core ctx) s1

/-- The evacuation wants a strand that nothing asks to leave: one that an empty save pool or an end of its wait has let run on (R301). -/
def evacLeaves (s : State) (st : Strand) : Bool := (s.host.evacState == 1 || s.host.evacState == 3) && st.leaving.isNone

/-- A strand that issues: the watchdog, pre-emption and the time slice, then its waiting, its re-injection or its next bundle. -/
def issuingStep (s : State) (core ctx : Nat) (st : Strand) : Host.Outcome State Fault Refusal :=
  if st.draining then drainStep s core ctx
  else if readyToLeave s s.focus && st.dead then exec (.strandSwitch core ctx) s
  else if st.dead || st.halted then .next s
  else if budgetOut st && 65536 ≤ st.overrun then exec (.hung core ctx) s
  else if budgetOut st && !st.resumed && st.leaving != some 1 && st.leaving != some 5 then exec (.budgetExpiry core ctx) s
  else if evacLeaves s st then .next (askLeave s s.focus 4)
  else if giveWay s s.focus st == some 2 then exec (.preemption core ctx) s
  else if giveWay s s.focus st == some 3 then exec (.timeSliceSwitch core ctx) s
  else
    let s1 := match st.frozen with
      | none => s
      | some w => waitOn s s.focus st w
    if st.replay != [] && st.trapFrame.isNone then .next (replayStep s1) else runStep s1 core ctx

/-- One move of the context in focus: an ECC freeze or a switch of its core runs down first (R33, R139). -/
def strandStep (s : State) : Host.Outcome State Fault Refusal :=
  let core := s.coreNo
  let ctx := s.focus % 2
  let c := s.core core
  match s.strandAt s.focus with
  | none => .next s
  | some st =>
    if s.host.evacState == 6 || coreHalted s core then .next s
    else if 0 < c.eccFreeze then .next (s.setCore core { c with eccFreeze := c.eccFreeze - 1 })
    else if 0 < c.switching then .next (s.setCore core { c with switching := c.switching - 1 })
    else
      match (s.ctx s.focus).state with
      | .free => .next s
      | .loading => exec (.loadComplete core ctx) s
      | .ready => exec (.contextSwitch core) s
      | .saving => exec (.contextSaveComplete core ctx) s
      | .issuing => issuingStep s core ctx st

/-! ### The outside world and the step -/

/-- The first event of the agenda, once it is due. An agenda holds events, not slot instructions (log 4). -/
def dueEvent (s : State) : Option Instr :=
  match s.agenda with
  | [] => none
  | (t, e) :: _ => if t ≤ s.ticks then some e else none

/-- Takes the first event off the agenda. -/
def popAgenda (s : State) : State := { s with agenda := s.agenda.drop 1 }

/-- The identity EEPROM answers without the part's own supply (R27, R297). -/
def Instr.unpowered : Instr → Bool
  | .identityRead .. => true
  | _ => false

/-- The context that moves next, from those that hold a strand (log 4). -/
def pickFocus : List Nat → Nat → Nat → Nat
  | [], cur, _ => cur
  | [k], _, _ => k
  | l, cur, n => l.getD (n % l.length) cur

/-- The contexts that hold a strand. -/
def liveKeys (s : State) : List Nat := (s.ctxs.filter fun p => p.2.strand.isSome).map fun p => p.1

/-- Time moves on, and the next context comes into focus; what an access lacked in its TLB is forgotten. -/
def afterStep (s : State) : State :=
  let s1 := ({ s with turn := { s.turn with event := none, misses := [] } } : State).tickTime
  { s1 with focus := pickFocus (liveKeys s1) s1.focus (Config.schedule s.ticks) }

/-- An event of an engine or unit comes: where its accesses miss in their TLB it is put off, and walks start for them; once these are
complete it uses their results, and spends them (R135). -/
def engineStep (s : State) (e : Instr) : Host.Outcome State Fault Refusal :=
  match exec e { s with turn := { s.turn with event := some e, misses := [] } } with
  | .next s1 =>
    .next (match s1.turn.misses with
      | [] => { s1 with turn := { s1.turn with walked := s1.turn.walked.filter fun w => w.1 != e } }
      | misses => engineWalks s e misses)
  | out => out

/-- What moves when no event of the outside world is due: Fozor boots the package, one of the enabled events comes, or the strand
in focus moves. Before a boot, and after one that failed, the dies stay in reset (R296). -/
def innerStep (s : State) : Host.Outcome State Fault Refusal :=
  match s.fozor.boot with
  | 0 => exec .powerOnBoot s
  | 1 =>
    let evs := enabledEvents s
    match pickEvent evs (Config.choice s.ticks % (evs.length + 1)) with
    | some e => engineStep s e
    | none => strandStep s
  | _ => .next s

/-- One step before time moves on. With the supply or the clocks gone the package stands still, and no event but a read of the identity
EEPROM reaches it (R27, R301, R304). -/
def stepCore (s : State) : Host.Outcome State Fault Refusal :=
  match dueEvent s with
  | some e =>
    if (!s.powered && !Instr.unpowered e) || (encodeSlot e).isSome then .next (popAgenda s)
    else exec e (popAgenda s)
  | none => if s.powered then innerStep s else .next s

/-- The state after an outcome, with time moved on. -/
def finishStep (o : Host.Outcome State Fault Refusal) : Host.Outcome State Fault Refusal :=
  match o with
  | .next s => .next (afterStep s)
  | .fault f => .fault f
  | .refused r => .refused r

end Sys2Proof.Machine
end

