-- ==== Sys2Proof/Machine/Step.lean ====
section
/-!
DEFINITION. The step of the package, and the placing of one instruction where the step fetches next.
-/
namespace Sys2Proof.Machine

open Sys2Proof

/-- ONE STEP: an event of the outside world that is due, an event of an engine or unit, or a move of the strand in focus; then
time moves on. -/
def step (s : State) : Host.Outcome State Fault Refusal := finishStep (stepCore s)

/-- The code page at virtual and physical address 0: the kernel image at 0, its code from 64 (R55, R91). -/
def codePage : TlbEntry := ⟨0, 0, 0, 16, 0, 15⟩

/-- A strand that stands before its first bundle at the code line of `codePage`. -/
def fetchStrand (st : Strand) : Strand :=
  { st with
    ident := { st.ident with asid := 0, image := 0, codeLen := 64 }
    pos := { st.pos with pc := 64, line := ⟨0, 0, []⟩, susp := [] }
    trapFrame := none, frozen := none, dead := false, halted := false }

/-- `s` with the bundle of these bits at the next fetch of core 0, context 0 (log 1): its bytes in the code line, the page mapped,
a strand ISSUING before it in focus, Fozor's boot done and no outside event due. -/
def State.withFetchWord (s : State) (nbits w : Nat) : State :=
  let st := fetchStrand ((s.strandAt 0).getD Strand.init)
  ({ s with
    mem := memPut s.mem 64 (leBytes 64 (w % 2 ^ nbits)), tlb := codePage :: s.tlb, focus := 0, agenda := [], powered := true
    fozor := { s.fozor with boot := 1 } } : State).setCtx 0 { s.ctx 0 with state := .issuing, strand := some st }

end Sys2Proof.Machine
end

