-- ==== Sys2Proof/Safety.lean ====
section
/-!
DEFINITION. The terms in which claims are stated: when an operation of an issuing strand goes through, what a claim about an
instruction assumes of its guard, and what a safe run is.
-/
namespace Sys2Proof.Machine

open Sys2Proof

/-- What an operation answers and leaves, when it goes through. -/
def through {α : Type} (op : Op α) (s : State) : Option (α × State) :=
  match op s with
  | .ok r => some r
  | .error _ => none

/-- Whether the guard of a lone operation lets it commit: its predicate allows it, and with no BTREE in the bundle its PATH is 0
(R70, R83). -/
def passes (t : Tag) (s : State) : Bool :=
  readPAt s s.focus s.strand s.strand.bank t.gp.toNat != (t.gn == 1) && t.path == 0

/-- No deferred report of the focus strand waits on these paths (R141, R148, R213). -/
def noReport (paths : Nat) (s : State) : Bool := s.strand.reports.all fun r => !bit paths r.path

/-- Every port of a lone instruction is asked for one address (R71). -/
def portsAgree (i : Instr) (s : State) : Bool := !portConflict (beginIssue s) [i]


/-! ### What claims say of a bundle at issue -/

/-- The state after a result has been sent out, to land `lat` bundle-times after issue (R12, R58). -/
def sent (s : State) (lat : Nat) (eff : Effect) : State :=
  let st := s.strand
  s.setStrand { st with pos := { st.pos with line := { st.pos.line with
    flights := insertFlight ⟨s.issue.issueBt + lat, s.issue.seq * 8 + s.issue.slot, s.issue.slot, eff⟩ st.pos.line.flights } } }

/-- The state in which the bundle at issue is to leave for an address (R62). -/
def branched (a : Nat) (s : State) : State := { s with issue := { s.issue with target := some a } }

/-- The state in which the bundle at issue has itself fixed where the strand stands. -/
def ended (s : State) : State := { s with issue := { s.issue with final := true } }

/-- A strand in its own program: in no trap mode and in no user handler (R270, R274). -/
def inProgram (s : State) : Bool := s.strand.trapFrame.isNone && !s.strand.sys.uih

/-! ### What claims read of a state -/

/-- Scalar register n as the focus strand reads it (R67). -/
def State.x (s : State) (n : Nat) : Word := readXAt s s.focus s.strand s.strand.bank n

/-- Predicate n as the focus strand reads it (R67). -/
def State.p (s : State) (n : Nat) : Bool := readPAt s s.focus s.strand s.strand.bank n

/-- Branch-target register n of the focus strand (R67). -/
def State.b (s : State) (n : Nat) : CodeAddr := s.strand.bs.getD n 0

/-- The results that the focus strand has in flight. -/
def State.flights (s : State) : List Flight := s.strand.pos.line.flights

/-- No active loop ends at the bundle at issue, so no back edge stands there (R86). -/
def noEdge (s : State) : Bool := endsLevel s.strand.pos.loops s.issue.pc == none

/-- A strand that issues with nothing on the way: no result in flight, no far access, no destination that would fault, no array
instruction or write, no turn of FENT due, and no loop ending at the bundle at issue. -/
def calm (s : State) : Bool :=
  s.issuing && s.flights.isEmpty && s.strand.far.isEmpty && s.strand.bad.isEmpty && s.strand.arr.ops.isEmpty
    && s.strand.arr.writes.isEmpty && !s.strand.rotate && noEdge s

/-- No result in flight and nothing of the array lands or moves when bundle-time passes, and no turn of FENT is due (R12, R286). -/
def quietLine (st : Strand) : Bool := st.arr.ops.isEmpty && st.arr.writes.isEmpty && !st.rotate

/-- The strand of a context moves alone: it is in no skein (R38). -/
def alone (st : Strand) : Bool := st.ident.skein.isNone

/-- What a bundle leaves as it was, beside what it names: `xs` and `ps` the scalar and predicate registers of its bank that it may change,
`regs` the system registers, `bytes` the addresses of memory. BUDGET counts every bundle (R276), so it is named apart; `world` is the rest of
the package, the model's number of the next entry (`fresh`) apart. -/
structure Kept (s t : State) (xs ps regs : List Nat) (bytes : Nat → Prop) : Prop where
  x : ∀ b n, (n ∉ xs ∨ b ≠ s.strand.bank ∧ 48 ≤ n) → readXAt t t.focus t.strand b n = readXAt s s.focus s.strand b n
  p : ∀ b n, (n ∉ ps ∨ b ≠ s.strand.bank ∧ 88 ≤ n) → readPAt t t.focus t.strand b n = readPAt s s.focus s.strand b n
  bank : t.strand.bank = s.strand.bank
  b : t.strand.bs = s.strand.bs
  sys : ∀ n, n ∉ regs → n ≠ 0x008 → readSys t n = readSys s n
  mem : ∀ a, ¬ bytes a → t.readPhys a 1 = s.readPhys a 1
  poison : (∀ a, ¬ bytes a) → t.poison = s.poison
  spools : t.strand.spools = s.strand.spools
  tags : t.strand.tags = s.strand.tags
  arr : t.strand.arr = s.strand.arr
  loops : t.strand.pos.loops = s.strand.pos.loops
  rets : t.strand.pos.rets = s.strand.pos.rets
  mode : t.strand.trapFrame = s.strand.trapFrame
  families : t.strand.hfam = s.strand.hfam
  entries : t.strand.far = s.strand.far ∧ t.strand.bad = s.strand.bad ∧ t.strand.reports = s.strand.reports ∧
    t.strand.faults = s.strand.faults ∧ t.strand.replay = s.strand.replay
  ident : regs = [] → t.strand.ident = s.strand.ident
  context : (t.ctx s.focus).state = (s.ctx s.focus).state ∧ (t.ctx s.focus).lastLaunch = (s.ctx s.focus).lastLaunch
  others : ∀ k, k ≠ s.focus → t.ctx k = s.ctx k
  core : regs = [] → (∀ a, ¬ bytes a) → t.cores = s.cores
  otherCores : ∀ k, k ≠ s.coreNo → t.core k = s.core k
  world : { t with mem := s.mem, poison := s.poison, cores := s.cores, ctxs := s.ctxs, issue := s.issue, fresh := s.fresh } = s

/-- A machine is safe where its next step stops with neither a fault nor a refusal. -/
def SafeStep (s : State) : Prop := ∃ t, step s = .next t

end Sys2Proof.Machine
end

