-- ==== Sys2Proof/Certificates/Slice0/Obligations.lean ====
section
/-!
DEFINITION. The statements of this model for the provers. Results are written from the rules, apart from the meanings; a slot
instruction goes through where its operands do, one after another in the order of their reading.
-/
open Sys2Proof Sys2Proof.Machine

namespace Sys2Proof.Claims

/-! ### Scalar results (R334, R346, R356, R362, R363, R370, R392-R394, R403, R408, R409, R411, R414, R421, R449) -/

/-- An exact integer clamped to i64. -/
def clampSigned (v : Int) : Word := BitVec.ofInt 64 (max (-2 ^ 63) (min (2 ^ 63 - 1) v))

/-- The instructions xd := f(xa, xb), each with its latency and its result. -/
def twoWords (t : Tag) (xd xa xb : XReg) (sh : BitVec 2) (imm : BitVec 17) (a b : Word) : List (Instr × Nat × Word) :=
  [(.add t xd xa xb 0, 1, a + b),
   (.add t xd xa xb 1, 1, clampSigned (a.toInt + b.toInt)),
   (.add t xd xa xb 2, 1, BitVec.ofNat 64 (min (2 ^ 64 - 1) (a.toNat + b.toNat))),
   (.sub t xd xa xb 0, 1, a - b),
   (.sub t xd xa xb 1, 1, clampSigned (a.toInt - b.toInt)),
   (.sub t xd xa xb 2, 1, BitVec.ofNat 64 (a.toNat - b.toNat)),
   (.mul t xd xa xb, 3, a * b),
   (.mulh t xd xa xb, 3, (a.signExtend 128 * b.signExtend 128).extractLsb' 64 64),
   (.mulhn t xd xa xb, 3, (a.zeroExtend 128 * b.zeroExtend 128).extractLsb' 64 64),
   (.and t xd xa xb, 1, a &&& b),
   (.or t xd xa xb, 1, a ||| b),
   (.xor t xd xa xb, 1, a ^^^ b),
   (.shl t xd xa xb, 1, a <<< (b.extractLsb' 0 6).toNat),
   (.shr t xd xa xb, 1, a >>> (b.extractLsb' 0 6).toNat),
   (.sar t xd xa xb, 1, a.sshiftRight (b.extractLsb' 0 6).toNat),
   (.min t xd xa xb, 1, if a.slt b then a else b),
   (.max t xd xa xb, 1, if a.slt b then b else a),
   (.minn t xd xa xb, 1, if a.ult b then a else b),
   (.maxn t xd xa xb, 1, if a.ult b then b else a),
   (.lea t xd xa xb sh imm, 1, a + (b <<< sh.toNat) + imm.signExtend 64)]

/-- The instructions xd := f(xa), each with its latency and its result. -/
def oneWord (t : Tag) (xd xa : XReg) (imm : BitVec 25) (amount : BitVec 6) (a : Word) : List (Instr × Nat × Word) :=
  [(.addi t xd xa imm, 1, a + imm.signExtend 64),
   (.andi t xd xa imm, 1, a &&& imm.signExtend 64),
   (.ori t xd xa imm, 1, a ||| imm.signExtend 64),
   (.xori t xd xa imm, 1, a ^^^ imm.signExtend 64),
   (.shli t xd xa amount, 1, a <<< amount.toNat),
   (.shri t xd xa amount, 1, a >>> amount.toNat),
   (.sari t xd xa amount, 1, a.sshiftRight amount.toNat),
   (.clz t xd xa, 1, a.clz),
   (.ctz t xd xa, 1, a.ctz),
   (.popc t xd xa, 1, a.cpop)]

/-- BFX with its result, extended with zeros or with the sign of the field (R356). -/
def fields (t : Tag) (xd xa : XReg) (pos lm1 : BitVec 6) (a : Word) : List (Instr × Nat × Word) :=
  [(.bfx t xd xa pos lm1 0, 1, (a.extractLsb' pos.toNat (lm1.toNat + 1)).zeroExtend 64),
   (.bfx t xd xa pos lm1 1, 1, (a.extractLsb' pos.toNat (lm1.toNat + 1)).signExtend 64)]

/-- Whether an integer comparison holds: of the low bits of a format, signed for codes 0-3 and unsigned for 4-7 (R363). -/
def compares (cc : Nat) (fmt : Nat) (a b : Word) : Bool :=
  let w := 8 * 2 ^ (fmt % 4)
  let x := a.extractLsb' 0 w
  let y := b.extractLsb' 0 w
  let less := if fmt < 4 then x.slt y else x.ult y
  match cc with
  | 0 => x == y
  | 1 => x != y
  | 2 => less
  | 3 => less || x == y
  | 4 => !less && x != y
  | _ => !less

/-- The divisions, each with its result for a divisor other than 0. -/
def quotients (t : Tag) (xd xa xb : XReg) (a b : Word) : List (Instr × Word) :=
  [(.div t xd xa xb, a.sdiv b), (.divn t xd xa xb, a / b), (.rem t xd xa xb, a.srem b), (.remn t xd xa xb, a % b)]

/-- The low bits of a word that a scalar float format takes: 32 for f32, 16 for f16 and bf16 (R375). -/
def floatLow (fmt : Fmt) (v : Word) : Nat := v.toNat % 2 ^ (if fmt = 8 then 32 else 16)

/-- The rounded operations of two values, each with its result and its flags (R375). -/
def floatOps (t : Tag) (xd xa xb : XReg) (fmt : Fmt) (rm : BitVec 3) (r : Round) (a b : Nat) : List (Instr × Nat × Nat) :=
  [(.fadd t xd xa xb fmt rm, fAdd fmt.toNat r a b), (.fsub t xd xa xb fmt rm, fSub fmt.toNat r a b),
   (.fmul t xd xa xb fmt rm, fMul fmt.toNat r a b)]

/-- The header address of the bundle at issue plus a signed offset, as a 57-bit address (R357). -/
def relative (s : State) (off : BitVec 32) : Nat := (((s.issue.pc : Int) + off.toInt) % 2 ^ 57).toNat

/-- Whether a test of a BTREE holds (R84). -/
def testHolds (s : State) (t : LeafTest) : Bool := s.p t.pred.toNat != (t.polarity == 1)

/-- The leaf that a BTREE takes: the first test that holds, else 5 (R84, R360). -/
def leafTaken (s : State) (t0 t1 t2 t3 : LeafTest) : Nat :=
  if testHolds s t0 then 1 else if testHolds s t1 then 2 else if testHolds s t2 then 3 else if testHolds s t3 then 4 else 5

/-- The state in which the bundle at issue has chosen a leaf. -/
def atLeaf (k : Nat) (s : State) : State := { s with issue := { s.issue with leaf := k } }

/-- The state with another return stack. -/
def withRets (s : State) (l : List Nat) : State := s.setStrand { s.strand with pos := { s.strand.pos with rets := l } }

/-- The state with another loop stack. -/
def withLoops (s : State) (l : List Level) : State := s.setStrand { s.strand with pos := { s.strand.pos with loops := l } }

/-- The trap that a fault at the issue of the bundle takes: its cause, and the bundle undone (R266, R267). -/
def trapsWith (i : Instr) (s : State) (cause : Nat) : Prop :=
  ∃ info, exec i s = .next (takeTrap (beginIssue s) s.focus ⟨cause, info, false⟩ false [] s.issue.pc)

/-- The trap of a fault at the issue of the bundle with this cause and this TINFO (R266, R269). -/
def trapsAt (i : Instr) (s : State) (cause : Nat) (info : Word) : Prop :=
  exec i s = .next (takeTrap (beginIssue s) s.focus ⟨cause, info, false⟩ false [] s.issue.pc)

/-- The core freezes before the bundle issues, and nothing of the bundle has been done (R61, R471). -/
def freezes (i : Instr) (s : State) (w : Wait) : Prop := exec i s = .next (freezeAt (beginIssue s) s.focus w)

/-- No operand, walk or queue freezes the bundle of one instruction: a freeze comes before every fault of its issue (R471). -/
def unfrozen (i : Instr) (s : State) : Bool := (scanBundle [(i, operate i)] (beginIssue s) none).freeze.isNone

/-- The predicate instructions of the C slot, each with its result (R410). -/
def predicateOps (na nb : BitVec 1) (pd pa pb : PReg) (a b : Bool) : List (Instr × Bool) :=
  [(.pand na nb pd pa pb, (a != (na == 1)) && (b != (nb == 1))), (.por na nb pd pa pb, (a != (na == 1)) || (b != (nb == 1))),
   (.pxor na nb pd pa pb, (a != (na == 1)) != (b != (nb == 1))), (.pnot pd pa, !a), (.pmov na pd pa, a != (na == 1))]

/-- Something of a strand's earlier work on a path to covered locations is unfinished (R227, R372): work that an engine or the far
side ends, or work that bundle-time ends. -/
def unfinished (s : State) (st : Strand) (scope : Option Nat) (p : Nat) : Bool := outstanding s st scope p || ownWork s st scope p

/-- Nothing of a strand's earlier work on these paths to covered locations is unfinished. -/
def clearOf (s : State) (st : Strand) (scope : Option Nat) (paths : Nat) : Prop :=
  ∀ p, p < 7 → bit paths p = true → unfinished s st scope p = false

/-- The same of the strand at issue. -/
def pathsClear (s : State) (scope : Option Nat) (paths : Nat) : Prop := clearOf s s.strand scope paths

/-- A strand without its far loads, for which a TRIG waits no further (R425; the model's reading, log 18). -/
def withoutLoads (st : Strand) : Strand :=
  { st with far := st.far.filter fun f => match f.kind with
      | .load _ => false
      | _ => true }

/-- No active level stands in the way of one more loop (R85, R398). -/
def loopFree (s : State) : Prop := s.strand.pos.loops.length < 6 ∧ ∀ l ∈ s.strand.pos.loops, l.stop ≠ s.issue.pc

/-- A LOOP of each form has its count, and leaves a state: an immediate, a register's value, or the next count of a spool that gives
counts (R85, R397, R398). -/
def countTaken (s : State) (i : Instr) (endOff : BitVec 20) (count : Nat) (s1 : State) : Prop :=
  (∃ c, i = .loopImm endOff c ∧ s1 = enter i s ∧ count = c.toNat) ∨
  (∃ xa v, i = .loopX endOff xa ∧ through (getX xa) (enter i s) = some (v, s1) ∧ count = v.toNat) ∨
  (∃ n, i = .loopSpool endOff n ∧ countSpool s.strand n.toNat = true ∧ through (nextCount n.toNat) (enter i s) = some (count, s1))

/-- A LOOPS of either form has its count: an immediate, or, with XF, a register's value (R399). -/
def stagedTaken (s : State) (i : Instr) (endOff : BitVec 20) (sm1 : BitVec 3) (pk : PReg) (count : Nat) (s1 : State) : Prop :=
  (∃ c, i = .loops endOff sm1 pk 0 c ∧ s1 = enter i s ∧ count = c.toNat) ∨
  (∃ (xa : XReg) (v : Word), i = .loops endOff sm1 pk 1 (BitVec.ofNat 17 xa.toNat) ∧ through (getX xa) (enter i s) = some (v, s1) ∧
    count = v.toNat)

/-- An instruction that must find the bundle behind a named end without running to it: a loop of count 0, or a LEAVE, with the state in
which it looks there (R86). -/
def passesOver (s : State) (i : Instr) (stop : Nat) (s1 : State) : Prop :=
  loopFree s ∧ (∃ (endOff : BitVec 20) (sm1 : BitVec 3) (pk : PReg), stop = s.issue.pc + endOff.toNat ∧
    (countTaken s i endOff 0 s1 ∨ stagedTaken s i endOff sm1 pk 0 s1)) ∨
  ∃ n l, i = .leave n ∧ s1 = enter i s ∧ 1 ≤ n.toNat ∧ n.toNat ≤ s.strand.pos.loops.length ∧
    s.strand.pos.loops[s.strand.pos.loops.length - n.toNat]? = some l ∧ stop = l.stop

/-- The header address behind a bundle at `a`, from the bytes of its line from there on (R52, R86). -/
def behind (a : Nat) (bytes : List Byte) : Nat :=
  if leNat (bytes.take 2) = 0 then a / 64 * 64 + 64 else a + 2 + 7 * (slotsOfMask (leNat (bytes.take 2) % 256)).length

/-- The code that a strand reads from an address to the end of its line (R55, R119, R134). -/
def codeLine (s : State) (a : Nat) (b : List Byte) : Prop :=
  (codeBounds s).1 ≤ a ∧ a < (codeBounds s).2 ∧ a < 2 ^ 57 ∧ 2 ≤ 64 - a % 64 ∧ ∃ m, through (strandMap a) s = some (some m, s) ∧
    permitted .x s.priv m.perms = true ∧ codeAt s a (m.phys a) (64 - a % 64) = .ok b

/-- A header that R52 rules out. -/
def ruledOut (bytes : List Byte) : Prop :=
  leNat (bytes.take 2) ≠ 0 ∧ (bits (leNat (bytes.take 2)) 15 12 ≠ 0 ∨
    leNat (bytes.take 2) % 256 = 0 ∧ bits (leNat (bytes.take 2)) 11 9 = 0 ∨
    bytes.length < 2 + 7 * (slotsOfMask (leNat (bytes.take 2) % 256)).length)

/-- What DONE waits for has ended: nothing in flight, no far access, no copy, no retrieval request, no collective (R371). -/
def retirable (s : State) : Prop :=
  unlanded s s.strand = false ∧ s.strand.far = [] ∧ outstanding s s.strand none 2 = false ∧ outstanding s s.strand none 4 = false ∧
    outstanding s s.strand none 5 = false

/-- The state with the strand at issue on its own, changed. -/
def withStrand (s : State) (f : Strand → Strand) : State := s.setStrand (f s.strand)

/-- The system registers that only a supervisor may read, those that no one writes, and those that only a supervisor writes, by the
map of R79. -/
def supervisorRead (n : Nat) : Bool := 0x020 ≤ n && n ≤ 0x022
def neverWritten (n : Nat) : Bool := n == 0x003 || n == 0x010 || n == 0x011 || (0x070 ≤ n && n ≤ 0x077)
def supervisorWrite (n : Nat) : Bool := supervisorRead n || n == 0x001 || n == 0x008 || n == 0x031 || n == 0x032

/-- What MFS returns of a register once an MTS of `v` has landed, by the field tables of the registers; `old` is what it returned
before, `sup` whether the core is a supervisor core (R4, R5, R74, R75, R77, R81, R101, R114, R128, R255, R258, R269, R273, R276, R286). -/
def afterMts (sup : Bool) (n : Nat) (old v : Word) : Word :=
  match n with
  | 0x000 => (old &&& ~~~4) ||| (v &&& 4)
  | 0x001 => if sup then old else v &&& 0xFF007F
  | 0x002 => v &&& 0x7F
  | 0x004 => v &&& 0x3
  | 0x005 => v &&& 0x1F
  | 0x008 => v &&& 0x1FFFFFFFFFFFF
  | 0x020 => v &&& 0x1FFFFFFFFFFF001
  | 0x021 => v &&& 0xFFFF
  | 0x022 => v
  | 0x028 => v &&& 0xFFFFFFFF
  | 0x029 => (old &&& ~~~v &&& 0xFFFFF00000000) ||| (v &&& 0xFFFFF)
  | 0x030 => v &&& 0x1FFFFFFFF07
  | 0x031 => v &&& 0xFFFFE1FFC0000FFF
  | 0x032 => v
  | 0x033 => if v.toNat % 16 ≤ 11 then v &&& 0xF else old
  | 0x038 => v &&& 0x1FFFF
  | n => if n < 0x058 then v &&& 0xFFFFFFFFFC07FFFF else v &&& 0xFFF0030F

/-- A strand with no far access outstanding and no destination that would fault at its use. -/
def noneFar (s : State) : Bool := s.strand.far.isEmpty && s.strand.bad.isEmpty

/-- The bytes of an access size, and the word that a load makes of the bytes that it reads: extended by the signedness of its
format code (R76, R390). -/
def sizeBytes (sz : BitVec 3) : Nat := 2 ^ (sz.toNat % 4)
def loaded (sz : BitVec 3) (b : List Byte) : Word :=
  if sz.toNat < 4 then (BitVec.ofNat (8 * sizeBytes sz) (leNat b)).signExtend 64 else BitVec.ofNat 64 (leNat b)

/-- The scalar loads and the stores with their addresses, and the alignment that each needs (R389-R391). -/
def loads (s : State) (t : Tag) (xv xa : XReg) (sz : BitVec 3) (sc : BitVec 4) (imm : BitVec 22) (imm18 : BitVec 18) :
    List (Instr × Nat × Nat × Option Nat) :=
  [(.ld t xv xa sz imm, (s.x xa.toNat + imm.signExtend 64).toNat, 1, none),
   (.lda t xv xa sz sc imm18, (s.x xa.toNat + imm18.signExtend 64).toNat, sizeBytes sz, some sc.toNat)]
def stores (s : State) (t : Tag) (xv xa : XReg) (sz : BitVec 3) (sc : BitVec 4) (imm : BitVec 22) (imm18 : BitVec 18) :
    List (Instr × Nat × Nat × Option Nat) :=
  [(.st t xv xa sz imm, (s.x xa.toNat + imm.signExtend 64).toNat, 1, none),
   (.stl t xv xa sz sc imm18, (s.x xa.toNat + imm18.signExtend 64).toNat, sizeBytes sz, some sc.toNat)]

/-- The counter and RAS blocks (R116, R127). -/
def isBlock (sp : Space) : Bool :=
  match sp with
  | .counter _ | .ras _ => true
  | _ => false

/-- The state with one more far access of the strand at issue, under a new number (R60, R218). -/
def withFar (s : State) (a : Access) (kind : FarKind) (acquire : Bool) : State :=
  withStrand { s with fresh := s.fresh + 1 } fun st =>
    { st with far := st.far ++ [⟨s.fresh, pathOfSpace a.space, a.va, a.pieces, kind, acquire, s.issue.seq⟩] }

/-- The state with the strand's visible side effect marked (R46). -/
def marked (s : State) : State := withStrand s fun st => { st with sideEffect := true }

/-- The bytes of an access as a set of addresses. -/
def bytesOf (a : Access) (x : Nat) : Prop := ∃ p ∈ a.pieces, p.1 ≤ x ∧ x < p.1 + p.2

/-- The value that an AMO leaves, by its OP, on words of `k` bytes (R344). -/
def atomicResult (op k : Nat) (old b : Nat) : Nat :=
  let x := BitVec.ofNat (8 * k) old
  let y := BitVec.ofNat (8 * k) b
  (match op with
    | 0 => y
    | 1 => x + y
    | 2 => x &&& y
    | 3 => x ||| y
    | 4 => x ^^^ y
    | 5 => if y.slt x then y else x
    | 6 => if x.slt y then y else x
    | 7 => if y.ult x then y else x
    | _ => if x.ult y then y else x).toNat

/-- A vector of 128 bytes whose lanes of `w` bytes hold the first parts of `f`, with the flags of all of them together. -/
def vectorOf (w : Nat) (f : Nat → Nat × Nat) (v fl : Nat) : Prop :=
  v < 2 ^ 1024 ∧ (∀ k, k < 128 / w → elemOf w k v = (f k).1 % 2 ^ (8 * w)) ∧
    fl = (List.range (128 / w)).foldl (fun acc k => acc ||| (f k).2) 0

/-- The exact value of a lane in an integer format: signed for codes 0-3. -/
def laneInt (fmt w a : Nat) : Int := if fmt < 4 then (BitVec.ofNat (8 * w) a).toInt else (BitVec.ofNat (8 * w) a).toNat

/-- An exact value in a lane, wrapped modulo its width, or clamped to the range of its format (R95, R432). -/
def laneOf (fmt w : Nat) (clamp : Bool) (x : Int) : Nat :=
  let lo : Int := if fmt < 4 then -2 ^ (8 * w - 1) else 0
  let hi : Int := if fmt < 4 then 2 ^ (8 * w - 1) - 1 else 2 ^ (8 * w) - 1
  ((if clamp then max lo (min hi x) else x) % 2 ^ (8 * w)).toNat

/-- The instructions of two vectors that work lane by lane, each with its latency and what a lane becomes (R432, R434). -/
def laneOps (t : Tag) (vd va : VReg) (pa : Port) (vb : VReg) (pb : Port) (et : ElemType) (sx : BitVec 1) (r : Round) :
    List (Instr × Nat × (Nat → Nat → Nat × Nat)) :=
  let int := ElemType.isInt et
  let fmt := etFmt et
  let w := ElemType.bytes et
  let x (a : Nat) : Int := laneInt fmt w a
  [(.vadd t vd va pa vb pb et sx, if int then 2 else 4,
      fun a b => if int then (laneOf fmt w (sx == 1) (x a + x b), 0) else fAdd fmt r a b),
   (.vsub t vd va pa vb pb et sx, if int then 2 else 4,
      fun a b => if int then (laneOf fmt w (sx == 1) (x a - x b), 0) else fSub fmt r a b),
   (.vmul t vd va pa vb pb et, 3, fun a b => if int then (laneOf fmt w false (x a * x b), 0) else fMul fmt r a b),
   (.vmin t vd va pa vb pb et, 2, fun a b => if int then (if x b < x a then b else a, 0) else (fMinMax fmt false a b, 0)),
   (.vmax t vd va pa vb pb et, 2, fun a b => if int then (if x a < x b then b else a, 0) else (fMinMax fmt true a b, 0)),
   (.vshl t vd va pa vb pb et, 2, fun a b => (((BitVec.ofNat (8 * w) a) <<< (b % (8 * w))).toNat, 0)),
   (.vshr t vd va pa vb pb et, 2, fun a b => (((BitVec.ofNat (8 * w) a) >>> (b % (8 * w))).toNat, 0)),
   (.vsar t vd va pa vb pb et, 2, fun a b => (((BitVec.ofNat (8 * w) a).sshiftRight (b % (8 * w))).toNat, 0))]

/-- The instructions of one vector that work lane by lane (R432, R438). -/
def laneOps1 (t : Tag) (vd va : VReg) (pa : Port) (et : ElemType) (r : Round) : List (Instr × Nat × (Nat → Nat × Nat)) :=
  let int := ElemType.isInt et
  let fmt := etFmt et
  let w := ElemType.bytes et
  [(.vabs t vd va pa et, 2, fun a =>
      if int then (laneOf fmt w false (if fmt < 4 then |laneInt fmt w a| else laneInt fmt w a), 0)
      else (if (floatValue fmt a).isNaN then canonNaN fmt else a % 2 ^ (8 * w - 1), 0)),
   (.vneg t vd va pa et, 2, fun a =>
      if int then (laneOf fmt w false (-(laneInt fmt w a)), 0)
      else (if (floatValue fmt a).isNaN then canonNaN fmt else a ^^^ 2 ^ (8 * w - 1), 0)),
   (.vexp2 t vd va pa et, 10, transcend 0 fmt r), (.vlog2 t vd va pa et, 10, transcend 1 fmt r),
   (.vrcp t vd va pa et, 10, transcend 2 fmt r), (.vrsq t vd va pa et, 10, transcend 3 fmt r)]

/-- CONV placed by PART (R437): element j of the result, of elements converted one by one (R105). -/
def convPlaced (fd fs : Nat) (r : Round) (sat : Bool) (part a j : Nat) : Nat × Nat :=
  let wd := fmtBytes fd
  let ws := fmtBytes fs
  let conv (m : Nat) : Nat × Nat := convert fd fs r sat (elemOf ws m a)
  if wd < ws then (if part * (128 / ws) ≤ j ∧ j < part * (128 / ws) + 128 / ws then conv (j - part * (128 / ws)) else (0, 0))
  else if ws < wd then conv (part * (128 / wd) + j)
  else conv j

/-- The rank of a code of a group (R183): its magnitude, infinities above the finite values and NaNs above all. -/
def sparseMagnitude (fmt x : Nat) : Nat :=
  if fmt = 0 then (laneInt 0 1 x).natAbs else if fmt = 4 then x else if (floatValue fmt x).isNaN then 128 else x % 128

/-- The indices that group g keeps, in increasing order: those with fewer than four ahead of them, by rank, then by index (R183). -/
def keeps (fmt a g : Nat) : List Nat :=
  let rank (i : Nat) : Nat := sparseMagnitude fmt (elemOf 1 (8 * g + i) a)
  (List.range 8).filter fun i => ((List.range 8).filter fun j => rank i < rank j || (rank i == rank j && j < i)).length < 4

/-- What VSPRS leaves of a vector: the kept codes, the group codes of R181, and zeros (R183, R447). -/
def compressed (fmt a v : Nat) : Prop :=
  v < 2 ^ 1024 ∧
    (∀ g k, g < 16 → k < 4 → elemOf 1 (4 * g + k) v = elemOf 1 (8 * g + (keeps fmt a g).getD k 0) a) ∧
    (∀ g, g < 16 → elemOf 2 (32 + g) v = (keeps fmt a g).getD 0 0 + 8 * (keeps fmt a g).getD 1 0 + 64 * (keeps fmt a g).getD 2 0 +
      512 * (keeps fmt a g).getD 3 0) ∧
    ∀ k, 96 ≤ k → k < 128 → elemOf 1 k v = 0

/-- The tree of R112 over 2^k contributions. -/
def tree (op : Nat × Nat → Nat × Nat → Nat × Nat) : Nat → (Nat → Nat × Nat) → Nat × Nat
  | 0, c => c 0
  | k + 1, c => tree op k fun i => op (c (2 * i)) (c (2 * i + 1))

/-- One node of VRED, with the flags below it (R445): in 64-bit integers, or in f32. -/
def vredNode (fmt op : Nat) (r : Round) (a b : Nat × Nat) : Nat × Nat :=
  if fmt < 8 then
    let x := BitVec.ofNat 64 a.1
    let y := BitVec.ofNat 64 b.1
    let less (p q : Word) : Bool := if fmt < 4 then p.slt q else p.ult q
    ((match op with
      | 0 => x + y
      | 1 => if less y x then y else x
      | 2 => if less x y then y else x
      | 3 => x &&& y
      | 4 => x ||| y
      | _ => x ^^^ y).toNat, 0)
  else
    match op with
    | 0 => ((fAdd 8 r a.1 b.1).1, a.2 ||| b.2 ||| (fAdd 8 r a.1 b.1).2)
    | 1 => (fMinMax 8 false a.1 b.1, a.2 ||| b.2)
    | _ => (fMinMax 8 true a.1 b.1, a.2 ||| b.2)

/-- An element as VRED takes it: extended to 64 bits, or widened to f32 (R445). -/
def widened (fmt w x : Nat) : Nat :=
  if fmt < 8 then (BitVec.ofInt 64 (laneInt fmt w x)).toNat else (convert 8 fmt .rne false x).1

/-- A lane that VAMAX and VARGMX do not pass over (R433). -/
def counts (fmt w a k : Nat) : Prop := k < 128 / w ∧ (fmt < 8 ∨ (floatValue fmt (elemOf w k a)).isNaN = false)

/-- The magnitude of a lane, and its place in the order of R99 (R433). -/
def magnitude (fmt w x : Nat) : Nat := if fmt < 8 then (laneInt fmt w x).natAbs else x % 2 ^ (8 * w - 1)
def ordered (fmt w x : Nat) : Int :=
  if fmt < 8 then laneInt fmt w x else if x < 2 ^ (8 * w - 1) then x else -((x % 2 ^ (8 * w - 1) : Nat) : Int) - 1

/-- The largest magnitude of the lanes, or the canonical NaN; and the lowest index of the largest lane, or 0 (R433). -/
def isLargest (fmt w a v : Nat) : Prop :=
  (∃ k, counts fmt w a k ∧ v = magnitude fmt w (elemOf w k a) ∧ ∀ j, counts fmt w a j → magnitude fmt w (elemOf w j a) ≤ v) ∨
    (∀ k, ¬ counts fmt w a k) ∧ v = canonNaN fmt
def isArgmax (fmt w a k : Nat) : Prop :=
  (counts fmt w a k ∧ ∀ j, counts fmt w a j → ordered fmt w (elemOf w j a) < ordered fmt w (elemOf w k a) ∨
    ordered fmt w (elemOf w j a) = ordered fmt w (elemOf w k a) ∧ k ≤ j) ∨ (∀ j, ¬ counts fmt w a j) ∧ k = 0

/-- The bitwise instructions, on all 1,024 bits (R434). -/
def bitOps (t : Tag) (vd va : VReg) (pa : Port) (vb : VReg) (pb : Port) (et : ElemType) (a b : Vec) : List (Instr × Vec) :=
  [(.vand t vd va pa vb pb et, a &&& b), (.vor t vd va pa vb pb et, a ||| b), (.vxor t vd va pa vb pb et, a ^^^ b)]

/-- The pattern of minus infinity in a vector float format: f32, f16, bf16 (R97). -/
def minusInfinity (fmt : Nat) : Nat := if fmt = 8 then 0xFF800000 else if fmt = 9 then 0xFC00 else 0xFF80

/-- The vector reads of two operands of an instruction, in order. -/
def readsTwo (i : Instr) (va vb : VReg) (s : State) (a b : Nat) (s' : State) : Prop :=
  ∃ s1, through (getV va) (enter i s) = some (a, s1) ∧ through (getV vb) s1 = some (b, s')

/-- A vector result with its flags, sent out to land `lat` bundle-times later. -/
def sendsVector (lat : Nat) (vd : VReg) (v fl : Nat) (s s' : State) : Prop :=
  ∃ s1, through (putV lat vd v) s = some ((), s1) ∧ through (emitFlags lat fl) s1 = some ((), s')

end Sys2Proof.Claims

open Sys2Proof.Claims

/-- R334, R346, R362, R392, R403, R408, R409, R411, R414, R421, R449: an integer instruction of two source words, or of one, issues where its sources can be read and its result can be sent, and sends the result that the rules give. -/
def Obligations.IntegerResults : Prop :=
  (∀ (s s1 s2 s3 : State) (t : Tag) (xd xa xb : XReg) (sh : BitVec 2) (imm : BitVec 17) (a b v : Word) (i : Instr) (lat : Nat),
    (i, lat, v) ∈ twoWords t xd xa xb sh imm a b →
    s.issuing = true → passes t s = true →
    through (getXQ xa) (enter i s) = some (a, s1) → through (getXQ xb) s1 = some (b, s2) →
    through (putXQ lat xd v) s2 = some ((), s3) →
    exec i s = .next (settleIssue s3 [])) ∧
  (∀ (s s1 s2 : State) (t : Tag) (xd xa : XReg) (imm : BitVec 25) (amount : BitVec 6) (a v : Word) (i : Instr) (lat : Nat),
    (i, lat, v) ∈ oneWord t xd xa imm amount a →
    s.issuing = true → passes t s = true →
    through (getXQ xa) (enter i s) = some (a, s1) → through (putXQ lat xd v) s1 = some ((), s2) →
    exec i s = .next (settleIssue s2 []))

/-- R356, R363, R394, R418: SEL, LI, LIH, BFX, BFI, CMP and CMPI. SEL reads both words whichever it chooses, and no word decodes to a SEL
by a predicate past p95; LIH and BFI read their destination; BFX takes lm1 + 1 bits from pos on, extended with zeros or with their sign; BFI
takes bits pos to pos + lm1 of its result from its source and the others from its destination. -/
def Obligations.SelectImmediateCompareResults : Prop :=
  (∀ (s s1 s2 s3 s4 : State) (t : Tag) (xd xa xb : XReg) (ps : PReg) (a b : Word) (p : Bool),
    s.issuing = true → passes t s = true →
    through (getXQ xa) (enter (.sel t xd xa xb ps) s) = some (a, s1) → through (getXQ xb) s1 = some (b, s2) →
    through (getP ps) s2 = some (p, s3) → through (putXQ 1 xd (if p then a else b)) s3 = some ((), s4) →
    exec (.sel t xd xa xb ps) s = .next (settleIssue s4 [])) ∧
  (∀ (t : Tag) (xd xa xb : XReg) (ps : PReg) (k : SlotKind) (w : Nat), 96 ≤ ps.toNat → decodeSlot k w ≠ some (.sel t xd xa xb ps)) ∧
  (∀ (s s1 s2 : State) (t : Tag) (xd xa : XReg) (pos lm1 : BitVec 6) (a v : Word) (i : Instr), (i, 1, v) ∈ fields t xd xa pos lm1 a →
    s.issuing = true → passes t s = true → pos.toNat + lm1.toNat ≤ 63 → through (getXQ xa) (enter i s) = some (a, s1) →
    through (putXQ 1 xd v) s1 = some ((), s2) → exec i s = .next (settleIssue s2 [])) ∧
  (∀ (s s1 : State) (t : Tag) (xd : XReg) (imm : BitVec 31),
    s.issuing = true → passes t s = true → through (putXQ 1 xd (imm.signExtend 64)) (enter (.li t xd imm) s) = some ((), s1) →
    exec (.li t xd imm) s = .next (settleIssue s1 [])) ∧
  (∀ (s s1 s2 : State) (t : Tag) (xd : XReg) (imm : BitVec 31) (d : Word),
    s.issuing = true → passes t s = true → through (getXQ xd) (enter (.lih t xd imm) s) = some (d, s1) →
    through (putXQ 1 xd ((d <<< 31) ||| imm.zeroExtend 64)) s1 = some ((), s2) →
    exec (.lih t xd imm) s = .next (settleIssue s2 [])) ∧
  (∀ (s s1 s2 s3 : State) (t : Tag) (xd xa : XReg) (pos lm1 : BitVec 6) (a d v : Word),
    s.issuing = true → passes t s = true → pos.toNat + lm1.toNat ≤ 63 →
    (∀ k, k < 64 → v.getLsbD k = if pos.toNat ≤ k ∧ k ≤ pos.toNat + lm1.toNat then a.getLsbD (k - pos.toNat) else d.getLsbD k) →
    through (getXQ xa) (enter (.bfi t xd xa pos lm1) s) = some (a, s1) → through (getXQ xd) s1 = some (d, s2) →
    through (putXQ 1 xd v) s2 = some ((), s3) →
    exec (.bfi t xd xa pos lm1) s = .next (settleIssue s3 [])) ∧
  (∀ (s s1 s2 s3 : State) (t : Tag) (pd : PReg) (xa xb : XReg) (cc fmt : BitVec 4) (a b : Word),
    s.issuing = true → passes t s = true → cc.toNat ≤ 5 → fmt.toNat ≤ 7 →
    through (getXQ xa) (enter (.cmp t pd xa xb cc fmt) s) = some (a, s1) → through (getXQ xb) s1 = some (b, s2) →
    through (putP 1 pd (compares cc.toNat fmt.toNat a b)) s2 = some ((), s3) →
    exec (.cmp t pd xa xb cc fmt) s = .next (settleIssue s3 [])) ∧
  (∀ (s s1 s2 : State) (t : Tag) (pd : PReg) (xa : XReg) (cc : BitVec 4) (imm : BitVec 20) (a : Word),
    s.issuing = true → passes t s = true → cc.toNat % 8 ≤ 5 →
    through (getXQ xa) (enter (.cmpi t pd xa cc imm) s) = some (a, s1) →
    through (putP 1 pd (compares (cc.toNat % 8) (if cc.toNat < 8 then 3 else 7) a (imm.signExtend 64))) s1 = some ((), s2) →
    exec (.cmpi t pd xa cc imm) s = .next (settleIssue s2 []))

/-- R370, R471: a division by other than 0 issues and sends its quotient or remainder after 18 bundle-times; by 0, where nothing freezes
its bundle, it takes the trap DIVIDE_ZERO there, with nothing popped or sent. -/
def Obligations.Divisions : Prop :=
  ∀ (s s1 s2 : State) (t : Tag) (xd xa xb : XReg) (a b v : Word) (i : Instr),
    (i, v) ∈ quotients t xd xa xb a b →
    s.issuing = true → passes t s = true →
    through (getXQ xa) (enter i s) = some (a, s1) → through (getXQ xb) s1 = some (b, s2) →
    (b ≠ 0 → ∀ s3, through (putXQ 18 xd v) s2 = some ((), s3) → exec i s = .next (settleIssue s3 [])) ∧
    (b = 0 → (through (putXQ 18 xd 0) s2).isSome = true → trapsWith i s 0x1E)

/-- R101, R375, R378, R379: the scalar floating instructions issue and send their result 4 bundle-times later, with the flags that
it raises behind it. -/
def Obligations.FloatResults : Prop :=
  (∀ (s s1 s2 s3 s4 s5 : State) (t : Tag) (xd xa xb : XReg) (fmt : Fmt) (rm : BitVec 3) (r : Round) (a b : Word) (v fl : Nat) (i : Instr),
    (i, v, fl) ∈ floatOps t xd xa xb fmt rm r (floatLow fmt a) (floatLow fmt b) →
    s.issuing = true → passes t s = true → scalarFloat fmt = true →
    through (getXQ xa) (enter i s) = some (a, s1) → through (getXQ xb) s1 = some (b, s2) →
    through (getRound rm) s2 = some (r, s3) → through (putXQ 4 xd (BitVec.ofNat 64 v)) s3 = some ((), s4) →
    through (emitFlags 4 fl) s4 = some ((), s5) →
    exec i s = .next (settleIssue s5 [])) ∧
  (∀ (s s1 s2 s3 s4 s5 s6 : State) (t : Tag) (xd xa xb xc : XReg) (fmt : Fmt) (rm : BitVec 3) (r : Round) (a b c : Word),
    s.issuing = true → passes t s = true → scalarFloat fmt = true →
    through (getXQ xa) (enter (.ffma t xd xa xb xc fmt rm) s) = some (a, s1) → through (getXQ xb) s1 = some (b, s2) →
    through (getXQ xc) s2 = some (c, s3) → through (getRound rm) s3 = some (r, s4) →
    through (putXQ 4 xd (BitVec.ofNat 64 (fFma fmt.toNat r (floatLow fmt a) (floatLow fmt b) (floatLow fmt c)).1)) s4 = some ((), s5) →
    through (emitFlags 4 (fFma fmt.toNat r (floatLow fmt a) (floatLow fmt b) (floatLow fmt c)).2) s5 = some ((), s6) →
    exec (.ffma t xd xa xb xc fmt rm) s = .next (settleIssue s6 [])) ∧
  (∀ (s s1 s2 s3 : State) (t : Tag) (xd xa xb : XReg) (fmt : Fmt) (isMax : Bool) (a b : Word) (i : Instr),
    i = (if isMax then .fmax t xd xa xb fmt else .fmin t xd xa xb fmt) →
    s.issuing = true → passes t s = true → scalarFloat fmt = true →
    through (getXQ xa) (enter i s) = some (a, s1) → through (getXQ xb) s1 = some (b, s2) →
    through (putXQ 4 xd (BitVec.ofNat 64 (fMinMax fmt.toNat isMax (floatLow fmt a) (floatLow fmt b)))) s2 = some ((), s3) →
    exec i s = .next (settleIssue s3 [])) ∧
  (∀ (s s1 s2 s3 : State) (t : Tag) (pd : PReg) (xa xb : XReg) (cc fmt : BitVec 4) (a b : Word),
    s.issuing = true → passes t s = true → scalarFloat fmt = true → cc.toNat ≤ 7 →
    through (getXQ xa) (enter (.fcmp t pd xa xb cc fmt) s) = some (a, s1) → through (getXQ xb) s1 = some (b, s2) →
    through (putP 4 pd (floatCompare fmt.toNat cc.toNat (floatLow fmt a) (floatLow fmt b))) s2 = some ((), s3) →
    exec (.fcmp t pd xa xb cc fmt) s = .next (settleIssue s3 [])) ∧
  (∀ (s s1 s2 s3 s4 : State) (t : Tag) (xd xa : XReg) (fd fs : Fmt) (rm : BitVec 3) (sat : BitVec 1) (r : Round) (a : Word) (v fl : Nat),
    s.issuing = true → passes t s = true → fd.toNat ≤ 13 → fs.toNat ≤ 13 →
    convert fd.toNat fs.toNat r (sat == 1) a.toNat = (v, fl) →
    through (getXQ xa) (enter (.fcvt t xd xa fd fs rm sat) s) = some (a, s1) → through (getRound rm) s1 = some (r, s2) →
    through (putXQ 4 xd (if fd.toNat < 8 then BitVec.ofInt 64 (intValue fd.toNat v) else BitVec.ofNat 64 v)) s2 = some ((), s3) →
    through (emitFlags 4 fl) s3 = some ((), s4) →
    exec (.fcvt t xd xa fd fs rm sat) s = .next (settleIssue s4 []))

/-- R98, R101, R104: rounding a value that a floating format holds gives that value's own encoding and raises no flag, in every
rounding mode; a NaN gives the canonical NaN. -/
def Obligations.RoundingKeepsEncodings : Prop :=
  ∀ (f v : Nat) (r : Round), 8 ≤ f → f ≤ 12 → v < 2 ^ floatBits f →
    deliver f r (floatValue f v) = (if (floatValue f v).isNaN then canonNaN f else v, 0)

/-- R334, R346, R356, R362, R392, R394, R403, R409, R411, R414, R421, R449: on a calm strand, an integer instruction of latency 1 whose operands are
registers issues, its result lands in its destination register a bundle-time later (a result for x0 is discarded), control goes on
at the bundle behind, and nothing else changes but BUDGET. -/
def Obligations.IntegerFrame : Prop :=
  ∀ (s : State) (t : Tag) (xd xa xb : XReg) (sh : BitVec 2) (imm : BitVec 17) (imm25 : BitVec 25) (imm31 : BitVec 31)
    (amount pos lm1 : BitVec 6) (i : Instr) (v : Word),
    (i, 1, v) ∈ twoWords t xd xa xb sh imm (s.x xa.toNat) (s.x xb.toNat) ++ oneWord t xd xa imm25 amount (s.x xa.toNat)
      ++ fields t xd xa pos lm1 (s.x xa.toNat) ++ [(.li t xd imm31, 1, imm31.signExtend 64), (.lih t xd imm31, 1, (s.x xd.toNat <<< 31) ||| imm31.zeroExtend 64)] →
    calm s = true → passes t s = true → xd.toNat < 56 → xa.toNat < 56 → xb.toNat < 56 →
    ∃ u, exec i s = .next u ∧ Kept s u [xd.toNat] [] [] (fun _ => False) ∧ u.x xd.toNat = (if xd.toNat = 0 then 0 else v) ∧
      u.flights = [] ∧ u.strand.pos.pc = s.issue.next

/-- R57, R370, R387, R408: on a calm strand MUL, MULH, MULHN and the divisions by other than 0 issue; their result stands in flight,
due 3 or 18 bundle-times later (a result for x0 is discarded), and in the bundle-time of the issue nothing changes but BUDGET. -/
def Obligations.LatencyFrame : Prop :=
  ∀ (s : State) (t : Tag) (xd xa xb : XReg) (sh : BitVec 2) (imm : BitVec 17) (i : Instr) (lat : Nat) (v : Word),
    ((i, lat, v) ∈ twoWords t xd xa xb sh imm (s.x xa.toNat) (s.x xb.toNat) ∧ lat ≠ 1 ∨
      s.x xb.toNat ≠ 0 ∧ (i, v) ∈ quotients t xd xa xb (s.x xa.toNat) (s.x xb.toNat) ∧ lat = 18) →
    calm s = true → passes t s = true → xd.toNat < 56 → xa.toNat < 56 → xb.toNat < 56 →
    ∃ u slot seq, exec i s = .next u ∧ Kept s u [] [] [] (fun _ => False) ∧ u.strand.pos.line.bt = s.strand.pos.line.bt + 1 ∧
      u.flights = (if xd.toNat = 0 then [] else [⟨s.strand.pos.line.bt + lat, seq, slot, .x s.strand.bank xd.toNat v⟩]) ∧ u.strand.pos.pc = s.issue.next

/-! ### The C slot -/

/-- R62, R84, R357, R360, R361, R412: branches take the address that the rules give; BTREE takes the target of its first test that
holds, or falls through; CALL pushes the address of the next bundle and RET pops it; a CALL at the depth of the kernel and a RET of
an empty stack take the trap CALL_DEPTH. -/
def Obligations.BranchesAndCalls : Prop :=
  (∀ (s : State) (off : BitVec 32), s.issuing = true →
    exec (.brLabel off) s = .next (settleIssue (branched (relative s off) (enter (.brLabel off) s)) [])) ∧
  (∀ (s : State) (b : BReg), s.issuing = true →
    exec (.brReg b) s = .next (settleIssue (branched (s.b b.toNat).toNat (enter (.brReg b) s)) [])) ∧
  (∀ (s : State) (t0 t1 t2 t3 : LeafTest) (k : Nat), s.issuing = true → leafTaken s t0 t1 t2 t3 = k →
    (k = 5 → exec (.btree t0 t1 t2 t3) s = .next (settleIssue (atLeaf 5 (enter (.btree t0 t1 t2 t3) s)) [])) ∧
    (∀ t : LeafTest, (k, t) ∈ [(1, t0), (2, t1), (3, t2), (4, t3)] →
      exec (.btree t0 t1 t2 t3) s =
        .next (settleIssue (branched (s.b t.target.toNat).toNat (atLeaf k (enter (.btree t0 t1 t2 t3) s))) []))) ∧
  (∀ (s : State) (i : Instr) (a : Nat) (off : BitVec 32) (b : BReg),
    (i, a) ∈ [(.callLabel off, relative s off), (.callReg b, (s.b b.toNat).toNat)] → s.issuing = true → inProgram s = true →
    (s.strand.pos.rets.length ≠ s.strand.ident.callDepth →
      exec i s = .next (settleIssue (branched a (withRets (enter i s) (s.issue.next :: s.strand.pos.rets))) [])) ∧
    (s.strand.pos.rets.length = s.strand.ident.callDepth → trapsWith i s 0x07)) ∧
  (∀ (s : State), s.issuing = true → inProgram s = true →
    (∀ a rest, s.strand.pos.rets = a :: rest → exec .ret s = .next (settleIssue (branched a (withRets (enter .ret s) rest)) [])) ∧
    (s.strand.pos.rets = [] → trapsWith .ret s 0x07))

/-- R67, R407, R410: the predicate instructions of the C slot and MOVB issue from every state and send their result to land a
bundle-time later. -/
def Obligations.PredicateAndBranchRegisterResults : Prop :=
  (∀ (s : State) (na nb : BitVec 1) (pd pa pb : PReg) (i : Instr) (v : Bool),
    (i, v) ∈ predicateOps na nb pd pa pb (s.p pa.toNat) (s.p pb.toNat) → s.issuing = true →
    exec i s = .next (settleIssue (sent (enter i s) 1 (.p s.strand.bank pd.toNat v)) [])) ∧
  (∀ (s : State) (bd : BReg) (xa : XReg) (off : BitVec 32), s.issuing = true →
    exec (.movb 0 bd xa off) s =
      .next (settleIssue (sent (enter (.movb 0 bd xa off) s) 1 (.b bd.toNat (BitVec.ofNat 57 (relative s off)))) [])) ∧
  (∀ (s s1 : State) (bd : BReg) (xa : XReg) (off : BitVec 32) (a : Word), s.issuing = true →
    through (getX xa) (enter (.movb 1 bd xa off) s) = some (a, s1) →
    exec (.movb 1 bd xa off) s = .next (settleIssue (sent s1 1 (.b bd.toNat (a.setWidth 57))) []))

/-- R12, R67, R363, R410: on a calm strand a predicate result lands in its predicate a bundle-time later (p0 stays true), and
nothing else changes but BUDGET. -/
def Obligations.PredicateFrame : Prop :=
  ∀ (s : State) (t : Tag) (na nb : BitVec 1) (pd pa pb : PReg) (xa xb : XReg) (cc fmt : BitVec 4) (imm : BitVec 20) (i : Instr) (v : Bool),
    (i, v) ∈ predicateOps na nb pd pa pb (s.p pa.toNat) (s.p pb.toNat) ++
      [(.cmp t pd xa xb cc fmt, compares cc.toNat fmt.toNat (s.x xa.toNat) (s.x xb.toNat)),
       (.cmpi t pd xa cc imm, compares (cc.toNat % 8) (if cc.toNat < 8 then 3 else 7) (s.x xa.toNat) (imm.signExtend 64))] →
    wellFormed i = true → calm s = true → passes t s = true → xa.toNat < 56 → xb.toNat < 56 →
    ∃ u, exec i s = .next u ∧ Kept s u [] [pd.toNat] [] (fun _ => False) ∧ u.p pd.toNat = (pd.toNat == 0 || v) ∧
      u.flights = [] ∧ u.strand.pos.pc = s.issue.next

/-- R62, R357, R361, R412: on a calm strand a taken branch goes to its target and occupies 2 bundle-times more, and of the state only
BUDGET and, for CALL and RET, the return stack (with STATUS, which shows its depth) change. -/
def Obligations.ControlFrame : Prop :=
  ∀ (s : State) (i : Instr) (a : Nat) (rets : List Nat) (off : BitVec 32) (b : BReg) (r : Nat) (rest : List Nat),
    ((i, a, rets) ∈ [(.brLabel off, relative s off, s.strand.pos.rets), (.brReg b, (s.b b.toNat).toNat, s.strand.pos.rets)] ∨
      inProgram s = true ∧ s.strand.pos.rets.length ≠ s.strand.ident.callDepth ∧
        (i, a, rets) ∈ [(.callLabel off, relative s off, s.issue.next :: s.strand.pos.rets),
          (.callReg b, (s.b b.toNat).toNat, s.issue.next :: s.strand.pos.rets)] ∨
      inProgram s = true ∧ s.strand.pos.rets = r :: rest ∧ (i, a, rets) = (.ret, r, rest)) →
    calm s = true →
    ∃ u, exec i s = .next u ∧ Kept (withRets s rets) u [] [] [] (fun _ => False) ∧ u.strand.pos.pc = a ∧
      u.strand.pos.line.bt = s.strand.pos.line.bt + 1 ∧ u.strand.pos.line.busy = s.issue.idle + 2 ∧ u.flights = []

/-- R52, R85-R88, R393, R397-R399: a loop of any form with a count other than 0 pushes its level and goes on at the bundle behind, where
its body starts at the header that fetch finds; with count 0 it goes to the bundle behind its end; LOOPS sends its stage predicates, the
first true and the others false; LEAVE pops levels and goes to the bundle behind the outermost one's end. A seventh level, a loop that
stands at the end of an active one, a count above 2^32 - 1 and a LEAVE of too many take the trap LOOP_STACK; an end header outside
the code FETCH_BOUND, one that is not mapped for fetch FETCH_PAGE, and one that R52 rules out ILLEGAL_ENCODING, with its address. -/
def Obligations.Loops : Prop :=
  (∀ (s s1 : State) (i : Instr) (endOff : BitVec 20) (count : Nat), countTaken s i endOff count s1 → s.issuing = true → inProgram s = true →
    loopFree s → count ≠ 0 → count < 2 ^ 32 → exec i s = .next (settleIssue
      (withLoops s1 (s.strand.pos.loops ++ [⟨s.issue.next, s.issue.pc + endOff.toNat, count, 0, 0, 0, 0, false⟩])) [])) ∧
  (∀ (s s1 : State) (i : Instr) (endOff : BitVec 20) (sm1 : BitVec 3) (pk : PReg) (count : Nat), stagedTaken s i endOff sm1 pk count s1 →
    s.issuing = true → inProgram s = true → loopFree s → count ≠ 0 → count < 2 ^ 32 →
    exec i s = .next (settleIssue ((List.range (sm1.toNat + 1)).foldl (fun s k => sent s 1 (.p .main (pk.toNat + k) (k == 0)))
      (withLoops s1 (s.strand.pos.loops ++
        [⟨s.issue.next, s.issue.pc + endOff.toNat, count, 0, sm1.toNat + 1, pk.toNat, 0, false⟩]))) [])) ∧
  (∀ (s s1 s2 : State) (i : Instr) (stop a : Nat), passesOver s i stop s1 → s.issuing = true → inProgram s = true →
    through (afterEnd stop) s1 = some (a, s2) →
    exec i s = .next (settleIssue (branched a (match i with
      | .leave n => withLoops s2 (s.strand.pos.loops.take (s.strand.pos.loops.length - n.toNat))
      | _ => s2)) [])) ∧
  (∀ (s : State) (a : Nat), (codeBounds s).1 ≤ a → a < (codeBounds s).2 →
    (64 - a % 64 < 2 → through (afterEnd a) s = some (a / 64 * 64 + 64, s)) ∧
    (∀ b, 2 ≤ 64 - a % 64 → through (fetchBytes a) s = some (b, s) → ¬ ruledOut b → through (afterEnd a) s = some (behind a b, s))) ∧
  (∀ (s s1 : State) (core ctx a : Nat) (st : Strand) (r : FetchResult), fetchOp s = .ok ((a, r), s1) →
    ∃ st', fetchStep s core ctx st = boundaryStep (s.setStrand st') core ctx st' (.ok ⟨a, r⟩) ∧
      st'.pos.loops = st.pos.loops.map (fun l => if l.start = st.pos.pc then { l with start := a } else l) ∧
      { st' with pos := { st'.pos with loops := st.pos.loops } } = st) ∧
  (∀ (s s1 : State) (i : Instr) (endOff : BitVec 20) (sm1 : BitVec 3) (pk : PReg) (count : Nat),
    (countTaken s i endOff count s1 ∨ stagedTaken s i endOff sm1 pk count s1) → s.issuing = true → inProgram s = true →
    unfrozen i s = true →
    (6 ≤ s.strand.pos.loops.length ∨ (∃ l ∈ s.strand.pos.loops, l.stop = s.issue.pc) ∨ 2 ^ 32 ≤ count) → trapsWith i s 0x06) ∧
  (∀ (s : State) (n : BitVec 3), s.issuing = true → inProgram s = true → unfrozen (.leave n) s = true →
    s.strand.pos.loops.length < n.toNat → trapsWith (.leave n) s 0x06) ∧
  (∀ (s s1 : State) (i : Instr) (stop : Nat), passesOver s i stop s1 → s.issuing = true → inProgram s = true →
    ((stop < (codeBounds s).1 ∨ (codeBounds s).2 ≤ stop) → trapsAt i s 0x04 (BitVec.ofNat 64 stop)) ∧
    ((codeBounds s).1 ≤ stop → stop < (codeBounds s).2 → 2 ≤ 64 - stop % 64 →
      (∀ m s2, through (strandMap stop) s1 = some (m, s2) →
        (2 ^ 57 ≤ stop ∨ m = none ∨ ∃ q, m = some q ∧ permitted .x s.priv q.perms = false) → trapsAt i s 0x05 (BitVec.ofNat 64 stop)) ∧
      (∀ b s2, through (fetchBytes stop) s1 = some (b, s2) → ruledOut b → trapsAt i s 0x01 (BitVec.ofNat 64 stop))))

/-- R36, R47, R141, R228, R371, R450, R448: DONE waits until all that the strand issued has ended, then retires it, and its context
is FREE; YIELD issues where it need not give up the core; WAITT issues once TIME has reached its operand, and freezes until then. -/
def Obligations.DoneYieldWaitt : Prop :=
  (∀ (s : State), s.issuing = true → inProgram s = true → noReport 0x7F s = true → retirable (enter .done s) →
    exec .done s = .next (ended (retireStrand (enter .done s) s.focus))) ∧
  (∀ (s t : State), s.issuing = true → s.strand.ident.work ∈ [Work.none, .firmware] → t = retireStrand (enter .done s) s.focus →
    t.strandAt s.focus = none ∧ (t.ctx s.focus).state = .free ∧ (t.ctx s.focus).part = (s.ctx s.focus).part ∧
      ∀ k, k ≠ s.focus → t.ctx k = s.ctx k) ∧
  (∀ (s : State), s.issuing = true → inProgram s = true →
    s.flights ≠ [] → freezes .done s .done) ∧
  (∀ (s : State), s.issuing = true → s.strand.trapFrame = none →
    (s.strand.sys.uih = true ∨ s.strand.resumed = true ∨ (s.issue.q = false ∧ s.strand.pos.backEdge = false ∧ s.strand.pos.loopQuiet = false) ∨
      coreWanted (enter .yield s) s.focus = false) →
    exec .yield s = .next (settleIssue (enter .yield s) [])) ∧
  (∀ (s s1 : State) (xa : XReg) (v : Word), s.issuing = true → through (getX xa) (enter (.waitt xa) s) = some (v, s1) →
    (v.toNat ≤ s.time.now.toNat → exec (.waitt xa) s = .next (settleIssue s1 [])) ∧
    (s.time.now.toNat < v.toNat → exec (.waitt xa) s =
      .next (freezeAt (withStrand (beginIssue s) fun st => { st with waits := { st.waits with wake := v } }) s.focus .time)))

/-- R225, R227-R230, R255, R256, R353, R372, R373, R425, R426: FENCE, DRAIN and TRIG issue once the earlier work that they wait for has
ended, and freeze until then; TRIG then signals its point, or its member (that it waits for no far load is the model's reading, log 18);
BAR goes on where its strand is in no polder, where its arrival is the last one, and where a phase has ended that it waits for, and else
arrives once and waits. -/
def Obligations.OrderingAndBarriers : Prop :=
  (∀ (s : State) (t : Tag) (i : Instr) (scope : Option Nat) (paths : Nat) (sc : BitVec 4) (src dst p : BitVec 7),
    (i, scope, paths) ∈ [(.fence t sc src dst, some sc.toNat, src.toNat), (.drain t p, none, p.toNat)] →
    s.issuing = true → passes t s = true →
    (noReport paths s = true → pathsClear (enter i s) scope paths → exec i s = .next (settleIssue (enter i s) [])) ∧
    (∀ q, q < 7 → bit paths q = true → unfinished (enter i s) s.strand scope q = true →
      ∃ w, (w = .ordering ∨ w = .farOrder ∨ w = .ownWork) ∧ freezes i s w)) ∧
  (∀ (s : State), s.issuing = true → noReport 0x7F s = true →
    clearOf (enter .trig s) (withoutLoads s.strand) (some (bits s.strand.sys.trigscope.toNat 3 0)) 0x7F →
    (s.strand.ident.work ∈ [Work.none, .firmware] → exec .trig s = .next (settleIssue (enter .trig s) [])) ∧
    (∀ r, s.strand.ident.work = .task r → exec .trig s = .next (settleIssue (enter .trig s) [])) ∧
    (∀ slot x y z, s.strand.ident.work = .point slot x y z →
      exec .trig s = .next (settleIssue (signalPoint (enter .trig s) slot x y z) [])) ∧
    (∀ slot x y z m k t, s.strand.ident.work = .member slot x y z m → skeinOf (enter .trig s) s.strand = some k →
      t = (enter .trig s).setSkein { k with trigs := if m ∈ k.trigs then k.trigs else k.trigs ++ [m] } →
      ((∀ i, i < k.members.length → i ∈ k.done ∨ i ∈ k.trigs ∨ i = m) → exec .trig s = .next (settleIssue (signalPoint t slot x y z) [])) ∧
      ((∃ i, i < k.members.length ∧ i ∉ k.done ∧ i ∉ k.trigs ∧ i ≠ m) → exec .trig s = .next (settleIssue t [])))) ∧
  (∀ (s : State) (o : BitVec 1) (paths : BitVec 7), s.issuing = true → s.strand.trapFrame = none → polderEn s.strand.sys.polder = false →
    exec (.bar o paths) s = .next (settleIssue (enter (.bar o paths) s) [])) ∧
  (∀ (s : State) (o : BitVec 1) (paths : BitVec 7) (i : Instr) (p : Polder) (m : Nat), i = .bar o paths → s.issuing = true →
    s.strand.trapFrame = none → polderEn s.strand.sys.polder = true → (o = 0 ∨ pathsClear (enter i s) (some 8) paths.toNat) →
    s.strand.waits.arrived = none → polderLevel s.strand.sys.polder < 3 → m = polderMembers s.strand.sys.polder → 1 ≤ m → m ≤ 2 ^ 20 →
    p = polderAt s (polderKey s.focus s.strand.sys.polder) → (p.count = 0 ∨ p.members = m) →
    (p.count + 1 = m → exec i s = .next (settleIssue
      (setPolder (enter i s) { p with count := 0, phase := (p.phase + 1) % 2 ^ 64, members := m }) [])) ∧
    (p.count + 1 < m → exec i s = .next (freezeAt
      (withStrand (setPolder (beginIssue s) { p with count := p.count + 1, members := m }) fun st =>
        { st with waits := { st.waits with arrived := some p.phase } }) s.focus .barrier))) ∧
  (∀ (s : State) (o : BitVec 1) (paths : BitVec 7) (i : Instr) (phase : Nat) (p : Polder), i = .bar o paths → s.issuing = true →
    s.strand.trapFrame = none → polderEn s.strand.sys.polder = true → s.strand.waits.arrived = some phase →
    p = polderAt s (polderKey s.focus s.strand.sys.polder) →
    (p.phase ≠ phase → exec i s = .next (settleIssue (withStrand (enter i s) fun st =>
      { st with waits := { st.waits with arrived := none } }) [])) ∧
    (p.phase = phase → polderLevel s.strand.sys.polder < 3 → p.count < p.members → freezes i s .barrier))

/-- R266, R267, R269, R359, R422: SYSC and BRK issue and leave their call to the next boundary, where, with no report and no earlier
fault due, TRAP_ENTRY takes the trap with their code in TINFO. -/
def Obligations.CallTraps : Prop :=
  (∀ (s : State) (i : Instr) (cause : Nat) (code : BitVec 16), (i, cause) ∈ [(.sysc code, 0x20), (.brk code, 0x1F)] → s.issuing = true →
    exec i s = .next (settleIssue (withStrand (enter i s) fun st => { st with call := some ⟨cause, code.setWidth 64, false⟩ }) [])) ∧
  (∀ (s : State) (st : Strand) (core ctx : Nat) (cause : Nat) (info : Word) (f : Standing),
    ctx < 2 → s.strandAt (2 * core + ctx) = some st → (s.ctx (2 * core + ctx)).state = .issuing → st.dead = false → st.halted = false →
    st.draining = false → st.pos.line.busy = 0 → st.reports = [] → st.faults = [] → st.call = some ⟨cause, info, false⟩ →
    fetchAt s (2 * core + ctx) = some (.ok f) → f.result ≠ .illegal →
    portConflict { s with focus := 2 * core + ctx } (standingOps (some f)) = false →
    exec (.trapEntry core ctx cause info) s =
      .next (takeTrap (s.setStrandAt (2 * core + ctx) { st with call := none }) (2 * core + ctx) ⟨cause, info, false⟩ false [] f.addr))

/-- R269-R271: outside trap mode, with TVEC enabled and the frame's bytes writable, taking a trap writes the frame, saves the cause
and the address, enters trap mode at supervisor privilege and goes to the handler; the suspended time line and the loop and return
stacks stand as they were. In trap mode, or with TVEC disabled, it is a double fault: the strand freezes for good. -/
def Obligations.TrapEntered : Prop :=
  (∀ (s s1 : State) (key : Nat) (st : Strand) (r : Raise) (deferred : Bool) (es : List Replay) (resume : Nat),
    s.strandAt key = some st → st.trapFrame = none → bit (s.core (keyCore key)).tvec.toNat 0 = true →
    engineWrite s { agentFor key st with priv := true } (trapArea (s.core (keyCore key)) + key % 2 * 2048)
      (frameBytes (tcauseWord r.cause es.length deferred r.phys) r.info resume (statusWord key st) st.pos.line.bt es) = (none, s1) →
    ∃ u, (takeTrap s key r deferred es resume).strandAt key = some u ∧
      u.sys.tcause.toNat = (r.cause + es.length * 2 ^ 8 + bit01 deferred * 2 ^ 14 + bit01 r.phys * 2 ^ 15) % 2 ^ 64 ∧
      u.sys.tinfo = r.info ∧ u.sys.priv = true ∧ u.trapFrame = some (trapArea (s.core (keyCore key)) + key % 2 * 2048) ∧
      u.pos.pc = trapArea (s.core (keyCore key)) + 4096 ∧ u.pos.line = ⟨0, 0, []⟩ ∧ u.replay = es ∧
      (∃ p, u.pos.susp = p :: st.pos.susp ∧ p.kind = .trap ∧ p.line = st.pos.line) ∧
      u.xs = st.xs ∧ u.ps = st.ps ∧ u.bs = st.bs ∧ u.pos.loops = st.pos.loops ∧ u.pos.rets = st.pos.rets ∧
      (takeTrap s key r deferred es resume).mem = s1.mem) ∧
  (∀ (s : State) (key : Nat) (st : Strand) (r : Raise) (deferred : Bool) (es : List Replay) (resume : Nat),
    s.strandAt key = some st → (st.trapFrame.isSome = true ∨ bit (s.core (keyCore key)).tvec.toNat 0 = false) →
    ∃ u, (takeTrap s key r deferred es resume).strandAt key = some u ∧ u.dead = true ∧ u.pos = st.pos ∧ u.xs = st.xs ∧
      u.sys.tinfo = r.info)

/-- R271-R275, R413, R429: RFT in trap mode, its handler's operations landed and its frame readable, ends trap mode: fetch goes on at
the frame's RESUME, privilege is the frame's, the suspended time line goes on and the entries that are not dropped are left to
re-inject; outside trap mode it takes PRIVILEGE. URET in a user handler goes back to the address in shadow x49; elsewhere it takes
ILLEGAL_ENCODING. Both freeze the core until their handler's operations have landed. -/
def Obligations.TrapAndHandlerReturn : Prop :=
  (∀ (s s1 s2 : State) (frame n : Nat) (a : Access) (top : Susp) (rest : List Susp) (b : List Byte), s.issuing = true →
    s.strand.trapFrame = some frame → s.strand.pos.susp = top :: rest → s.flights = [] →
    (∀ f ∈ s.strand.far, f.seq < s.strand.handlerFrom) → n = 64 + 32 * s.strand.replay.length →
    through (strandAccess frame n .r false) (enter .rft s) = some (a, s1) →
    engineRead s1 (agentFor s.focus s.strand) frame n = (.ok b, s2) → frameOk b s.strand.replay.length = true → s1.focus = s.focus →
    s2.strand = s.strand → s2.focus = s.focus → s2.issuing = true →
    ∃ u, exec .rft s = .next u ∧ u.strand.trapFrame = none ∧ u.strand.pos.pc = leNat ((b.drop 8).take 8) ∧
      u.strand.sys.priv = bit (leNat ((b.drop 24).take 8)) 0 ∧ u.strand.pos.line = top.line ∧ u.strand.pos.susp = rest ∧
      u.strand.replay = keptEntries (b.drop 64) s.strand.replay ∧ u.strand.xs = s.strand.xs ∧ u.strand.ps = s.strand.ps ∧ u.mem = s2.mem) ∧
  (∀ (s : State), s.issuing = true → s.strand.trapFrame = none → trapsWith .rft s 0x03) ∧
  (∀ (s : State) (i : Instr), s.issuing = true →
    (i = .rft ∧ s.strand.trapFrame.isSome = true ∧ handlerBusy s.strand = true ∨
      i = .uret ∧ s.strand.trapFrame = none ∧ s.strand.sys.uih = true ∧ handlerOpen (enter i s) s.strand = true) → freezes i s .results) ∧
  (∀ (s : State) (top : Susp) (rest : List Susp), s.issuing = true → s.strand.trapFrame = none → s.strand.sys.uih = true →
    handlerOpen (enter .uret s) s.strand = false → s.strand.pos.susp = top :: rest →
    ∃ u, exec .uret s = .next u ∧ u.strand.sys.uih = false ∧ u.strand.pos.pc = (s.strand.shadowX.getD 1 0).toNat ∧
      u.strand.pos.line = top.line ∧ u.strand.pos.susp = rest ∧ u.strand.xs = s.strand.xs ∧ u.strand.ps = s.strand.ps ∧ u.mem = s.mem) ∧
  (∀ (s : State), s.issuing = true → s.strand.trapFrame = none → s.strand.sys.uih = false → trapsWith .uret s 0x01)

/-- R79, R80, R405, R406: MFS sends the register as it reads at issue, MTS sends the word to be written, a bundle-time later each; an
access that the map does not give at the privilege takes PRIVILEGE. -/
def Obligations.SystemRegisterMoves : Prop :=
  (∀ (s s1 : State) (xd : XReg) (n : BitVec 12), s.issuing = true → sysRegMapped n.toNat = true →
    (supervisorRead n.toNat = false ∨ s.priv = true) → through (putX 1 xd (readSys s n.toNat)) (enter (.mfs xd n) s) = some ((), s1) →
    exec (.mfs xd n) s = .next (settleIssue s1 [])) ∧
  (∀ (s : State) (xd : XReg) (n : BitVec 12), s.issuing = true → noneFar s = true → supervisorRead n.toNat = true →
    s.priv = false → trapsWith (.mfs xd n) s 0x03) ∧
  (∀ (s s1 : State) (xa : XReg) (n : BitVec 12) (v : Word), s.issuing = true → sysRegMapped n.toNat = true →
    through (getX xa) (enter (.mts xa n) s) = some (v, s1) →
    (neverWritten n.toNat = false → (supervisorWrite n.toNat = false ∨ s.priv = true) →
      exec (.mts xa n) s = .next (settleIssue (sent s1 1 (.sys n.toNat v)) [])) ∧
    ((neverWritten n.toNat = true ∨ (supervisorWrite n.toNat = true ∧ s.priv = false)) → trapsWith (.mts xa n) s 0x03))

/-- R4, R79, R405, R406: on a calm strand an MTS that the map allows leaves the register as its field table says a bundle-time later, and
no other register, predicate, byte of memory or array state changes; a write of STATUS changes UIE only. An MFS that the map allows
leaves in its destination what the register read at its issue (x0 stays 0), and nothing else changes but BUDGET. -/
def Obligations.SystemRegisterFrame : Prop :=
  (∀ (s : State) (xa : XReg) (n : BitVec 12), calm s = true → xa.toNat < 56 → sysRegMapped n.toNat = true →
    neverWritten n.toNat = false → (supervisorWrite n.toNat = false ∨ s.priv = true) →
    ∃ u, exec (.mts xa n) s = .next u ∧ Kept s u [] [] [n.toNat] (fun _ => False) ∧
      readSys u n.toNat = afterMts (isSupervisor s.coreNo) n.toNat (readSys s n.toNat) (s.x xa.toNat) ∧ u.flights = []) ∧
  (∀ (s : State) (xd : XReg) (n : BitVec 12), calm s = true → xd.toNat < 56 → sysRegMapped n.toNat = true →
    (supervisorRead n.toNat = false ∨ s.priv = true) →
    ∃ u, exec (.mfs xd n) s = .next u ∧ Kept s u [xd.toNat] [] [] (fun _ => False) ∧
      u.x xd.toNat = (if xd.toNat = 0 then 0 else readSys s n.toNat) ∧ u.flights = [] ∧ u.strand.pos.pc = s.issue.next)

/-! ### Memory -/

/-- R59, R389-R391, R441: a load that translates, is permitted, lies in the core's own window and meets no poison sends the bytes that
stand there at issue, extended by its format for a scalar register, to land after 6 bundle-times. LDA and STL of an address that is no
multiple of their size take ALIGN, with the address in TINFO. -/
def Obligations.LocalLoads : Prop :=
  (∀ (s : State) (t : Tag) (xv xa : XReg) (sz : BitVec 3) (sc : BitVec 4) (imm : BitVec 22) (imm18 : BitVec 18) (i : Instr) (va al : Nat)
    (acq : Option Nat) (a : Access), (i, va, al, acq) ∈ loads s t xv xa sz sc imm imm18 → s.issuing = true → passes t s = true →
    noneFar s = true → va % al = 0 → through (strandAccess va (sizeBytes sz) .r (sizeBytes sz == 8)) (enter i s) = some (a, enter i s) →
    localSpace s a.space = true → a.poison s = none →
    exec i s = .next (settleIssue (if xv.toNat = 0 then enter i s
      else sent (enter i s) 6 (.x s.strand.bank xv.toNat (loaded sz (s.readPieces a.pieces)))) [])) ∧
  (∀ (s : State) (t : Tag) (vv : VReg) (xa : XReg) (imm : BitVec 20) (a : Access), s.issuing = true → passes t s = true →
    noneFar s = true → vectorFits s vv.toNat = true → VReg.isSpool vv = false →
    through (strandAccess (s.x xa.toNat + imm.signExtend 64).toNat 128 .r false) (enter (.vld t vv xa imm) s) = some (a, enter (.vld t vv xa imm) s) →
    localSpace s a.space = true → a.poison s = none →
    exec (.vld t vv xa imm) s = .next (settleIssue
      (sent (enter (.vld t vv xa imm) s) 6 (.bytes (vectorAddr s vv.toNat) (leBytes 128 (leNat (s.readPieces a.pieces))))) [])) ∧
  (∀ (s : State) (t : Tag) (xv xa : XReg) (sz : BitVec 3) (sc : BitVec 4) (imm : BitVec 18) (i : Instr),
      i ∈ [Instr.lda t xv xa sz sc imm, .stl t xv xa sz sc imm] → s.issuing = true → passes t s = true → noneFar s = true →
      s.strand.reports = [] → unfrozen i s = true → (s.x xa.toNat + imm.signExtend 64).toNat % sizeBytes sz ≠ 0 →
      trapsAt i s 0x08 (s.x xa.toNat + imm.signExtend 64))

/-- R59, R141, R389-R391, R442: a store that translates, is permitted, lies in the core's own window and covers no poisoned word in part
performs at its issue: its bytes are sent to stand at once, piece by piece; a release waits first for the earlier accesses that it
orders. -/
def Obligations.LocalStores : Prop :=
  (∀ (s : State) (t : Tag) (xv xa : XReg) (sz : BitVec 3) (sc : BitVec 4) (imm : BitVec 22) (imm18 : BitVec 18) (i : Instr) (va al pa : Nat)
    (rel : Option Nat) (a : Access), (i, va, al, rel) ∈ stores s t xv xa sz sc imm imm18 → s.issuing = true → passes t s = true →
    noneFar s = true → s.strand.reports = [] → va % al = 0 →
    (∀ c, rel = some c → pathsClear (enter i s) (some c) 0x61) →
    through (strandAccess va (sizeBytes sz) .w (sizeBytes sz == 8)) (enter i s) = some (a, enter i s) →
    localSpace s a.space = true → a.pieces = [(pa, sizeBytes sz)] →
    s.partialPoison pa (sizeBytes sz) = none →
    exec i s = .next (settleIssue (marked (sent (enter i s) 0 (.bytes pa (leBytes (sizeBytes sz) (s.x xv.toNat).toNat)))) [])) ∧
  (∀ (s s1 : State) (t : Tag) (vv : VReg) (p : Port) (xa : XReg) (imm : BitVec 20) (v pa : Nat) (a : Access), s.issuing = true →
    passes t s = true → noneFar s = true → through (getV vv) (enter (.vst t vv p xa imm) s) = some (v, s1) → s1.strand.far = [] →
    s1.strand.bad = [] → s1.issue.mode = 0 → through (strandAccess (s1.x xa.toNat + imm.signExtend 64).toNat 128 .w false) s1 = some (a, s1) →
    localSpace s1 a.space = true → a.pieces = [(pa, 128)] → s1.partialPoison pa 128 = none →
    exec (.vst t vv p xa imm) s = .next (settleIssue (marked (sent s1 0 (.bytes pa (leBytes 128 v)))) []))

/-- R3, R59, R137: on a calm strand a local scalar store leaves its bytes in memory, lowest byte first, at the physical pieces of its
address, and every other byte, and every register and predicate, as it was. -/
def Obligations.StoreFrame : Prop :=
  ∀ (s : State) (t : Tag) (xv xa : XReg) (sz : BitVec 3) (sc : BitVec 4) (imm : BitVec 22) (imm18 : BitVec 18) (i : Instr) (va al : Nat)
    (rel : Option Nat) (a : Access), (i, va, al, rel) ∈ stores s t xv xa sz sc imm imm18 → calm s = true → passes t s = true →
    Memory.wf s.mem = true → s.strand.reports = [] → va % al = 0 → (∀ c, rel = some c → pathsClear (enter i s) (some c) 0x61) →
    through (strandAccess va (sizeBytes sz) .w (sizeBytes sz == 8)) (enter i s) = some (a, enter i s) → localSpace s a.space = true →
    (∀ p ∈ a.pieces, s.partialPoison p.1 p.2 = none) →
    ∃ u, exec i s = .next u ∧ Kept s u [] [] [] (bytesOf a) ∧ u.flights = [] ∧ u.strand.pos.pc = s.issue.next ∧
      (∀ pa, a.pieces = [(pa, sizeBytes sz)] → isBlock a.space = false →
        ∀ k, k < sizeBytes sz → memGet u.mem (pa + k) = ((s.x xv.toNat).extractLsb' (8 * k) 8))

/-- R60, R218, R219: an access that lies outside the core's own window is sent out on its path under a new number, its data still to
come or to perform: its destination is pending until then. -/
def Obligations.FarAccessesSent : Prop :=
  (∀ (s : State) (t : Tag) (xv xa : XReg) (sz : BitVec 3) (sc : BitVec 4) (imm : BitVec 22) (imm18 : BitVec 18) (i : Instr) (va al : Nat)
    (acq : Option Nat) (a : Access), (i, va, al, acq) ∈ loads s t xv xa sz sc imm imm18 → s.issuing = true → passes t s = true →
    noneFar s = true → va % al = 0 → through (strandAccess va (sizeBytes sz) .r (sizeBytes sz == 8)) (enter i s) = some (a, enter i s) →
    localSpace s a.space = false →
    exec i s = .next (settleIssue (withFar (enter i s) a
      (.load (if xv.toNat = 0 then .none else .x s.strand.bank xv.toNat sz.toNat)) (coveredAccess (enter i s) acq a)) [])) ∧
  (∀ (s : State) (t : Tag) (vv : VReg) (xa : XReg) (imm : BitVec 20) (a : Access), s.issuing = true → passes t s = true →
    noneFar s = true → vectorFits s vv.toNat = true →
    through (strandAccess (s.x xa.toNat + imm.signExtend 64).toNat 128 .r false) (enter (.vld t vv xa imm) s) = some (a, enter (.vld t vv xa imm) s) →
    localSpace s a.space = false →
    exec (.vld t vv xa imm) s = .next (settleIssue (withFar (enter (.vld t vv xa imm) s) a
      (.load (.vec vv.toNat (vectorAddr s vv.toNat))) false) [])) ∧
  (∀ (s : State) (t : Tag) (xv xa : XReg) (sz : BitVec 3) (sc : BitVec 4) (imm : BitVec 22) (imm18 : BitVec 18) (i : Instr) (va al : Nat)
    (rel : Option Nat) (a : Access), (i, va, al, rel) ∈ stores s t xv xa sz sc imm imm18 → s.issuing = true → passes t s = true →
    noneFar s = true → s.strand.reports = [] → va % al = 0 →
    (∀ c, rel = some c → pathsClear (enter i s) (some c) 0x61) →
    through (strandAccess va (sizeBytes sz) .w (sizeBytes sz == 8)) (enter i s) = some (a, enter i s) →
    localSpace s a.space = false →
    exec i s = .next (settleIssue
      (marked (withFar (enter i s) a (.store (leBytes (sizeBytes sz) (s.x xv.toNat).toNat)) false)) []))

/-- R221, R329-R331, R344, R345: an atomic access of an aligned word in the core's own window takes the old value to its destination
after 6 bundle-times and leaves the value of its OP, for ACAS the new pair only where the old one is the one expected; a misaligned
one takes ATOMIC_ALIGN. -/
def Obligations.LocalAtomics : Prop :=
  (∀ (s : State) (t : Tag) (xd xa xb : XReg) (op : BitVec 4) (w : BitVec 1) (ord : BitVec 2) (sc : BitVec 4) (i : Instr) (k pa old : Nat)
    (a : Access), i = .amo t xd xa xb op w ord sc → k = 4 + 4 * w.toNat → s.issuing = true → passes t s = true → noneFar s = true →
    (2 ≤ ord.toNat → pathsClear (enter i s) (some sc.toNat) 0x61) → op.toNat ≤ 8 →
    ((s.x xa.toNat).toNat % k ≠ 0 → unfrozen i s = true → trapsAt i s 0x1D (s.x xa.toNat)) ∧
    ((s.x xa.toNat).toNat % k = 0 → through (strandAccess (s.x xa.toNat).toNat k .rw false) (enter i s) = some (a, enter i s) →
      localSpace s a.space = true → a.pieces = [(pa, k)] → a.poison s = none → old = leNat (s.readPhys pa k) →
      exec i s = .next (settleIssue (marked
        (let s1 := sent (enter i s) 0 (.bytes pa (leBytes k (atomicResult op.toNat k old ((s.x xb.toNat).toNat % 2 ^ (8 * k)))))
         if xd.toNat = 0 then s1 else sent s1 6 (.x s.strand.bank xd.toNat (BitVec.ofNat 64 old)))) []))) ∧
  (∀ (s : State) (t : Tag) (xd xa xb xc : XReg) (ord : BitVec 2) (sc : BitVec 4) (i : Instr) (pa old expect new : Nat) (a : Access),
    i = .acas t xd xa xb xc ord sc → s.issuing = true → passes t s = true → noneFar s = true →
    (2 ≤ ord.toNat → pathsClear (enter i s) (some sc.toNat) 0x61) → pairOk xd = true → pairOk xb = true → pairOk xc = true →
    expect = (s.x xb.toNat).toNat + 2 ^ 64 * (s.x (xb.toNat + 1)).toNat → new = (s.x xc.toNat).toNat + 2 ^ 64 * (s.x (xc.toNat + 1)).toNat →
    ((s.x xa.toNat).toNat % 16 ≠ 0 → unfrozen i s = true → trapsAt i s 0x1D (s.x xa.toNat)) ∧
    ((s.x xa.toNat).toNat % 16 = 0 → through (strandAccess (s.x xa.toNat).toNat 16 .rw false) (enter i s) = some (a, enter i s) →
      localSpace s a.space = true → a.pieces = [(pa, 16)] → a.poison s = none → old = leNat (s.readPhys pa 16) →
      exec i s = .next (settleIssue (marked
        (let s1 := if old = expect then sent (enter i s) 0 (.bytes pa (leBytes 16 new)) else enter i s
         let s2 := if xd.toNat = 0 then s1 else sent s1 6 (.x s.strand.bank xd.toNat (BitVec.ofNat 64 old))
         sent s2 6 (.x s.strand.bank (xd.toNat + 1) (BitVec.ofNat 64 (old / 2 ^ 64))))) [])))

/-! ### The V and W slots -/

/-- R95, R98, R431, R432, R434: the lane-by-lane instructions of two vectors issue where their operands can be read, in order, and their
result can be sent, and send in every lane what the rules give, with the flags of all lanes together. -/
def Obligations.LaneResults : Prop :=
  ∀ (s s2 s3 s4 : State) (t : Tag) (vd va vb : VReg) (pa pb : Port) (et : ElemType) (sx : BitVec 1) (r : Round) (a b v fl lat : Nat) (i : Instr)
    (f : Nat → Nat → Nat × Nat), (i, lat, f) ∈ laneOps t vd va pa vb pb et sx r → wellFormed i = true →
    s.issuing = true → passes t s = true → portsAgree i s = true → readsTwo i va vb s a b s2 → through (etRound et) s2 = some (r, s3) →
    vectorOf (ElemType.bytes et) (fun k => f (elemOf (ElemType.bytes et) k a) (elemOf (ElemType.bytes et) k b)) v fl →
    sendsVector lat vd v fl s3 s4 → exec i s = .next (settleIssue s4 [])

/-- R432, R434, R438: the lane-by-lane instructions of one vector, and the bitwise ones of one or two, issue where their operands can be
read and their result can be sent, and send what the rules give. -/
def Obligations.LaneResultsOfOneAndBits : Prop :=
  (∀ (s s1 s2 s3 : State) (t : Tag) (vd va : VReg) (pa : Port) (et : ElemType) (r : Round) (a v fl lat : Nat) (i : Instr)
    (f : Nat → Nat × Nat), (i, lat, f) ∈ laneOps1 t vd va pa et r → wellFormed i = true →
    s.issuing = true → passes t s = true → portsAgree i s = true → through (getV va) (enter i s) = some (a, s1) →
    through (etRound et) s1 = some (r, s2) → vectorOf (ElemType.bytes et) (fun k => f (elemOf (ElemType.bytes et) k a)) v fl →
    sendsVector lat vd v fl s2 s3 → exec i s = .next (settleIssue s3 [])) ∧
  (∀ (s s2 s3 : State) (t : Tag) (vd va vb : VReg) (pa pb : Port) (et : ElemType) (a b v : Vec) (i : Instr),
    (i, v) ∈ bitOps t vd va pa vb pb et a b → s.issuing = true → passes t s = true → portsAgree i s = true →
    readsTwo i va vb s a.toNat b.toNat s2 → through (putV 2 vd v.toNat) s2 = some ((), s3) →
    exec i s = .next (settleIssue s3 [])) ∧
  (∀ (s s1 s2 : State) (t : Tag) (vd va : VReg) (pa : Port) (et : ElemType) (a : Vec), s.issuing = true → passes t s = true →
    portsAgree (.vnot t vd va pa et) s = true → through (getV va) (enter (.vnot t vd va pa et) s) = some (a.toNat, s1) →
    through (putV 2 vd (~~~a).toNat) s1 = some ((), s2) → exec (.vnot t vd va pa et) s = .next (settleIssue s2 []))

/-- R216, R435, R436, R439, R440, R443, R444, R446: VFMA, VSEL, VCMP, VPERM, VMASK and VINS lane by lane, and VBCST: a comparison gives all ones or zero;
VSEL takes a lane of its first source where the old lane of its destination is not zero; VPERM takes the lane that an index names, or
zero past the last; VMASK puts minus infinity where its mask bit is 0; VINS replaces one lane. -/
def Obligations.LaneSelections : Prop :=
  (∀ (s s2 s3 s4 s5 : State) (t : Tag) (vd : VShort) (va vb : VReg) (pd pa pb : Port) (et : ElemType) (r : Round) (a b c v fl : Nat) (i : Instr),
    i = .vfma t vd pd va pa vb pb et → s.issuing = true → passes t s = true → portsAgree i s = true → readsTwo i va vb s a b s2 →
    through (getV (shortV vd)) s2 = some (c, s3) → through (etRound et) s3 = some (r, s4) →
    vectorOf (ElemType.bytes et) (fun k => fFma (etFmt et) r (elemOf (ElemType.bytes et) k a) (elemOf (ElemType.bytes et) k b)
      (elemOf (ElemType.bytes et) k c)) v fl →
    sendsVector 4 (shortV vd) v fl s4 s5 → exec i s = .next (settleIssue s5 [])) ∧
  (∀ (s s2 s3 s4 : State) (t : Tag) (vd : VShort) (va vb : VReg) (pd pa pb : Port) (et : ElemType) (a b c v : Nat) (i : Instr),
    i = .vsel t vd pd va pa vb pb et → s.issuing = true → passes t s = true → portsAgree i s = true → readsTwo i va vb s a b s2 →
    through (getV (shortV vd)) s2 = some (c, s3) →
    vectorOf (ElemType.bytes et) (fun k => (if elemOf (ElemType.bytes et) k c ≠ 0 then elemOf (ElemType.bytes et) k a
      else elemOf (ElemType.bytes et) k b, 0)) v 0 →
    through (putV 2 (shortV vd) v) s3 = some ((), s4) → exec i s = .next (settleIssue s4 [])) ∧
  (∀ (s s2 s3 : State) (t : Tag) (vd : VShort) (va vb : VReg) (pa pb : Port) (fmt : Fmt) (cc : BitVec 3) (a b v : Nat) (i : Instr),
    i = .vcmp t vd va pa vb pb fmt cc → wellFormed i = true → s.issuing = true → passes t s = true → portsAgree i s = true →
    readsTwo i va vb s a b s2 →
    vectorOf (fmtBytes fmt.toNat) (fun k =>
      let x := elemOf (fmtBytes fmt.toNat) k a
      let y := elemOf (fmtBytes fmt.toNat) k b
      (if (if fmt.toNat < 8 then compares cc.toNat fmt.toNat (BitVec.ofNat 64 x) (BitVec.ofNat 64 y)
          else floatCompare fmt.toNat cc.toNat x y) then 2 ^ (8 * fmtBytes fmt.toNat) - 1 else 0, 0)) v 0 →
    through (putV 2 (shortV vd) v) s2 = some ((), s3) → exec i s = .next (settleIssue s3 [])) ∧
  (∀ (s s2 s3 : State) (t : Tag) (vd va vb : VReg) (pa pb : Port) (et : ElemType) (a b v : Nat) (i : Instr),
    i = .vperm t vd va pa vb pb et → s.issuing = true → passes t s = true → portsAgree i s = true → readsTwo i va vb s a b s2 →
    vectorOf (ElemType.bytes et) (fun k =>
      let j := elemOf (ElemType.bytes et) k b
      (if j < 128 / ElemType.bytes et then elemOf (ElemType.bytes et) j a else 0, 0)) v 0 →
    through (putV 3 vd v) s2 = some ((), s3) → exec i s = .next (settleIssue s3 [])) ∧
  (∀ (s s2 s3 : State) (t : Tag) (vd va vb : VReg) (pa pb : Port) (et : ElemType) (a b v : Nat) (i : Instr),
    i = .vmask t vd va pa vb pb et → wellFormed i = true → s.issuing = true → passes t s = true → portsAgree i s = true →
    readsTwo i va vb s a b s2 →
    vectorOf (ElemType.bytes et) (fun k => (if b.testBit k then elemOf (ElemType.bytes et) k a else minusInfinity (etFmt et), 0)) v 0 →
    through (putV 2 vd v) s2 = some ((), s3) → exec i s = .next (settleIssue s3 [])) ∧
  (∀ (s s1 s2 s3 : State) (t : Tag) (vd : VReg) (pd : Port) (xa : XReg) (ew : BitVec 2) (idx : BitVec 7) (d v : Nat) (x : Word) (i : Instr),
    i = .vins t vd pd xa ew idx → s.issuing = true → passes t s = true → portsAgree i s = true →
    through (getV vd) (enter i s) = some (d, s1) → through (getX xa) s1 = some (x, s2) →
    vectorOf (2 ^ ew.toNat) (fun k => (if k = idx.toNat then x.toNat else elemOf (2 ^ ew.toNat) k d, 0)) v 0 →
    through (putV 2 vd v) s2 = some ((), s3) → exec i s = .next (settleIssue s3 [])) ∧
  (∀ (s s1 s2 : State) (t : Tag) (vd : VReg) (xa : XReg) (et : ElemType) (x : Word) (v : Nat) (i : Instr),
    i = .vbcst t vd xa et → s.issuing = true → passes t s = true → through (getX xa) (enter i s) = some (x, s1) →
    vectorOf (ElemType.bytes et) (fun _ => (x.toNat, 0)) v 0 →
    through (putV 2 vd v) s1 = some ((), s2) → exec i s = .next (settleIssue s2 []))

/-- R105, R183, R433, R437, R439, R445, R447: VCVT sends its elements converted one by one and placed by PART; VSPRS the kept codes and
the group codes; VEXT a lane extended by the signedness of its format; VRED the root of the tree of its elements; VAMAX the largest magnitude and
VARGMX the lowest index of the largest element, NaNs passed over. A conversion between integers wraps, or clamps under SAT; a NaN becomes the
canonical one, or 0 with NV in an integer, and an infinity the end of the integer range with NV; an 8-bit float widens exactly. -/
def Obligations.ConversionsAndReductions : Prop :=
  (∀ (s s1 s2 s3 : State) (t : Tag) (vd va : VReg) (pa : Port) (fd fs : Fmt) (rm : BitVec 3) (sat : BitVec 1) (part : BitVec 2) (r : Round)
    (a v fl : Nat) (i : Instr), i = .vcvt t vd va pa fd fs rm sat part → wellFormed i = true → s.issuing = true → passes t s = true →
    portsAgree i s = true → through (getV va) (enter i s) = some (a, s1) → through (getRound rm) s1 = some (r, s2) →
    vectorOf (fmtBytes fd.toNat) (convPlaced fd.toNat fs.toNat r (sat == 1) part.toNat a) v fl →
    sendsVector 3 vd v fl s2 s3 → exec i s = .next (settleIssue s3 [])) ∧
  (∀ (d f x : Nat) (r : Round) (sat : Bool),
    (d < 8 → f < 8 → x < 2 ^ (8 * fmtBytes f) → convert d f r sat x = (laneOf d (fmtBytes d) sat (laneInt f (fmtBytes f) x), 0)) ∧
    (d ≤ 13 → 8 ≤ f → f ≤ 12 → x < 2 ^ floatBits f → (floatValue f x).isNaN = true →
      convert d f r sat x = if d < 8 then (0, 16) else if d = 13 then (1, 0) else (canonNaN d, 0)) ∧
    (∀ neg, 8 ≤ f → f ≤ 12 → x < 2 ^ floatBits f → d < 8 → floatValue f x = .inf neg →
      convert d f r sat x = (laneOf d (fmtBytes d) true (if neg then -2 ^ 64 else 2 ^ 64), 16)) ∧
    (∀ neg m e r' sat', (f = 11 ∨ f = 12) → 8 ≤ d → d ≤ 10 → x < 256 → floatValue f x = .fin neg m e →
      (convert d f r sat x).2 = 0 ∧ convert f d r' sat' (convert d f r sat x).1 = (x, 0))) ∧
  (∀ (s s1 s2 : State) (t : Tag) (vd va : VReg) (pa : Port) (fmt : Fmt) (a v : Nat) (i : Instr),
    i = .vsprs t vd va pa fmt → wellFormed i = true → s.issuing = true → passes t s = true → portsAgree i s = true →
    through (getV va) (enter i s) = some (a, s1) → compressed fmt.toNat a v → through (putV 6 vd v) s1 = some ((), s2) →
    exec i s = .next (settleIssue s2 [])) ∧
  (∀ (s s1 s2 : State) (t : Tag) (xd : XReg) (va : VReg) (pa : Port) (et : ElemType) (idx : BitVec 7) (a : Nat) (i : Instr),
    i = .vext t xd va pa et idx → wellFormed i = true → s.issuing = true → passes t s = true → portsAgree i s = true →
    through (getV va) (enter i s) = some (a, s1) →
    through (putX 2 xd (BitVec.ofInt 64 (laneInt (etFmt et) (ElemType.bytes et) (elemOf (ElemType.bytes et) idx.toNat a)))) s1 = some ((), s2) →
    exec i s = .next (settleIssue s2 [])) ∧
  (∀ (s s1 s2 s3 s4 : State) (t : Tag) (xd : XReg) (va : VReg) (pa : Port) (et : ElemType) (op : BitVec 3) (r : Round) (a w v fl : Nat)
    (i : Instr), i = .vred t xd va pa et op → wellFormed i = true → s.issuing = true → passes t s = true → portsAgree i s = true →
    through (getV va) (enter i s) = some (a, s1) → through (etRound et) s1 = some (r, s2) → w = ElemType.bytes et →
    tree (vredNode (etFmt et) op.toNat r) (Nat.log2 (128 / w)) (fun k => (widened (etFmt et) w (elemOf w k a), 0)) = (v, fl) →
    through (putX 6 xd (BitVec.ofNat 64 v)) s2 = some ((), s3) → through (emitFlags 6 fl) s3 = some ((), s4) →
    exec i s = .next (settleIssue s4 [])) ∧
  (∀ (s s1 s2 : State) (t : Tag) (xd : XReg) (va : VReg) (pa : Port) (et : ElemType) (a : Nat) (i : Instr) (lat v : Nat),
    (i = .vamax t xd va pa et ∧ lat = 5 ∧ isLargest (etFmt et) (ElemType.bytes et) a v ∨
      i = .vargmx t xd va pa et ∧ lat = 6 ∧ isArgmax (etFmt et) (ElemType.bytes et) a v) → wellFormed i = true →
    s.issuing = true → passes t s = true → portsAgree i s = true → through (getV va) (enter i s) = some (a, s1) →
    through (putX lat xd (BitVec.ofNat 64 v)) s1 = some ((), s2) → exec i s = .next (settleIssue s2 []))

namespace Sys2Proof.Claims

/-- No acquire of the strand at issue still waits for its data (R225). -/
def noAcquire (s : State) : Bool := s.strand.far.all fun f => !f.acquire

/-- The state with one more number of the model used. -/
def numbered (s : State) : State := { s with fresh := s.fresh + 1 }

/-- A copy tag of the strand at issue, and the fields that DSTAT shows of one (R157, R374). -/
def tagOf (s : State) (tag : BitVec 4) : TagWord := s.strand.tags.getD tag.toNat ⟨0, 0, false, 0⟩
def showsTag (w : TagWord) (r : Word) : Prop :=
  r.extractLsb' 0 40 = BitVec.ofNat 40 w.prog ∧ r.getLsbD 40 = w.err ∧ r.extractLsb' 41 7 = 0 ∧
    r.extractLsb' 48 8 = BitVec.ofNat 8 w.out ∧ r.extractLsb' 56 8 = BitVec.ofNat 8 w.cause

/-- A vector register of the partition without a poisoned word (R75, R140). -/
def readable (s : State) (v : VReg) : Bool :=
  v.toNat < 496 && vectorFits s v.toNat && (s.poisoned (vectorAddr s v.toNat) 128).isNone

/-- An interleaved record's BASE lies in a mapped bank that the strand may reach (R155). -/
def bankedBase (s : State) (r : Nat) (need : Need) : Bool :=
  tlBmask r == 0 || (tlbFind s s.coreNo s.strand.ident.asid (tlBase r)).any fun m =>
    permitted need s.priv m.perms && (bankAt s (m.phys (tlBase r))).isSome

/-- Two records that meet the conditions of a copy (R152-R155). -/
def copyOk (s : State) (src dst : Nat) : Bool :=
  (tlReserved src).isNone && (tlReserved dst).isNone && tlOwnOk src && tlOwnOk dst && tlAgree src dst && bankedBase s src .r && bankedBase s dst .w

/-- Whether the strand at issue is a task (R44). -/
def isTask (s : State) : Bool :=
  match s.strand.ident.work with
  | .task _ => true
  | _ => false

/-- The retrieval requests of the core at issue, oldest first, and the state with one more (R213). -/
def requests (s : State) : List ProbeReq := (s.core s.coreNo).probes
def withRequest (s : State) (q : ProbeReq) : State := s.setCore s.coreNo { s.core s.coreNo with probes := requests s ++ [q] }

/-- A retrieval request in the queue of the core at issue, under a new number, its strand's visible side effect marked. -/
def queued (s : State) (q : ProbeReq) : State := withRequest (numbered (marked s)) q

/-- A request just queued, under a number: of a kind, for a table, with an argument, by the privilege and the families of its issue, which
are 512 bits each (R134, R193, R213). -/
def newlyQueued (s : State) (id : Nat) (q : ProbeReq) (kind table arg : Nat) : Prop :=
  q.id = id ∧ q.kind = kind ∧ q.table = table ∧ q.arg = arg ∧ q.priv = s.priv ∧
    ((∀ x ∈ s.strand.hfam.toList, x < 2 ^ 512) → q.fams = s.strand.hfam.toList) ∧ q.started = false ∧ q.progress = 0 ∧ q.claim = none ∧
    q.plan = none ∧ q.found = [] ∧ q.failed = false ∧ q.union = none

/-- The state in which the bundle at issue has asked for the data at an address, and they have still to come (R206, R404). -/
def asksFor (s : State) (va : Nat) : State := withStrand s fun st => { st with asked := st.asked ++ [(va, false)] }

/-- What the bundle at issue has asked of an address: whether its data have come, if it has asked at all. -/
def askedOf (s : State) (va : Nat) : Option (Nat × Bool) := s.strand.asked.find? fun q => q.1 == va

/-- The view registers of the strand at issue, and the bytes of its partition (R74, R77). -/
def tileOf (s : State) (n : TileNo) : Word := s.strand.sys.tviews.getD n.toNat 0
def accOf (s : State) (n : AccNo) : Word := s.strand.sys.aviews.getD n.toNat 0
def partBytes (s : State) : Nat := bits (s.ctx s.focus).part.toNat 23 16 * 4096

/-- An array instruction in the queue of the strand at issue (R188). -/
def withArrOp (s : State) (o : ArrOp) : State := withStrand s fun st => { st with arr := { st.arr with ops := st.arr.ops ++ [o] } }

/-- The array instructions with what each does and whether its issue checks pass (R332, R336, R340, R341, R347-R351). -/
def arrayIssues (s : State) (t : Tag) (tv td mv an bn : TileNo) (pt pan pbn : Port) (xa xb : XReg) (av : AccNo) (asp bsp sat : BitVec 1)
    (sk : BitVec 2) (mm1 : BitVec 12) : List (Instr × ArrKind × Bool) :=
  let size := partBytes s
  let v := tileOf s tv
  let a := if asp == 1 then 0 else tileOf s an
  let b := if bsp == 1 then 0 else tileOf s bn
  let m := mm1.toNat + 1
  let acc := accOf s av
  let dst := tileOf s td
  let img := s.strand.arr.progs.getD s.strand.arr.sel 0
  let hasAcc := progValid img && (parseProg img).acc.isSome
  [(.aldbLocal t tv pt, .loadLocal v,
      viewOk v size && laneTerms (vwFmt v) != 0 && vwRows v ≤ 128 * laneTerms (vwFmt v) && vwCols v ≤ 128),
   (.aldbCluster t xa xb, .loadCluster (s.x xa.toNat) (s.x xb.toNat),
      xa.toNat < 56 && xb.toNat < 56 && noneFar s && castShapeOk s.coreNo (s.x xb.toNat).toNat && (s.x xa.toNat).toNat % 16 == 0),
   (.arun t av asp an pan bsp bn pbn mm1, .run acc (sourceSpool asp an) a (sourceSpool bsp bn) b m none,
      (if s.strand.arr.statC then av == 0 else bsp == 0 && bn == 0 && pbn == 0)
        && (firstOf (issueChecks s s.strand size acc (sourceSpool asp an) a (sourceSpool bsp bn) b m none)).isNone),
   (.aruns t av asp an pan mv pbn mm1, .run acc (sourceSpool asp an) a none 0 m (some (tileOf s mv)),
      (firstOf (issueChecks s s.strand size acc (sourceSpool asp an) a none 0 m (some (tileOf s mv)))).isNone),
   (.aclrView t av, .clearView acc, viewOk acc size && hasAcc && (parseProg img).acc.all (fun q => q.2 == vwFmt acc)),
   (.aclrArray t, .clearArray, hasAcc),
   (.adrn t td sk av pan sat, .drain dst sk.toNat (if sk == 0 then acc else 0) (sat == 1),
      viewOk dst size && vwFmt dst ≤ 12
        && (if sk == 0 then viewOk acc size && vwRows dst ≤ vwRows acc && vwCols dst ≤ vwCols acc && [8, 2, 1, 6].contains (vwFmt acc)
          else vwRows dst ≤ 128 && vwCols dst ≤ 128 && (sk != 1 || hasAcc)))]

/-- The TLBI forms, each with the entries that it names, by address space, page size and page number (R423, R424). -/
def tlbis (s : State) (t : Tag) (xa xb : XReg) : List (Instr × (Nat → Nat → Nat → Bool)) :=
  let a := (s.x xa.toNat).toNat % 2 ^ 57
  let b := (s.x xb.toNat).toNat % 2 ^ 12
  [(.tlbiAll t, fun _ _ _ => true), (.tlbiAs t xb, fun asid _ _ => asid == b),
   (.tlbiPage t xa xb, fun asid bits page => asid == b && page == a / 2 ^ bits)]

/-- What a multicast reads as cell row i (R178, R340-R342): in lane j the elements of column j of e rows of the stationary, those of an i16
one extended, absent ones 0; and the first poisoned word among those rows. -/
def castRow (s : State) (c : Cast) (i : Nat) (row : Nat × Option Nat) : Prop :=
  let e := laneTerms c.fmt
  let w := fmtBytes c.fmt
  let kr := (c.shape.extractLsb' 7 10).toNat + 1
  let nc := (c.shape.extractLsb' 0 7).toNat + 1
  let start (r : Nat) : Nat := c.src + r * ((c.shape.extractLsb' 40 12).toNat * 16)
  row.1 < 2 ^ (32 * nc) ∧
    (∀ j u, j < nc → u < e → c.fmt ≠ 1 →
      elemOf w u (elemOf 4 j row.1) = if e * i + u < kr then s.readNat (start (e * i + u) + j * w) w else 0) ∧
    (∀ j, j < nc → c.fmt = 1 → elemOf 4 j row.1 = ((BitVec.ofNat 16 (s.readNat (start i + j * 2) 2)).signExtend 32).toNat) ∧
    (row.2 = none → ∀ u, u < e → e * i + u < kr → s.poisoned (start (e * i + u)) (nc * w) = none) ∧
    ∀ a, row.2 = some a → ∃ u, u < e ∧ e * i + u < kr ∧ s.poisoned (start (e * i + u)) (nc * w) = some a

/-- An X or T slot instruction (R319, R320). -/
def inXorT (i : Instr) : Bool :=
  match i with
  | .cprog .. | .csel .. | .aflow .. | .aldbLocal .. | .arun .. | .aruns .. | .ascl .. | .aclrView .. | .aclrArray .. | .adrn ..
  | .txin .. | .txout .. | .txclr .. => true
  | _ => false

end Sys2Proof.Claims

/-! ### The M slot: spools, copies, futures, tasks, launches, retrieval, merges, collectives -/

/-- R143, R144, R415-R417: SCFG of a legal descriptor goes out to its spool, which it configures empty; of any other it takes
SPOOL_CONFIG. SREL of a spool that serves no other as index releases it. -/
def Obligations.SpoolSetup : Prop :=
  (∀ (s s1 : State) (t : Tag) (va : VReg) (pa : Port) (sd : SpoolNo) (v d : Nat) (legal : Bool)
    (i : Instr), i = .scfg t va pa sd → s.issuing = true → passes t s = true → portsAgree i s = true → noAcquire s = true →
    through (getV va) (enter i s) = some (v, s1) → d = v % 2 ^ 512 →
    legal = (spoolDescOk d && bankAgrees s1 s1.focus d && bit s1.strand.ident.spoolMask sd.toNat && !isBound s1.strand sd.toNat
      && (!spIsIndirect d || indexOk s1.strand sd.toNat (spIdx d))) →
    (legal = true → exec i s =
      .next (settleIssue (sent s1 0 (.spoolConfig sd.toNat d (bankFormats s1) s1.priv s1.strand.entropy)) [])) ∧
    (legal = false → trapsWith i s 0x0E)) ∧
  (∀ (s : State) (key n d : Nat) (banks : Tab Word) (priv : Bool) (fent : Nat) (st : Strand) (f : Flight), s.strandAt key = some st →
    n < 16 → st.spools.getD n none = none → f.eff = .spoolConfig n d banks priv fent →
    ∃ u w sp, applyEffect s key f = .done u ∧ u.strandAt key = some w ∧ w.spools.getD n none = some sp ∧ sp.desc = d ∧ sp.buf = [] ∧
      sp.moved = 0 ∧ sp.count = 0 ∧ sp.ended = false ∧ sp.banks = banks ∧ sp.priv = priv ∧ sp.fent = fent ∧ w.xs = st.xs ∧
      u.mem = s.mem) ∧
  (∀ (s : State) (t : Tag) (sd : SpoolNo) (i : Instr), i = .srel t sd → s.issuing = true → passes t s = true →
    (isBound s.strand sd.toNat = false → exec i s = .next (settleIssue (sent (enter i s) 0 (.spoolRelease sd.toNat)) [])) ∧
    (isBound s.strand sd.toNat = true → trapsWith i s 0x0E)) ∧
  (∀ (s : State) (key n : Nat) (st : Strand) (sp : Spool) (f : Flight), s.strandAt key = some st → st.spools.getD n none = some sp →
    spIsStore sp.desc = false → spIsIndirect sp.desc = false → f.eff = .spoolRelease n →
    applyEffect s key f = .done (s.setStrandAt key { st with spools := st.spools.setIfInBounds n none }))

/-- R152-R157, R368, R369, R374, R471: a full tag or queue freezes the core before anything of a DCP is checked. DCP of two legal
records enters the copy, with what it captures, and its tag counts it; a reserved bit takes LAYOUT_RESERVED and records that do not fit
LAYOUT_RANGE, the second record's at 1024. DSTAT gives the tag's status word and clears its pending bit where no copy of it is
outstanding. On a calm strand, with records in vector registers of the partition, DCP issues so in one bundle-time, and so does DSTAT. -/
def Obligations.CopyIssue : Prop :=
  (∀ (s s2 s3 : State) (t : Tag) (tag : BitVec 4) (vs vd : VReg) (ps pd : Port) (a b src dst : Nat) (w : TagWord) (i : Instr),
    i = .dcp t tag vs ps vd pd → s.issuing = true → passes t s = true → portsAgree i s = true → noAcquire s = true →
    ((tagOf s tag).out = 255 ∨ 64 ≤ copyQueue s (clusterOf s.coreNo) → freezes i s .copyQueue) ∧
    ((tagOf s tag).out ≠ 255 → copyQueue s (clusterOf s.coreNo) < 64 →
    readsTwo i vs vd s a b s2 → src = a % 2 ^ 768 → dst = b % 2 ^ 768 → w = tagOf s2 tag →
    s3 = withStrand (numbered (marked s2)) (fun st =>
      { st with tags := st.tags.setIfInBounds tag.toNat (if w.out = 0 then ⟨0, 1, false, 0⟩ else { w with out := w.out + 1 }) }) →
    (∀ k, tlReserved src = some k → trapsAt i s 0x11 (BitVec.ofNat 64 k)) ∧
    (∀ k, tlReserved src = none → tlReserved dst = some k → trapsAt i s 0x11 (BitVec.ofNat 64 (1024 + k))) ∧
    (tlReserved src = none → tlReserved dst = none →
      (tlOwnOk src = false → unfrozen i s = true → trapsAt i s 0x12 0) ∧
      (tlOwnOk src = true → through (tlBaseOk src .r) s2 = some (true, s2) →
        (tlOwnOk dst = false → trapsAt i s 0x12 1024) ∧
        (tlOwnOk dst = true → through (tlBaseOk dst .w) s2 = some (true, s2) →
          (tlAgree src dst = false → trapsAt i s 0x12 1024) ∧
          (tlAgree src dst = true → exec i s = .next (settleIssue (enterCopy s3
              { id := s2.fresh, cluster := clusterOf s2.coreNo, ctx := s2.focus, uid := s2.strand.ident.uid, tag := tag.toNat, src := src
                dst := dst, asid := s2.strand.ident.asid, priv := s2.priv, fent := s2.strand.entropy, banks := bankFormats s2
                engine := none, next := 0, seq := s2.issue.seq * 8 + s2.issue.slot }) []))))))) ∧
  (∀ (s s1 : State) (t : Tag) (xd : XReg) (tag : BitVec 4) (r : Word) (i : Instr), i = .dstat t xd tag → s.issuing = true →
    passes t s = true → showsTag (tagOf s tag) r → through (putX 1 xd r) (enter i s) = some ((), s1) →
    exec i s = .next (settleIssue (if (tagOf s tag).out = 0 then withStrand s1 fun st =>
      { st with sys := { st.sys with umask := st.sys.umask &&& ~~~(BitVec.ofNat 64 (2 ^ (32 + tag.toNat))) } } else s1) [])) ∧
  (∀ (s : State) (t : Tag) (xd : XReg) (tag : BitVec 4) (r : Word), calm s = true → passes t s = true → xd.toNat < 56 →
    showsTag (tagOf s tag) r →
    ∃ u, exec (.dstat t xd tag) s = .next u ∧ Kept s u [xd.toNat] [] [0x029] (fun _ => False) ∧
      u.x xd.toNat = (if xd.toNat = 0 then 0 else r) ∧ u.flights = [] ∧ u.strand.pos.pc = s.issue.next ∧
      readSys u 0x029 = (if (tagOf s tag).out = 0 then readSys s 0x029 &&& ~~~(BitVec.ofNat 64 (2 ^ (32 + tag.toNat)))
        else readSys s 0x029)) ∧
  (∀ (s : State) (t : Tag) (tag : BitVec 4) (vs vd : VReg) (ps pd : Port) (src dst : Nat), calm s = true → passes t s = true →
    portsAgree (.dcp t tag vs ps vd pd) s = true → readable s vs = true → readable s vd = true →
    src = s.readNat (vectorAddr s vs.toNat) 128 % 2 ^ 768 → dst = s.readNat (vectorAddr s vd.toNat) 128 % 2 ^ 768 →
    copyOk s src dst = true → (tagOf s tag).out ≠ 255 → copyQueue s (clusterOf s.coreNo) < 64 →
    ∃ u c, exec (.dcp t tag vs ps vd pd) s = .next u ∧ c ∈ u.copies ∧ c.id = s.fresh ∧ c.tag = tag.toNat ∧ c.src = src ∧ c.dst = dst ∧
      c.next = 0 ∧ c.uid = s.strand.ident.uid ∧ (u.copies.map fun x => x.id) = (s.copies.map fun x => x.id) ++ [s.fresh] ∧
      (tagOf u tag).out = (tagOf s tag).out + 1 ∧ u.mem = s.mem ∧ (∀ n, u.x n = s.x n) ∧ u.flights = [] ∧
      u.strand.pos.pc = s.issue.next)

/-- R44-R46, R259, R376, R377: FRD of a full cell sends its value; of an empty one, a task with no visible side effect is squashed
and parked while a place is left, a task with one takes FUTURE_LATE, and any other strand waits and is counted in the cell, once; FWR
fills an empty cell and wakes every waiter with the value, and takes FUTURE_REWRITE on a full one; FCLR empties a cell. -/
def Obligations.Futures : Prop :=
  (∀ (s : State) (t : Tag) (xd xa : XReg) (pa c : Nat) (i : Instr), i = .frd t xd xa → s.issuing = true → passes t s = true →
    noneFar s = true → xa.toNat < 56 →
    (s.strand.waits.arg = (s.x xa.toNat).toNat → s.strand.waits.kind ≠ 2 ∧ s.strand.waits.kind ≠ 3) →
    through (futureCell (s.x xa.toNat).toNat) (enter i s) = some ((pa, c), enter i s) →
    (bit c 64 = true → exec i s = .next (settleIssue (if xd.toNat = 0 then enter i s
      else sent (enter i s) 1 (.x s.strand.bank xd.toNat (BitVec.ofNat 64 c))) [])) ∧
    (bit c 64 = false → isTask s = true → s.strand.sideEffect = true → trapsWith i s 0x19) ∧
    (bit c 64 = false → isTask s = true → s.strand.sideEffect = false → parkedCount s < 65536 →
      exec i s = .next (freezeAt (squash (beginIssue s) s.focus pa) s.focus .squashed)) ∧
    (bit c 64 = false → isTask s = false ∨ s.strand.sideEffect = false ∧ 65536 ≤ parkedCount s → exec i s = .next (freezeAt
      (awaitFuture (beginIssue s) s.focus (s.x xa.toNat).toNat pa) s.focus .future))) ∧
  (∀ (s : State) (t : Tag) (xd xa : XReg) (i : Instr), i = .frd t xd xa → s.issuing = true → passes t s = true → noneFar s = true →
    xa.toNat < 56 → s.strand.waits.arg = (s.x xa.toNat).toNat →
    (s.strand.waits.kind = 3 → exec i s = .next (settleIssue
      (let s1 := withStrand (enter i s) fun st => { st with waits := { st.waits with kind := 0, arg := 0, value := 0 } }
       if xd.toNat = 0 then s1 else sent s1 1 (.x s.strand.bank xd.toNat s.strand.waits.value)) [])) ∧
    (s.strand.waits.kind = 2 → freezes i s .future)) ∧
  (∀ (s : State) (t : Tag) (xa xb : XReg) (pa c : Nat) (i : Instr), i = .fwr t xa xb → s.issuing = true → passes t s = true →
    noneFar s = true → xa.toNat < 56 → xb.toNat < 56 → pathsClear (enter i s) (some 5) 0x61 →
    through (futureCell (s.x xa.toNat).toNat) (enter i s) = some ((pa, c), enter i s) →
    (bit c 64 = true → trapsWith i s 0x18) ∧
    (bit c 64 = false → exec i s = .next (settleIssue (releaseWaiters
      ((marked (enter i s)).writePhys pa (leBytes 16 ((s.x xb.toNat).toNat + 2 ^ 64))) pa (s.x xb.toNat)) []))) ∧
  (∀ (s : State) (t : Tag) (xa : XReg) (pa c : Nat) (i : Instr), i = .fclr t xa → s.issuing = true → passes t s = true →
    noneFar s = true → xa.toNat < 56 → through (futureCell (s.x xa.toNat).toNat) (enter i s) = some ((pa, c), enter i s) →
    exec i s = .next (settleIssue (if bit c 64 then
      (marked (enter i s)).writePhys pa (leBytes 16 (c / 2 ^ 96 % 2 ^ 32 * 2 ^ 96 + c % 2 ^ 64)) else marked (enter i s)) [])) ∧
  (∀ (s : State) (pa : Nat) (v : Word) (w : Waiter) (k : Nat) (st : Strand), w ∈ s.waiters → w.cell = pa → s.strandAt k = some st →
    st.ident.uid = w.uid → w.depth = st.pos.susp.length → ∃ u, (releaseWaiters s pa v).strandAt k = some u ∧ u.waits.kind = 3 ∧ u.waits.value = v ∧ u.xs = st.xs)

/-- R44, R45, R257, R258, R419, R420: SPAWN sends a packet with half its strand's weight towards the core that owns the address, keeps
the other half, and takes SPAWN_WEIGHT with weight 1; with 256 packets there it freezes the core, before any fault (R471). R238, R395, R396: LNCH writes its
record at the tail of a queue that devices may fill and moves the tail; it takes PROTECTION at any other queue, and freezes while
the queue is full. On a calm strand both issue so in one bundle-time, with their operands in registers. -/
def Obligations.SpawnAndLaunch : Prop :=
  (∀ (s : State) (t : Tag) (xe xa xb xc : XReg) (w core : Nat) (m : PageMap) (i : Instr), i = .spawn t xe xa xb xc → s.issuing = true →
    passes t s = true → s.strand.trapFrame = none → noneFar s = true → xe.toNat < 56 → xa.toNat < 56 → xb.toNat < 56 → xc.toNat < 56 →
    w = (if isTask s = false ∧ s.strand.ident.weight = 0 then 2 ^ 63 else s.strand.ident.weight) →
    pathsClear (enter i s) none 0x61 →
    (w = 1 → unfrozen i s = true → trapsWith i s 0x1A) ∧
    (w ≠ 1 → (s.x xa.toNat).toNat < 2 ^ 57 → through (strandMap (s.x xa.toNat).toNat) (enter i s) = some (some m, enter i s) →
      (s.priv = true ∨ bit m.perms 3 = true) → ownerCore s (m.phys (s.x xa.toNat).toNat) = some core →
      (256 ≤ inboxLoad s core → freezes i s .inbox) ∧
      (inboxLoad s core < 256 → ∃ u p, exec i s = .next (settleIssue (sent u 1 (.sys 0x032 (BitVec.ofNat 64 (w - w / 2)))) []) ∧
        u.packets = s.packets ++ [p] ∧ p.addr = (s.x xa.toNat).toNat ∧ p.arg0 = s.x xb.toNat ∧ p.arg1 = s.x xc.toNat ∧
        p.entry = (s.x xe.toNat).toNat % 2 ^ 32 ∧ p.weight = w / 2 ∧ p.core = core ∧ p.parkedOn = none ∧ p.arrived = false ∧
        p.ident.uid = 0 ∧ u.strand.ident.weight = w - w / 2 ∧ u.strand.ident.region = some p.region ∧
        (∀ r, s.strand.ident.region = some r → p.region = r) ∧ u.strand.xs = s.strand.xs ∧ u.mem = s.mem))) ∧
  (∀ (s s1 s2 : State) (t : Tag) (xa : XReg) (va : VReg) (p : Port) (q : Word) (r d tail : Nat) (i : Instr), i = .lnch t xa va p →
    s.issuing = true → passes t s = true → portsAgree i s = true → s.strand.trapFrame = none → noAcquire s = true →
    through (getX xa) (enter i s) = some (q, s1) → through (getV va) s1 = some (r, s2) → pathsClear s2 none 0x61 →
    d = queueDesc s2 q.toNat → tail = (s2.queue q.toNat).tail →
    (16384 ≤ q.toNat → trapsWith i s 0x0B) ∧
    (q.toNat < 16384 → (qdDev d && qdEn d && queueDescOk d) = false → unfrozen i s = true → trapsWith i s 0x0B) ∧
    (q.toNat < 16384 → (qdDev d && qdEn d && queueDescOk d) = true →
      (2 ^ qdLog2n d ≤ pendingOf d tail → freezes i s .workQueue) ∧
      (pendingOf d tail < 2 ^ qdLog2n d → ∀ s3,
        engineWrite s2 { agentFor s2.focus s2.strand with asid := qdAsid d } (recordAddr d tail) (leBytes 128 (r % 2 ^ 1024)) = (none, s3) →
        exec i s = .next (settleIssue (marked (moveTail s3 q.toNat ((tail + 1) % 2 ^ 32))) [])))) ∧
  (∀ (s : State) (t : Tag) (xe xa xb xc : XReg) (w core : Nat) (m : PageMap) (i : Instr), i = .spawn t xe xa xb xc → calm s = true →
    passes t s = true → s.strand.trapFrame = none → xe.toNat < 56 → xa.toNat < 56 → xb.toNat < 56 → xc.toNat < 56 →
    w = (if isTask s = false ∧ s.strand.ident.weight = 0 then 2 ^ 63 else s.strand.ident.weight) → w ≠ 1 → w < 2 ^ 64 →
    pathsClear (enter i s) none 0x61 → (s.x xa.toNat).toNat < 2 ^ 57 →
    tlbFind s s.coreNo s.strand.ident.asid (s.x xa.toNat).toNat = some m → (s.priv = true ∨ bit m.perms 3 = true) →
    ownerCore s (m.phys (s.x xa.toNat).toNat) = some core → inboxLoad s core < 256 →
    ∃ u p, exec i s = .next u ∧ u.packets = s.packets ++ [p] ∧ p.addr = (s.x xa.toNat).toNat ∧ p.arg0 = s.x xb.toNat ∧
      p.arg1 = s.x xc.toNat ∧ p.weight = w / 2 ∧ p.core = core ∧ p.arrived = false ∧ u.strand.ident.weight = w - w / 2 ∧
      readSys u 0x032 = BitVec.ofNat 64 (w - w / 2) ∧ (∀ n, u.x n = s.x n) ∧ u.mem = s.mem ∧ u.flights = [] ∧
      u.strand.pos.pc = s.issue.next) ∧
  (∀ (s s3 : State) (t : Tag) (xa : XReg) (va : VReg) (p : Port) (q d tail : Nat) (i : Instr), i = .lnch t xa va p → calm s = true →
    passes t s = true → portsAgree i s = true → s.strand.trapFrame = none → xa.toNat < 56 → readable s va = true →
    pathsClear (enter i s) none 0x61 → q = (s.x xa.toNat).toNat → q < 16384 → d = queueDesc s q →
    (qdDev d && qdEn d && queueDescOk d) = true → tail = (s.queue q).tail → pendingOf d tail < 2 ^ qdLog2n d →
    engineWrite (enter i s) { agentFor s.focus s.strand with asid := qdAsid d } (recordAddr d tail)
      (leBytes 128 (s.readNat (vectorAddr s va.toNat) 128 % 2 ^ 1024)) = (none, s3) → s3.strand = s.strand →
    ∃ u, exec i s = .next u ∧ (u.queue q).tail = (tail + 1) % 2 ^ 32 ∧ u.mem = s3.mem ∧ (∀ n, u.x n = s.x n) ∧ u.flights = [] ∧
      u.strand.pos.pc = s.issue.next)

/-- R193, R194, R205, R206, R213, R381-R386: HFAM sends a legal family descriptor to its register and takes HASH_CONFIG with any
other; HINS, HDEL, HREH, HACC and HPRB enter their request, with what it captures, in the core's queue, freeze the core while it
holds eight, and take ALIGN at a table that is not aligned to 64 bytes; HPRB arms its spool over its output area. -/
def Obligations.RetrievalIssue : Prop :=
  (∀ (s s1 : State) (t : Tag) (va : VReg) (pa : Port) (f : BitVec 4) (v : Nat) (i : Instr), i = .hfam t va pa f → s.issuing = true →
    passes t s = true → portsAgree i s = true → through (getV va) (enter i s) = some (v, s1) →
    (familyOk (v % 2 ^ 512) = true → exec i s = .next (settleIssue (sent s1 2 (.hfam f.toNat (v % 2 ^ 512))) [])) ∧
    (familyOk (v % 2 ^ 512) = false → trapsWith i s 0x16)) ∧
  (∀ (s : State) (t : Tag) (xt xi : XReg) (i : Instr) (kind : Nat),
    (i, kind) ∈ [(Instr.hins t xt xi, 1), (.hdel t xt xi, 2), (.hreh t xt xi, 3)] → s.issuing = true → passes t s = true →
    noneFar s = true → xt.toNat < 56 → xi.toNat < 56 →
    (8 ≤ (requests s).length → freezes i s .probeQueue) ∧
    ((requests s).length < 8 → (s.x xt.toNat).toNat % 64 ≠ 0 → trapsAt i s 0x08 (s.x xt.toNat)) ∧
    ((requests s).length < 8 → (s.x xt.toNat).toNat % 64 = 0 → ∃ q, exec i s = .next (settleIssue (queued (enter i s) q) []) ∧
      newlyQueued s s.fresh q kind (s.x xt.toNat).toNat (s.x xi.toNat).toNat)) ∧
  (∀ (s : State) (t : Tag) (xa xt xo xc : XReg) (va : VReg) (pa pq : Port) (sd : SpoolNo) (qs : BitVec 1) (qn : TileNo) (i : Instr),
    (i = .hacc t xa va pa ∨ i = .hprb t sd xt xo xc qs qn pq) → s.issuing = true → passes t s = true → portsAgree i s = true →
    noAcquire s = true → 8 ≤ (requests s).length → freezes i s .probeQueue) ∧
  (∀ (s s1 : State) (t : Tag) (xa : XReg) (va : VReg) (pa : Port) (v : Nat) (i : Instr), i = .hacc t xa va pa → s.issuing = true →
    passes t s = true → portsAgree i s = true → noneFar s = true → xa.toNat < 56 → (requests s).length < 8 →
    through (getV va) (enter i s) = some (v, s1) →
    ((s.x xa.toNat).toNat % 64 ≠ 0 → trapsAt i s 0x08 (s.x xa.toNat)) ∧
    ((s.x xa.toNat).toNat % 64 = 0 → ∃ q, exec i s = .next (settleIssue (queued s1 q) []) ∧
      newlyQueued s1 s1.fresh q 4 (s.x xa.toNat).toNat 0 ∧ q.qdata = v)) ∧
  (∀ (s s1 : State) (t : Tag) (sd : SpoolNo) (xt xo xc : XReg) (qs : BitVec 1) (qn : TileNo) (pq : Port) (f n d : Nat) (sp : Spool)
    (i : Instr), i = .hprb t sd xt xo xc qs qn pq → s.issuing = true → passes t s = true → portsAgree i s = true → noneFar s = true →
    xt.toNat < 56 → xo.toNat < 56 → xc.toNat < 56 → (requests s).length < 8 → s.strand.spools.getD sd.toNat none = some sp →
    spKind sp.desc = 6 → isBound s.strand sd.toNat = false → jobDelivered sp = true →
    (if qs = 0 then viewOk (tileOf s qn) (partBytes s) = true else (loadSpool s.strand qn.toNat).isSome = true) →
    (s.x xc.toNat).toNat / 2 ^ 48 = 0 → (s.x xc.toNat).toNat / 2 ^ 5 % 2 ^ 27 = 0 → (s.x xc.toNat).toNat / 2 ^ 32 % 2 ^ 16 ≠ 0 →
    (s.x xo.toNat).toNat % 64 = 0 → (s.x xt.toNat).toNat % 64 = 0 →
    through (takeQuery (s.x xt.toNat).toNat qs qn) (enter i s) = some ((f, n, d), s1) → s1.issue.mode = 0 →
    ∃ q, exec i s = .next (settleIssue
        (withRequest (sent (numbered s1) 0 (.spoolArm sd.toNat (s.x xo.toNat).toNat s1.fresh)) q) []) ∧
      newlyQueued s s1.fresh q 0 (s.x xt.toNat).toNat 0 ∧ q.area = (s.x xo.toNat).toNat ∧ q.control = (s.x xc.toNat).toNat ∧
      q.spool = sd.toNat ∧ q.qfmt = f ∧ q.qlen = n ∧ q.qdata = d)

/-- R162, R165, R404: MERGE of a legal descriptor waits in its cluster's queue and arms its spool over the output area; a bad one, or a
spool that is no free MERGE spool, takes SPOOL_CONFIG; it freezes the core until the descriptor that it asks for has come, before any
fault (R471), and a misaligned address takes ALIGN. R290, R366,
R367: CRED of a legal descriptor in the core's own window queues the collective, once the mask that it asks for has come; one that
breaks a condition takes FABRIC_ERROR, and a misaligned address ALIGN. On a calm strand, with what they ask for there, both issue so in one bundle-time. -/
def Obligations.MergeAndCollectiveIssue : Prop :=
  (∀ (s : State) (t : Tag) (xa : XReg) (sd : SpoolNo) (i : Instr), i = .merge t xa sd → s.issuing = true → passes t s = true →
    noneFar s = true → xa.toNat < 56 →
    (mergeSpoolOk s.strand sd.toNat = false → unfrozen i s = true → trapsWith i s 0x0E) ∧
    (mergeSpoolOk s.strand sd.toNat = true → (s.x xa.toNat).toNat % 64 ≠ 0 → ∀ d s1, mergeDescOk d = true →
      through (readWaited (s.x xa.toNat).toNat 64) (enter i s) = some (d, s1) → trapsAt i s 0x08 (s.x xa.toNat)) ∧
    (∀ a, through (strandAccess (s.x xa.toNat).toNat 64 .r false) (enter i s) = some (a, enter i s) →
      (askedOf s (s.x xa.toNat).toNat = none →
        exec i s = .next (freezeAt (asksFor (beginIssue s) (s.x xa.toNat).toNat) s.focus .pending)) ∧
      (∀ x, askedOf s (s.x xa.toNat).toNat = some (x, false) → freezes i s .pending)) ∧
    (mergeSpoolOk s.strand sd.toNat = true → (s.x xa.toNat).toNat % 64 = 0 → ∀ d s1, s1.issue.mode = 0 →
      through (readWaited (s.x xa.toNat).toNat 64) (enter i s) = some (d, s1) →
      (mergeDescOk d = false → trapsWith i s 0x0E) ∧
      (mergeDescOk d = true → exec i s = .next (settleIssue (sent
        { numbered s1 with merges := s1.merges ++ [⟨s1.fresh, clusterOf s1.coreNo, s1.focus, s1.strand.ident.uid, sd.toNat, d,
          s1.strand.ident.asid, s1.priv, s1.strand.entropy, s1.issue.seq * 8 + s1.issue.slot, false⟩] } 0
          (.spoolArm sd.toNat (mdOutb d) s1.fresh)) [])))) ∧
  (∀ (s : State) (t : Tag) (xa : XReg) (i : Instr), i = .cred t xa → s.issuing = true → passes t s = true → noneFar s = true →
    xa.toNat < 56 → (s.x xa.toNat).toNat % 64 ≠ 0 → unfrozen i s = true → trapsAt i s 0x08 (s.x xa.toNat)) ∧
  (∀ (s : State) (t : Tag) (xa : XReg) (a : Access) (d : Nat) (i : Instr), i = .cred t xa → s.issuing = true → passes t s = true →
    noneFar s = true → xa.toNat < 56 → (s.x xa.toNat).toNat % 64 = 0 →
    through (strandAccess (s.x xa.toNat).toNat 64 .r false) (enter i s) = some (a, enter i s) →
    (a.space = .scratch s.coreNo ∨ a.space = .regs s.coreNo) → a.poison s = none → d = leNat (s.readPieces a.pieces) →
    (cdCmpl d % 8 ≠ 0 → unfrozen i s = true → trapsAt i s 0x08 (BitVec.ofNat 64 (cdCmpl d))) ∧
    (cdCmpl d % 8 = 0 → cdPart d % 8 ≠ 0 → unfrozen i s = true → trapsAt i s 0x08 (BitVec.ofNat 64 (cdPart d))) ∧
    (∀ b, through (strandAccess (cdPart d) 128 .r false) (enter i s) = some (b, enter i s) →
      (askedOf s (cdPart d) = none → exec i s = .next (freezeAt (asksFor (beginIssue s) (cdPart d)) s.focus .pending)) ∧
      (∀ x, askedOf s (cdPart d) = some (x, false) → freezes i s .pending)) ∧
    (∀ mask s1, cdCmpl d % 8 = 0 → cdPart d % 8 = 0 → s1.issue.mode = 0 → through (readWaited (cdPart d) 128) (enter i s) = some (mask, s1) →
      (collectiveOk s1 d mask = false → trapsWith i s 0x1C) ∧
      (collectiveOk s1 d mask = true → exec i s = .next (settleIssue
        { numbered (marked s1) with collectives := s1.collectives ++ [⟨s1.fresh, s1.focus, s1.strand.ident.uid, d, mask,
          s1.strand.ident.asid, s1.priv, s1.strand.entropy, false, s1.issue.seq * 8 + s1.issue.slot⟩] } [])))) ∧
  (∀ (s : State) (t : Tag) (xa : XReg) (sd : SpoolNo) (va x : Nat) (a : Access) (b : List Byte) (i : Instr), i = .merge t xa sd →
    calm s = true → passes t s = true → xa.toNat < 56 → va = (s.x xa.toNat).toNat → mergeSpoolOk s.strand sd.toNat = true → va % 64 = 0 →
    through (strandAccess va 64 .r false) (enter i s) = some (a, enter i s) → askedOf s va = some (x, true) →
    engineRead (enter i s) (agentFor s.focus s.strand) va 64 = (.ok b, enter i s) → mergeDescOk (leNat b) = true →
    ∃ u m sp, exec i s = .next u ∧ u.merges = s.merges ++ [m] ∧ m.id = s.fresh ∧ m.uid = s.strand.ident.uid ∧ m.spool = sd.toNat ∧
      m.desc = leNat b ∧ m.running = false ∧ u.strand.spools.getD sd.toNat none = some sp ∧ sp.job = some s.fresh ∧
      sp.area = mdOutb (leNat b) ∧ u.mem = s.mem ∧ (∀ n, u.x n = s.x n) ∧ u.flights = [] ∧ u.strand.pos.pc = s.issue.next) ∧
  (∀ (s : State) (t : Tag) (xa : XReg) (va d x : Nat) (a a' : Access) (b : List Byte) (i : Instr), i = .cred t xa → calm s = true →
    passes t s = true → xa.toNat < 56 → va = (s.x xa.toNat).toNat → va % 64 = 0 →
    through (strandAccess va 64 .r false) (enter i s) = some (a, enter i s) → (a.space = .scratch s.coreNo ∨ a.space = .regs s.coreNo) →
    a.poison s = none → d = leNat (s.readPieces a.pieces) → cdCmpl d % 8 = 0 → cdPart d % 8 = 0 →
    through (strandAccess (cdPart d) 128 .r false) (enter i s) = some (a', enter i s) → askedOf s (cdPart d) = some (x, true) →
    engineRead (enter i s) (agentFor s.focus s.strand) (cdPart d) 128 = (.ok b, enter i s) → collectiveOk s d (leNat b) = true →
    ∃ u c, exec i s = .next u ∧ u.collectives = s.collectives ++ [c] ∧ c.id = s.fresh ∧ c.uid = s.strand.ident.uid ∧ c.desc = d ∧
      c.mask = leNat b ∧ c.running = false ∧ u.mem = s.mem ∧ (∀ n, u.x n = s.x n) ∧ u.flights = [] ∧ u.strand.pos.pc = s.issue.next)

/-- R423, R424: a TLBI at supervisor privilege issues and takes every entry that it names out of every TLB of the package, and a walk
under way for a page that it names makes none; on a calm strand it does so in one bundle-time and changes nothing else but BUDGET. At user privilege it
takes PRIVILEGE. -/
def Obligations.TranslationInvalidation : Prop :=
  (∀ (s : State) (t : Tag) (xa xb : XReg) (i : Instr) (named : Nat → Nat → Nat → Bool), (i, named) ∈ tlbis s t xa xb →
    calm s = true → passes t s = true → xa.toNat < 56 → xb.toNat < 56 → s.priv = true →
    ∃ u, exec i s = .next u ∧ u.tlb = s.tlb.filter (fun e => !named e.asid e.bits e.page) ∧
      Kept s { u with tlb := s.tlb, walks := s.walks } [] [] [] (fun _ => False) ∧ u.flights = [] ∧ u.strand.pos.pc = s.issue.next) ∧
  (∀ (s : State) (t : Tag) (xa xb : XReg) (i : Instr) (named : Nat → Nat → Nat → Bool), (i, named) ∈ tlbis s t xa xb →
    s.issuing = true → passes t s = true → noneFar s = true → xa.toNat < 56 → xb.toNat < 56 → s.priv = true →
    ∃ u, exec i s = .next (settleIssue u []) ∧ u = { enter i s with tlb := u.tlb, walks := u.walks } ∧
      u.tlb = s.tlb.filter (fun e => !named e.asid e.bits e.page) ∧ u.walks.map (fun w => w.id) = s.walks.map (fun w => w.id) ∧
      ∀ w ∈ u.walks, named w.asid (walkBits s w.asid w.va) (w.va / 2 ^ walkBits s w.asid w.va) = true → w.noFill = true) ∧
  (∀ (s : State) (t : Tag) (xa xb : XReg) (i : Instr), i ∈ [Instr.tlbiAll t, .tlbiAs t xb, .tlbiPage t xa xb] → s.issuing = true →
    passes t s = true → noneFar s = true → s.priv = false → trapsWith i s 0x03)

/-- R49, R261, R262, R400-R402: LVS stops the firing of its slot and waits until nothing of it is in flight, stopping meanwhile what comes
up for it; then the slot stands SAVED and its image is written. LVR of a legal image gives a FREE or SAVED slot its frontier. The
operations on one slot take effect in the order of their arrival. Both take PRIVILEGE at user privilege, and LAUNCH_INVALID for a slot
number above 63 or a slot in another state. -/
def Obligations.FrontierSaveRestore : Prop :=
  (∀ (s : State) (t : Tag) (xa xb : XReg) (n : Nat) (i : Instr), i = .lvs t xa xb → s.issuing = true → passes t s = true →
    noneFar s = true → xa.toNat < 56 → xb.toNat < 56 → n = (s.x xb.toNat).toNat → s.priv = true →
    (63 < n → trapsWith i s 0x22) ∧
    (n ≤ 63 → leveeAhead s n s.strand.ident.uid = [] → (s.slot n).state ≠ .waiting → (s.slot n).state ≠ .running → trapsWith i s 0x22) ∧
    (n ≤ 63 → leveeAhead s n s.strand.ident.uid = [] → ((s.slot n).state = .waiting ∨ (s.slot n).state = .running) →
      (s.x xa.toNat).toNat % 64 = 0 →
      ((s.slot n).saving = false →
        exec i s = .next (freezeAt (joinLine (beginSave (beginIssue s) n) n s.strand.ident.uid) s.focus .levee)) ∧
      ((s.slot n).saving = true → saveSettled s n = false →
        exec i s = .next (freezeAt (sweepSave (beginIssue s) n) s.focus .levee)) ∧
      ((s.slot n).saving = true → saveSettled s n = true → ∀ s1,
        through (writeFrontier (s.x xa.toNat).toNat n) (leaveLine (finishSave (enter i s) n) s.strand.ident.uid) = some ((), s1) →
        exec i s = .next (settleIssue s1 [])))) ∧
  (∀ (s : State) (t : Tag) (xa xb : XReg) (n : Nat) (i : Instr), i ∈ [Instr.lvs t xa xb, .lvr t xa xb] → s.issuing = true →
    passes t s = true → noneFar s = true → xa.toNat < 56 → xb.toNat < 56 → n = (s.x xb.toNat).toNat → s.priv = true → n ≤ 63 →
    (s.x xa.toNat).toNat % 64 = 0 → leveeAhead s n s.strand.ident.uid ≠ [] →
    exec i s = .next (freezeAt (joinLine (beginIssue s) n s.strand.ident.uid) s.focus .levee)) ∧
  (∀ (s : State) (slot : Nat), slot < 64 → ((finishSave s slot).slot slot).state = .saved ∧
    ((finishSave s slot).slot slot).record = (s.slot slot).record ∧ ∀ k, k ≠ slot → (finishSave s slot).slot k = s.slot k) ∧
  (∀ (s : State) (t : Tag) (xa xb : XReg) (n header record ncol ninf : Nat) (head body : List Byte) (f : Frontier) (i : Instr),
    i = .lvr t xa xb → s.issuing = true → passes t s = true → noneFar s = true → xa.toNat < 56 → xb.toNat < 56 →
    n = (s.x xb.toNat).toNat → s.priv = true → n ≤ 63 → ((s.slot n).state = .free ∨ (s.slot n).state = .saved) →
    leveeAhead s n s.strand.ident.uid = [] → (s.x xa.toNat).toNat % 64 = 0 → through (readFrontier (s.x xa.toNat).toNat 192) (enter i s) = some (head, enter i s) →
    header = leNat (head.take 64) → record = leNat (head.drop 64) → ncol = bits header 127 96 → ninf = bits header 159 128 →
    recordOk s record = true → ncol = columnCount record → ninf ≤ (lrWin record + 1) * ncol →
    ((s.slot n).state = .free ∨ lrTag (s.slot n).record = lrTag record) →
    through (readFrontier ((s.x xa.toNat).toNat + 192) (8 * ncol + 16 * ninf)) (enter i s) = some (body, enter i s) →
    f = ⟨record, bits header 95 88, bit header 80, splitEvery 8 ncol body, splitEvery 16 ninf (body.drop (8 * ncol))⟩ →
    (frontierOk header f = false → trapsWith i s 0x22) ∧
    (frontierOk header f = true → f.status = 0 → exec i s = .next (settleIssue
      (restoreFrontier (leaveLine (enter i s) s.strand.ident.uid) n f) [])) ∧
    (frontierOk header f = true → f.status ≠ 0 → exec i s = .next (settleIssue
      (endLaunch ((leaveLine (enter i s) s.strand.ident.uid).setSlot n { s.slot n with record := record }) n f.status) []))) ∧
  (∀ (s : State) (t : Tag) (xa xb : XReg) (i : Instr), i ∈ [Instr.lvs t xa xb, .lvr t xa xb] → s.issuing = true → passes t s = true →
    noneFar s = true → s.priv = false → trapsWith i s 0x03)

/-! ### The X and T slots -/

/-- R169, R173, R179, R192, R271, R274, R339, R352, R365, R427, R428: CPROG, CSEL, AFLOW and ASCL set the array as they issue; an invalid image
takes CELL_PROG and a reserved flow value ARRAY_FORMAT. TXIN sends a row, TXCLR the clearing of the buffer, and TXOUT sends a column of
a block of rows. In trap mode and in a user handler every X and T slot instruction faults with ILLEGAL_ENCODING, once nothing freezes
its bundle (R471). -/
def Obligations.ArraySettingsAndTransposer : Prop :=
  (∀ (s s1 : State) (t : Tag) (pg : BitVec 2) (va : VReg) (pa : Port) (v : Nat) (i : Instr), i = .cprog t pg va pa → s.issuing = true →
    passes t s = true → portsAgree i s = true → inProgram s = true → through (getV va) (enter i s) = some (v, s1) → v < 2 ^ 1024 →
    (v < 2 ^ 96 → progValid v = true → exec i s = .next (settleIssue
      (withStrand s1 fun st => { st with arr := { st.arr with progs := st.arr.progs.setIfInBounds pg.toNat v } }) [])) ∧
    ((2 ^ 96 ≤ v ∨ progValid (v % 2 ^ 96) = false) → trapsWith i s 0x13)) ∧
  (∀ (s : State) (t : Tag) (pg : BitVec 2) (am bm : BitVec 2) (ta tb : TileNo) (i : Instr) (f : Arr → Arr),
    (i, f) ∈ [(Instr.csel t pg, fun a => { a with sel := pg.toNat }),
      (.ascl t am ta bm tb, fun a => { a with am := am.toNat, ta := ta.toNat, bm := bm.toNat, tb := tb.toNat })] →
    s.issuing = true → passes t s = true → inProgram s = true →
    exec i s = .next (settleIssue (withStrand (enter i s) fun st => { st with arr := f st.arr }) [])) ∧
  (∀ (s s1 : State) (t : Tag) (xa : XReg) (v : Word) (i : Instr), i = .aflow t xa → s.issuing = true → passes t s = true →
    inProgram s = true → through (getX xa) (enter i s) = some (v, s1) →
    (v ∈ [0#64, 1#64, 4#64, 5#64] → exec i s = .next (settleIssue (withStrand s1 fun st =>
      { st with arr := { st.arr with statC := v.getLsbD 0, skewRow := v.getLsbD 2 } }) [])) ∧
    (v ∉ [0#64, 1#64, 4#64, 5#64] → trapsWith i s 0x15)) ∧
  (∀ (s s1 : State) (t : Tag) (va : VReg) (pa : Port) (row : BitVec 7) (v : Nat) (i : Instr), i = .txin t va pa row → s.issuing = true →
    passes t s = true → portsAgree i s = true → inProgram s = true →
    through (if VReg.isSpool va then getV va else transposerRead va.toNat) (enter i s) = some (v, s1) →
    exec i s = .next (settleIssue (sent s1 4 (.txRow row.toNat v)) [])) ∧
  (∀ (s s1 : State) (t : Tag) (vd : VReg) (ci : BitVec 7) (h wl : BitVec 2) (v w : Nat) (i : Instr), i = .txout t vd ci h wl →
    s.issuing = true → passes t s = true → inProgram s = true → w = 2 ^ wl.toNat →
    vectorOf w (fun m => (elemOf w ci.toNat ((tabGet s.strand.arr.tbuf (h.toNat * (128 / w) + m)).getD 0), 0)) v 0 →
    through (putV 4 vd v) (enter i s) = some ((), s1) → exec i s = .next (settleIssue s1 [])) ∧
  (∀ (s : State) (t : Tag), s.issuing = true → passes t s = true → inProgram s = true →
    exec (.txclr t) s = .next (settleIssue (sent (enter (.txclr t) s) 1 .txClear) [])) ∧
  (∀ (s : State) (t : Tag) (i : Instr), inXorT i = true → Instr.tag? i = some t → s.issuing = true → passes t s = true →
    portsAgree i s = true → inProgram s = false → unfrozen i s = true → trapsWith i s 0x01)

/-- R78, R188, R332, R336-R338, R340, R341, R347, R349-R351: an array instruction whose issue checks pass enters the strand's queue with
the settings of its issue, and starts later; with four waiting to start it freezes the core; an ALDB of a view that is not legal takes
VIEW. -/
def Obligations.ArrayIssue : Prop :=
  (∀ (s : State) (t : Tag) (tv td mv an bn : TileNo) (pt pan pbn : Port) (xa xb : XReg) (av : AccNo) (asp bsp sat : BitVec 1) (sk : BitVec 2)
    (mm1 : BitVec 12) (i : Instr) (kind : ArrKind),
    (i, kind, true) ∈ arrayIssues s t tv td mv an bn pt pan pbn xa xb av asp bsp sat sk mm1 → s.issuing = true → passes t s = true →
    portsAgree i s = true → inProgram s = true →
    (4 ≤ (s.strand.arr.ops.filter fun o => o.start.isNone).length → freezes i s .arrayQueue) ∧
    ((s.strand.arr.ops.filter fun o => o.start.isNone).length < 4 →
      ∃ o, exec i s = .next (settleIssue (withArrOp (enter i s) o) []) ∧ o.kind = kind ∧ o.start = none ∧ o.done = 0 ∧
        o.set = capturedSettings s.strand ∧ o.issued = s.strand.pos.line.bt ∧ (o.base, o.size) = partitionOf s s.focus)) ∧
  (∀ (s : State) (t : Tag) (tv : TileNo) (pt : Port), s.issuing = true → passes t s = true → inProgram s = true →
    (s.strand.arr.ops.filter fun o => o.start.isNone).length < 4 → viewOk (tileOf s tv) (partBytes s) = false →
    trapsWith (.aldbLocal t tv pt) s 0x10)

/-! ### Operands, guards and the passing of bundle-time -/

/-- R67-R69, R75, R148, R254, R289: how a live operation reads and sends its operands: a register's value, a write to x0 discarded, the
element at the head of a pipe, of a sluice or of a load spool, a push sent to land, a vector register in the partition; an empty pipe,
ring or spool freezes the core, and takes QUEUE_BIND or SPOOL_BOUND where no element will come; an exhausted store spool takes
SPOOL_BOUND; a vector register outside the partition takes VIEW. -/
def Obligations.OperandForms : Prop :=
  (∀ (s : State) (xa : XReg), s.issue.mode = 0 → noneFar s = true → xa.toNat < 56 →
    through (getXQ xa) s = some (s.x xa.toNat, s) ∧
    ∀ lat v, through (putXQ lat xa v) s = some ((), if xa.toNat = 0 then s else sent s lat (.x s.strand.bank xa.toNat v))) ∧
  (∀ (s : State) (n : XReg) (q i e : Nat) (k : Skein) (l : List Word), s.issue.mode = 0 → s.strand.trapFrame = none → n.toNat = 56 + q →
    q < 4 → skeinOf s s.strand = some k → findPipe k false (memberOf s.strand) q = some i → k.pipes[i]? = some (e, l) →
    (∀ v rest, l = v :: rest → through (getXQ n) s = some (v, s.setSkein { k with pipes := k.pipes.set i (e, rest) })) ∧
    (l = [] → partnerDone k (pipeWM e) = false → getXQ n s = .error (.freeze .queue)) ∧
    (l = [] → partnerDone k (pipeWM e) = true → ∃ info, getXQ n s = .error (.raise ⟨0x1B, info, false⟩))) ∧
  (∀ (s : State) (n : XReg) (q i e lat : Nat) (v : Word) (k : Skein) (l : List Word), s.issue.mode = 0 → s.strand.trapFrame = none →
    n.toNat = 56 + q → q < 4 → skeinOf s s.strand = some k → findPipe k true (memberOf s.strand) q = some i → k.pipes[i]? = some (e, l) →
    (partnerDone k (pipeRM e) = false → through (putXQ lat n v) s = some ((), sent (marked s) lat (.pushQueue q v s.issue.sword))) ∧
    (partnerDone k (pipeRM e) = true → ∃ info, putXQ lat n v s = .error (.raise ⟨0x1B, info, false⟩))) ∧
  (∀ (s : State) (n : XReg) (q a e head lat : Nat) (v : Word), s.issue.mode = 0 → s.strand.trapFrame = none → noneFar s = true →
    n.toNat = 56 + q → 4 ≤ q → a = sluiceEntryAddr s s.strand.ident.asid (q - 4) → e = s.readNat a 32 → head = bits e 255 224 →
    (sluiceBound e = true →
      (bits e 223 192 ≠ head → through (getXQ n) s = some
        (BitVec.ofNat 64 (s.readNat (bits e 184 128 + 8 * (head % 2 ^ bits e 67 64)) 8), s.writePhys (a + 28) (leBytes 4 ((head + 1) % 2 ^ 32)))) ∧
      (bits e 223 192 = head → getXQ n s = .error (.freeze .queue)) ∧
      through (putXQ lat n v) s = some ((), sent (marked s) lat (.pushQueue q v s.issue.sword))) ∧
    (sluiceBound e = false → (∃ info, getXQ n s = .error (.raise ⟨0x1B, info, false⟩)) ∧
      ∃ info, putXQ lat n v s = .error (.raise ⟨0x1B, info, false⟩))) ∧
  (∀ (s : State) (va : VReg) (n : Nat) (sp : Spool), s.issue.mode = 0 → s.strand.trapFrame = none → va.toNat = 496 + n →
    s.strand.spools.getD n none = some sp → spIsStore sp.desc = false → isBound s.strand n = false →
    (∀ e rest, sp.buf = e :: rest → e.fault = none →
      through (getV va) s = some (e.data, setSpool s s.focus n (some { sp with buf := rest, count := sp.count + 1 }))) ∧
    (sp.buf = [] → sp.ended = false → getV va s = .error (.freeze .spool)) ∧
    (sp.buf = [] → sp.ended = true → ∃ info, getV va s = .error (.raise ⟨0x0F, info, false⟩))) ∧
  (∀ (s : State) (vd : VReg) (n lat v : Nat) (sp : Spool), s.issue.mode = 0 → s.strand.trapFrame = none → vd.toNat = 496 + n →
    s.strand.spools.getD n none = some sp → spIsStore sp.desc = true →
    (sp.failure = none → (spKind sp.desc = 1 → sp.issued < spTotal sp.desc) →
      through (putV lat vd v) s = some ((), marked (sent (setSpool s s.focus n (some { sp with issued := sp.issued + 1 })) lat
        (.pushSpool n v s.issue.sword)))) ∧
    (sp.failure ≠ none ∨ spKind sp.desc = 1 ∧ spTotal sp.desc ≤ sp.issued →
      ∃ info, putV lat vd v s = .error (.raise ⟨0x0F, info, false⟩))) ∧
  (∀ (s : State) (va : VReg), s.issue.mode = 0 → noneFar s = true → va.toNat < 496 →
    (vectorFits s va.toNat = true → s.poisoned (vectorAddr s va.toNat) 128 = none →
      through (getV va) s = some (leNat (s.readPhys (vectorAddr s va.toNat) 128), s)) ∧
    (vectorFits s va.toNat = true → ∀ lat v,
      through (putV lat va v) s = some ((), sent s lat (.bytes (vectorAddr s va.toNat) (leBytes 128 v)))) ∧
    (vectorFits s va.toNat = false → ∃ info, getV va s = .error (.raise ⟨0x10, info, false⟩)))

/-- R70, R83, R84: an operation that its guard squelches does nothing: its bundle issues with no effect, and on a calm strand only
control moves on. An operation whose PATH is not 0 does nothing in a bundle whose BTREE takes another leaf: all that the bundle does is
what the BTREE does. -/
def Obligations.SquelchedOperations : Prop :=
  (∀ (s : State) (i : Instr) (t : Tag), Instr.tag? i = some t → t.path = 0 → s.p t.gp.toNat = (t.gn == 1) → s.issuing = true →
    portsAgree i s = true →
    exec i s = .next (settleIssue (enter i s) []) ∧
    (calm s = true → ∃ u, exec i s = .next u ∧ Kept s u [] [] [] (fun _ => False) ∧ u.flights = [] ∧ u.strand.pos.pc = s.issue.next)) ∧
  ∀ (s : State) (i c : Instr) (t : Tag) (t0 t1 t2 t3 : LeafTest) (k : Nat), Instr.tag? i = some t → c = .btree t0 t1 t2 t3 →
    k = leafTaken s t0 t1 t2 t3 → t.path ≠ 0 → t.path.toNat ≠ k → s.issuing = true → portConflict (beginIssue s) [c, i] = false →
    (k = 5 → issueOps [(c, operate c), (i, operate i)] s = .next (settleIssue (atSlot i (atLeaf 5 (enter c s))) [])) ∧
    ∀ l, [t0, t1, t2, t3][k - 1]? = some l → issueOps [(c, operate c), (i, operate i)] s =
      .next (settleIssue (atSlot i (branched (s.b l.target.toNat).toNat (atLeaf k (enter c s)))) [])

/-- R11, R12, R52, R58, R63, R114, R115: an idle bundle occupies its k bundle-times on a calm strand and changes nothing but BUDGET; while
a bundle still occupies a strand its bundle-time passes, and what is due then lands: a scalar register, a predicate, a branch-target
register, a system register as its field table says, the bytes of a vector register or a local store, and flags, which accrue behind an
MTS of FFLAGS that lands with them. -/
def Obligations.BundleTime : Prop :=
  (∀ (s : State) (k : BitVec 3) (q : BitVec 1), calm s = true → 1 ≤ k.toNat →
    ∃ u, exec (.idleBundle k q) s = .next u ∧ Kept s u [] [] [] (fun _ => False) ∧ u.flights = [] ∧ u.strand.pos.pc = s.issue.next ∧
      u.strand.pos.line.bt = s.strand.pos.line.bt + 1 ∧ u.strand.pos.line.busy = k.toNat - 1) ∧
  (∀ (s : State) (key core ctx : Nat) (st : Strand), key = 2 * core + ctx → ctx < 2 → s.strandAt key = some st →
    (s.ctx key).state = .issuing → st.dead = false → st.halted = false → st.frozen ≠ some .held → st.frozen ≠ some .blocked →
    0 < st.pos.line.busy → quietLine st = true →
    ((∀ f ∈ st.pos.line.flights, st.pos.line.bt + 1 < f.due) → exec (.resultLanding core ctx) s = .next (s.setStrandAt key
      { st with pos := { st.pos with line := { st.pos.line with bt := st.pos.line.bt + 1, busy := st.pos.line.busy - 1 } } })) ∧
    (∀ seq slot n v, n ≠ 0 → n < 56 → st.pos.line.flights = [⟨st.pos.line.bt + 1, seq, slot, .x st.bank n v⟩] →
      ∃ u w, exec (.resultLanding core ctx) s = .next u ∧ u.strandAt key = some w ∧ readXAt u key w w.bank n = v ∧
        w.pos.line.flights = [] ∧ w.ps = st.ps ∧ w.bs = st.bs ∧ w.sys = st.sys ∧ u.mem = s.mem) ∧
    (∀ seq slot n v, n ≠ 0 → n < 96 → st.pos.line.flights = [⟨st.pos.line.bt + 1, seq, slot, .p st.bank n v⟩] →
      ∃ u w, exec (.resultLanding core ctx) s = .next u ∧ u.strandAt key = some w ∧ readPAt u key w w.bank n = v ∧
        w.pos.line.flights = [] ∧ w.xs = st.xs ∧ w.bs = st.bs ∧ w.sys = st.sys ∧ u.mem = s.mem) ∧
    (∀ seq slot n v, n < 8 → st.pos.line.flights = [⟨st.pos.line.bt + 1, seq, slot, .b n v⟩] →
      ∃ u w, exec (.resultLanding core ctx) s = .next u ∧ u.strandAt key = some w ∧ w.bs.getD n 0 = v ∧
        (∀ m, m ≠ n → w.bs.getD m 0 = st.bs.getD m 0) ∧ w.pos.line.flights = [] ∧ w.xs = st.xs ∧ w.ps = st.ps ∧ w.sys = st.sys ∧
        u.mem = s.mem) ∧
    (∀ seq slot n v, s.focus = key → sysRegMapped n = true → neverWritten n = false →
      st.pos.line.flights = [⟨st.pos.line.bt + 1, seq, slot, .sys n v⟩] →
      ∃ u w, exec (.resultLanding core ctx) s = .next u ∧ u.strandAt key = some w ∧ u.focus = key ∧
        readSys u n = afterMts (isSupervisor core) n (readSys s n) v ∧ (∀ m, m ≠ n → readSys u m = readSys s m) ∧
        w.pos.line.flights = [] ∧ w.xs = st.xs ∧ w.ps = st.ps ∧ w.bs = st.bs ∧ u.mem = s.mem) ∧
    (∀ seq slot a data, Memory.wf s.mem = true → isBlock (s.space a) = false →
      st.pos.line.flights = [⟨st.pos.line.bt + 1, seq, slot, .bytes a data⟩] →
      ∃ u w, exec (.resultLanding core ctx) s = .next u ∧ u.strandAt key = some w ∧
        (∀ k, k < data.length → memGet u.mem (a + k) = data.getD k 0) ∧
        (∀ x, x < a ∨ a + data.length ≤ x → memGet u.mem x = memGet s.mem x) ∧ w.pos.line.flights = [] ∧ w.xs = st.xs ∧ w.ps = st.ps ∧
        w.bs = st.bs ∧ w.sys = st.sys) ∧
    (∀ seq slot x, (∀ e ∈ st.faults, e.seq ≠ seq) → st.pos.line.flights = [⟨st.pos.line.bt + 1, seq, slot, .flags x⟩] →
      ∃ u w, exec (.resultLanding core ctx) s = .next u ∧ u.strandAt key = some w ∧
        w.sys = { st.sys with fflags := (st.sys.fflags ||| BitVec.ofNat 64 x) &&& 0x1F } ∧ w.pos.line.flights = [] ∧ w.xs = st.xs ∧
        w.ps = st.ps ∧ w.bs = st.bs ∧ u.mem = s.mem) ∧
    ∀ seq slot seq' slot' x v f g, (∀ e ∈ st.faults, e.seq ≠ seq) → f = ⟨st.pos.line.bt + 1, seq, slot, .flags x⟩ →
      g = ⟨st.pos.line.bt + 1, seq', slot', .sys 0x005 v⟩ → (st.pos.line.flights = [f, g] ∨ st.pos.line.flights = [g, f]) →
      ∃ u w, exec (.resultLanding core ctx) s = .next u ∧ u.strandAt key = some w ∧
        w.sys = { st.sys with fflags := (v ||| BitVec.ofNat 64 x) &&& 0x1F } ∧ w.pos.line.flights = [] ∧ w.xs = st.xs ∧ u.mem = s.mem)

/-! ### Far accesses, the fabric, the host and errors -/

/-- R60, R140, R141, R218, R286-R289: a far access whose home is this package performs: a load brings its data, an atomic leaves its
value, a store writes, a send arrives in its ring; poison makes the destination fault at its use, and a partly covered poisoned word
drops the store with a report. The response of another package ends a far access: its data land, and poison, a refusal, a time-out and a
fabric that no live station reaches make a read's destination fault at its use and leave a report of a write; a congestion mark turns
FENT at the next boundary. -/
def Obligations.FarAccessesPerform : Prop :=
  (∀ (s : State) (key core ctx id : Nat) (st : Strand) (f : FarOp) (ps : List (Nat × Nat)), key = 2 * core + ctx → ctx < 2 →
    s.strandAt key = some st → farAt st id = some f → mayPerform st f = true → foreignTo s st f = none →
    ps = f.pieces.map (homePiece s) →
    (refusedHere s f = false → (⟨f.va, ps, .hbm⟩ : Access).poison s = none →
      (∀ d, f.kind = .load d → exec (.farLoadLanding core ctx id) s =
        .next (landFar (s.setStrandAt key (dropFar st id)) key d (leNat (s.readPieces ps)))) ∧
      (∀ d op k b, f.kind = .amo d op k b → op ≤ 8 → b < 2 ^ (8 * k) → leNat (s.readPieces ps) < 2 ^ (8 * k) →
        exec (.farLoadLanding core ctx id) s =
        .next (landFar ((s.writePieces ps (leBytes k (atomicResult op k (leNat (s.readPieces ps)) b))).setStrandAt key (dropFar st id))
          key d (leNat (s.readPieces ps))))) ∧
    (∀ d w, refusedHere s f = false → f.kind = .load d → d ≠ .none → (⟨f.va, ps, .hbm⟩ : Access).poison s = some w →
      ∃ u t e, exec (.farLoadLanding core ctx id) s = .next u ∧ u.strandAt key = some t ∧ t.bad = st.bad ++ [⟨d, e⟩] ∧ e.cause = 0x0C ∧
        t.far = (dropFar st id).far ∧ t.xs = st.xs ∧ u.mem = s.mem) ∧
    (∀ data, refusedHere s f = false → f.kind = .store data →
      ((∀ p ∈ ps, s.partialPoison p.1 p.2 = none) →
        exec (.farStorePerform core ctx id) s = .next ((s.writePieces ps data).setStrandAt key (dropFar st id))) ∧
      ((∃ p ∈ ps, s.partialPoison p.1 p.2 ≠ none) → ∃ u t, exec (.farStorePerform core ctx id) s = .next u ∧ u.strandAt key = some t ∧
        t.reports = st.reports ++ [⟨f.path, ⟨0x0D, BitVec.ofNat 64 f.va, false⟩, false⟩] ∧ t.xs = st.xs ∧ u.mem = s.mem)) ∧
    (∀ q v e, f.kind = .sluice q v → e = s.readNat (sluiceEntryAddr s st.ident.asid (q - 4)) 32 → s.inFabric = true →
      sluiceBound (s.readNat (sluiceEntryAddr s (bits e 37 26) (bits e 39 38)) 32) = true → sluiceRoom s (bits e 37 26) (bits e 39 38) = true →
      exec (.farStorePerform core ctx id) s = .next
        (sluiceArrive (s.setStrandAt key (dropFar st id)) (bits e 37 26) (bits e 39 38) v))) ∧
  (∀ (s : State) (key core ctx id : Nat) (st : Strand) (f : FarOp) (mark : Bool) (data : List Byte), key = 2 * core + ctx → ctx < 2 →
    s.strandAt key = some st → farAt st id = some f → (foreignTo s st f).isSome = true →
    (∀ d, mayPerform st f = true → canSend s st f = true → f.kind = .load d → exec (.fabricResponse core ctx id mark data 0) s =
      .next (landFar (s.setStrandAt key { dropFar st id with rotate := st.rotate || mark }) key d
        (leNat data % 2 ^ (8 * (f.pieces.map Prod.snd).sum)))) ∧
    (∀ i cause holds, (i, cause, holds) ∈ [(Instr.fabricResponse core ctx id mark data 1, if f.reads then 0x0C else 0x0D,
          mayPerform st f && canSend s st f),
        (.fabricResponse core ctx id mark data 2, 0x1C, mayPerform st f && canSend s st f), (.fabricTimeout core ctx id, 0x1C, true),
        (if f.reads then .farLoadLanding core ctx id else .farStorePerform core ctx id, 0x1C, mayPerform st f && !canSend s st f)] →
      holds = true →
      ∃ u t, exec i s = .next u ∧ u.strandAt key = some t ∧ t.far = (dropFar st id).far ∧ t.xs = st.xs ∧ u.mem = s.mem ∧
        (f.reads = true → t.bad = (if f.dest = .none then st.bad else st.bad ++ [⟨f.dest, ⟨cause, BitVec.ofNat 64 f.va, false⟩⟩])) ∧
        (f.reads = false → t.reports = st.reports ++ [⟨f.path, ⟨cause, BitVec.ofNat 64 f.va, false⟩, false⟩])))

/-- R63, R125, R218, R235, R237, R282, R286, R287, R301: accesses through a core's window, from the host and from other packages read and
write the bytes that stand there, the window's behind the results due; an atomic of another package performs here; the host reads its own
memory, a queue's tail and its registers, and zero with poison where nothing answers; an access of another package that no inbound window
admits is refused with nothing changed. -/
def Obligations.OutsideAccesses : Prop :=
  (∀ (s s1 : State) (core off n : Nat) (data : List Byte), s1 = landDue (landDue s (2 * core)) (2 * core + 1) →
    (windowOk core off data.length = true → s1.partialPoison (windowBase core + off) data.length = none →
      exec (.windowWrite core off data) s = .next (s1.writePhys (windowBase core + off) data) ∧
      ((s.ctx (2 * core)).state ≠ .issuing → (s.ctx (2 * core + 1)).state ≠ .issuing → s1 = s)) ∧
    (windowOk core off n = true → s.poisoned (windowBase core + off) n = none →
      exec (.windowRead core off n) s = .next { s with reply := (s.readPhys (windowBase core + off) n, false) })) ∧
  (∀ (s : State) (addr n : Nat) (data : List Byte), (s.host.evacState = 0 ∨ 5 ≤ s.host.evacState) →
    ((outerSpace s addr n).isSome = true → s.poisoned addr n = none →
      exec (.hostAccess addr (.read n)) s = .next { s with reply := (s.readPhys addr n, false) }) ∧
    (outerSpace s addr n = none → inHostMemory s addr n = false →
      exec (.hostAccess addr (.read n)) s = .next { s with reply := (List.replicate n 0, true) }) ∧
    ((outerSpace s addr data.length).isSome = true → s.partialPoison addr data.length = none →
      exec (.hostAccess addr (.write data)) s = .next { s.writePhys addr data with reply := ([], false) })) ∧
  (∀ (s : State) (addr n q : Nat) (data : List Byte),
    (inHostMemory s addr n = true → s.poisoned addr n = none →
      exec (.hostAccess addr (.read n)) s = .next { s with reply := (s.readPhys addr n, false) }) ∧
    (inHostMemory s addr data.length = true → s.partialPoison addr data.length = none →
      exec (.hostAccess addr (.write data)) s = .next { s.writePhys addr data with reply := ([], false) }) ∧
    (q < 16384 → exec (.hostAccess (8 * q) .tail) s = .next { s with reply := (leBytes 8 (s.queue q).tail, false) }) ∧
    exec (.hostAccess 0 .register) s = .next { s with reply := (leBytes 8 (readHostReg s 0).toNat, false) }) ∧
  (∀ (s : State) (source addr : Nat), admitted s source addr 16 true = true → isBlock (s.space addr) = false →
    (outerSpace s addr 16).isSome = true → s.poisoned addr 16 = none → addr % 16 = 0 →
    (∀ op n b, (n = 4 ∨ n = 8) → op ≤ 8 → b < 2 ^ (8 * n) → admitted s source addr n true = true →
      (outerSpace s addr n).isSome = true → s.poisoned addr n = none →
      exec (.fabricAccess source addr (.amo op n b)) s = .next
        { s.writePhys addr (leBytes n (atomicResult op n (s.readNat addr n) b)) with reply := (leBytes n (s.readNat addr n), false) }) ∧
    (∀ e v, exec (.fabricAccess source addr (.acas e v)) s = .next
        { (if s.readNat addr 16 = e then s.writePhys addr (leBytes 16 v) else s) with reply := (leBytes 16 (s.readNat addr 16), false) })) ∧
  (∀ (s : State) (source addr n : Nat) (data : List Byte),
    (admitted s source addr n false = true → (outerSpace s addr n).isSome = true → s.poisoned addr n = none →
      exec (.fabricAccess source addr (.read n)) s = .next { s with reply := (s.readPhys addr n, false) }) ∧
    (admitted s source addr data.length true = true → (outerSpace s addr data.length).isSome = true →
      s.partialPoison addr data.length = none →
      exec (.fabricAccess source addr (.write data)) s = .next { s.writePhys addr data with reply := ([], false) }) ∧
    (∀ a, s.host.evacState = 0 → (s.inFabric = false ∨ inGroup s source = false) →
      exec (.fabricAccess source addr a) s = .next { s with reply := ([], true) }))

/-- R116, R127, R135, R139, R140, R424: a corrected error is counted up to all ones and freezes its core for 24 cycles more; an
uncorrectable one poisons its ECC word and is noted by the core it stands in; a completed walk hands its result to the strand that
waits and, unless a TLBI forbade it, makes its entries. -/
def Obligations.ErrorsAndWalks : Prop :=
  (∀ (s : State) (core : Nat), core < 512 → exec (.eccCorrection core) s = .next (s.setCore core { s.core core with
    cecnt := if (s.core core).cecnt = BitVec.allOnes 64 then (s.core core).cecnt else (s.core core).cecnt + 1
    eccFreeze := (s.core core).eccFreeze + 24 })) ∧
  (∀ (s : State) (addr n : Nat), s.space addr = .scratch n → n < 512 → ∃ u, exec (.uncorrectableError addr) s = .next u ∧
    addr / 8 * 8 ∈ u.poison ∧ (∀ x ∈ s.poison, x ∈ u.poison) ∧ (u.core n).ueaddr = BitVec.ofNat 64 (addr / 8 * 8 - windowBase n) ∧
    (u.core n).uecnt.toNat = min ((s.core n).uecnt.toNat + 1) (2 ^ 64 - 1) ∧ u.mem = s.mem) ∧
  (∀ (s : State) (addr : Nat), s.space addr = .hbm → ∃ u, exec (.uncorrectableError addr) s = .next u ∧
    addr / 64 * 64 ∈ u.poison ∧ (∀ x ∈ s.poison, x ∈ u.poison) ∧ u.cores = s.cores ∧ u.mem = s.mem) ∧
  (∀ (s : State) (w : Walk) (k : Nat) (st : Strand), s.walks.find? (fun x => x.id == w.id) = some w → w.waiters = [k] →
    w.agents = [] → s.strandAt k = some st → st.ident.asid = w.asid →
    ∃ u t, exec (.walkComplete w.id) s = .next u ∧ u.strandAt k = some t ∧ t.xs = st.xs ∧ u.mem = s.mem ∧
      (∀ m, walkTables s w.asid w.va = some m →
        t.walked = st.walked ++ [⟨w.asid, w.va / 2 ^ m.bits, m.bits, m.frame, m.perms, true⟩] ∧
        (w.noFill = false → (tlbFind u (keyCore k) w.asid w.va).isSome = true) ∧ (w.noFill = true → u.tlb = s.tlb)) ∧
      (walkTables s w.asid w.va = none → u.tlb = s.tlb ∧ ∃ x, t.walked = st.walked ++ [x] ∧ x.ok = false))

/-! ### Interrupts, the watchdog and switches -/

/-- R47, R273, R274, R276: a user interrupt that is due enters the handler at user privilege with the enabled events in shadow x48 and
the address in shadow x49, and clears their pending bits; an expired BUDGET, waiting work of a higher class and an exhausted quantum
ask the strand to leave; 65,536 decrements later it is frozen for good. -/
def Obligations.InterruptsAndWatchdog : Prop :=
  (∀ (s : State) (key core ctx : Nat) (st : Strand) (f : Standing), key = 2 * core + ctx → ctx < 2 → s.strandAt key = some st →
    interruptDue s key = true → standingAt s key = some f →
    ∃ u t, exec (.userInterrupt core ctx) s = .next u ∧ u.strandAt key = some t ∧ t.sys.uih = true ∧ t.sys.priv = false ∧
      t.shadowX.getD 0 0 = (st.sys.umask.extractLsb' 32 20 &&& st.sys.umask.extractLsb' 0 20).zeroExtend 64 ∧
      t.shadowX.getD 1 0 = BitVec.ofNat 64 f.addr ∧ t.pos.pc = st.ident.image + 64 + st.sys.uvec.toNat % 2 ^ 32 ∧
      t.sys.umask.extractLsb' 32 20 &&& t.sys.umask.extractLsb' 0 20 = 0 ∧ t.sys.umask.extractLsb' 0 20 = st.sys.umask.extractLsb' 0 20 ∧
      t.pos.line = ⟨0, 0, []⟩ ∧ (∃ p, t.pos.susp = p :: st.pos.susp ∧ p.kind = .user ∧ p.line = st.pos.line) ∧ t.xs = st.xs ∧
      t.ps = st.ps ∧ t.bs = st.bs ∧ t.pos.loops = st.pos.loops ∧ u.mem = s.mem) ∧
  (∀ (s : State) (key core ctx : Nat) (st : Strand), key = 2 * core + ctx → ctx < 2 → s.strandAt key = some st → alone st = true →
    (budgetOut st = true → st.dead = false → st.resumed = false → st.leaving ≠ some 1 → st.leaving ≠ some 5 →
      exec (.budgetExpiry core ctx) s = .next (s.setStrandAt key { st with leaving := some 1 })) ∧
    (giveWay s key st = some 2 → exec (.preemption core ctx) s = .next (s.setStrandAt key { st with leaving := some 2 })) ∧
    (giveWay s key st = some 3 → exec (.timeSliceSwitch core ctx) s = .next (s.setStrandAt key { st with leaving := some 3 })) ∧
    (budgetOut st = true → st.dead = false → 65536 ≤ st.overrun →
      ∃ u, exec (.hung core ctx) s = .next u ∧ u.strandAt key = some { st with dead := true }))

/-- R32, R33, R37, R277, R279, R280: a lone strand that may leave stops issuing and begins its drain span with a block of its die's pool,
or runs on where the pool is empty; drained, it is SAVING, then its context is FREE and its state stands saved; it comes back into a FREE
context, which is LOADING, then READY, and then issues when the other context of its core gives way (log 19: when it does is inferred). -/
def Obligations.Switches : Prop :=
  (∀ (s s1 : State) (key core ctx b : Nat) (st : Strand), key = 2 * core + ctx → ctx < 2 → s.strandAt key = some st → alone st = true →
    readyToLeave s key = true → st.leaving ≠ some 5 →
    (takeBlock s (dieOf core) = some (b, s1) → ∃ u t, exec (.strandSwitch core ctx) s = .next u ∧ (u.ctx key).state = .issuing ∧
      u.strandAt key = some t ∧ t.draining = true ∧ t.block = b ∧ t.frozen = none ∧ t.xs = st.xs ∧ t.pos = st.pos ∧ t.sys = st.sys ∧
      t.leaving = st.leaving ∧ u.mem = s.mem) ∧
    (takeBlock s (dieOf core) = none → ∃ u, exec (.strandSwitch core ctx) s = .next u ∧
      u.strandAt key = some { st with leaving := none, resumed := true, frozen := none, overrun := 0 })) ∧
  (∀ (s : State) (key core ctx : Nat) (st : Strand), key = 2 * core + ctx → ctx < 2 → s.strandAt key = some st → st.draining = true →
    (s.ctx key).state = .issuing → drained s st = true →
    exec (.strandSwitch core ctx) s = .next (s.setCtx key { s.ctx key with state := .saving })) ∧
  (∀ (s : State) (key core ctx : Nat) (st : Strand), key = 2 * core + ctx → ctx < 2 → s.strandAt key = some st →
    (s.ctx key).state = .saving → drained s st = true → st.leaving ≠ some 5 →
    ∃ u x, exec (.contextSaveComplete core ctx) s = .next u ∧ (u.ctx key).state = .free ∧ u.strandAt key = none ∧ x ∈ u.saved ∧
      x.block = st.block ∧ x.ctx = key ∧ x.strand.xs = st.xs ∧ x.strand.ps = st.ps ∧ x.strand.pos = st.pos ∧ x.strand.sys = st.sys ∧
      x.strand.leaving = none) ∧
  (∀ (s : State) (image ctx key : Nat) (x : Saved), s.saved.find? (fun y => y.block == image) = some x → ctx < 2 →
    key = 2 * keyCore x.ctx + ctx → x.strand.ident.skein = none → mayResume s key x = true → canResume s x key = true →
    ∃ u t, exec (.strandResume image ctx) s = .next u ∧ (u.ctx key).state = .loading ∧ u.strandAt key = some t ∧
      t.xs = (readImage s image x.phys x.strand).xs ∧ t.pos = (readImage s image x.phys x.strand).pos ∧ t.resumed = true ∧
      u.saved.all (fun y => y.block != image) = true) ∧
  (∀ (s : State) (core ctx : Nat), ctx < 2 → (s.ctx (2 * core + ctx)).state = .loading →
    exec (.loadComplete core ctx) s = .next (s.setCtx (2 * core + ctx) { s.ctx (2 * core + ctx) with state := .ready })) ∧
  (∀ (s : State) (core key other : Nat) (st : Strand), nextContext s core = some key →
    (key, other) ∈ [(2 * core, 2 * core + 1), (2 * core + 1, 2 * core)] → coreFree s other = true → s.strandAt key = some st →
    ∃ u t, exec (.contextSwitch core) s = .next u ∧ (u.ctx key).state = .issuing ∧ u.strandAt key = some t ∧
      t.halted = (st.halted || st.haltPending) ∧ t.pos = st.pos ∧ t.xs = st.xs ∧ (u.core core).switching = 8 ∧
      u.strandAt other = s.strandAt other ∧ (u.ctx other).state ≠ .issuing)

/-! ### The levee, tasks and the engines -/

/-- R35, R44, R236, R237, R241, R243, R246, R247, R249, R251, R252, R257: a doorbell moves the tail within the ring and disables the queue beyond it; a good head record
takes the lowest FREE slot (the model's choice, log 20), a bad one is completed with LAUNCH_INVALID; a fired point is bound with its coordinates in x1-x3, a skein with
all its members at once; a point whose work is done leaves the points in flight. A packet enters its core's inbox, which holds 256, and is
bound in its order to a FREE context of its core that no other work goes before it on (log 61), with its address in x1 and its arguments
in x2 and x3. -/
def Obligations.LeveeEvents : Prop :=
  (∀ (s : State) (q : Nat) (v : Word) (new : Nat), q < 16384 → new = v.toNat % 2 ^ 32 → new ≠ (s.queue q).tail →
    (pendingOf (queueDesc s q) new ≤ 2 ^ qdLog2n (queueDesc s q) → pendingOf (queueDesc s q) (s.queue q).tail ≤ pendingOf (queueDesc s q) new →
      exec (.doorbell q v) s = .next (moveTail s q new)) ∧
    (2 ^ qdLog2n (queueDesc s q) < pendingOf (queueDesc s q) new →
      exec (.doorbell q v) s = .next (disableQueue s q 0x22))) ∧
  (∀ (s : State) (q r d : Nat) (w : Waiting), d = queueDesc s q → s.host.en = true → takesWork s = true → qdEn d = true →
    queueDescOk d = true → pendingOf d (s.queue q).tail ≠ 0 → headRecord s d = .ok r → nextQueue s = some w → w.queue = q → w.spent = false →
    ((recordOk s r && lrAsid r == qdAsid d && lrPrio r ≤ qdPriomax d) = true → pointTotal r ≠ 0 → ∀ n, freeSlot s = some n →
      exec (.launchAdmission q) s = .next (advanceHead (admitRecord s n r) q w.prio)) ∧
    ((recordOk s r && lrAsid r == qdAsid d && lrPrio r ≤ qdPriomax d) = false → ∀ s1, writeCompletion s (qdAsid d) r 0x22 = (none, s1) →
      exec (.launchAdmission q) s = .next (advanceHead s1 q w.prio))) ∧
  (∀ (s : State) (slot a b c core ctx key image : Nat), key = 2 * core + ctx → ctx < 2 → nextShot s = some ⟨slot, a, b, c, [key]⟩ →
    launchIsSkein s (s.slot slot).record = false → kernelImages s (s.slot slot).record = some [image] →
    ∃ u t, exec (.pointFire slot a b c core ctx) s = .next u ∧ (u.ctx key).state = .loading ∧ u.strandAt key = some t ∧
      t.xs.getD 1 0 = BitVec.ofNat 64 a ∧ t.xs.getD 2 0 = BitVec.ofNat 64 b ∧ t.xs.getD 3 0 = BitVec.ofNat 64 c ∧
      t.xs.getD 5 0 = BitVec.ofNat 64 (lrArg (s.slot slot).record) ∧ (∀ n, 6 ≤ n → t.xs.getD n 0 = 0) ∧ t.ps = 0 ∧
      t.ident.work = .point slot a b c ∧ t.ident.image = image ∧ t.pos.pc = image + 64 + kernelEntry s (lrAsid (s.slot slot).record) image ∧
      (u.slot slot).firedTotal = (s.slot slot).firedTotal + 1) ∧
  (∀ (s : State) (slot a b c : Nat) (keys : List Nat), nextShot s = some ⟨slot, a, b, c, keys⟩ →
    launchIsSkein s (s.slot slot).record = true →
    ∃ u k, exec (.skeinBind slot a b c) s = .next u ∧ u.skeins = s.skeins ++ [k] ∧ k.members = keys ∧ k.slot = slot ∧
      (k.x, k.y, k.z) = (a, b, c) ∧ k.done = [] ∧ (u.slot slot).firedTotal = (s.slot slot).firedTotal + 1) ∧
  (∀ (s : State) (slot a b c : Nat) (p : InFlight), (s.slot slot).flyingAt a b c = some p → p.retired = true → p.returning = false →
    regionOpen s slot (s.slot slot).launch a b c = false →
    exec (.pointCompletion slot a b c) s = .next (completePoint s slot a b c)) ∧
  (∀ (s : State) (p : Packet), s.packets.find? (fun x => x.id == p.id) = some p → p.arrived = false → p.parkedOn = none → p.ident.uid = 0 →
    (s.core p.core).inbox.length < 256 →
    ∃ u, exec (.taskPacketArrival p.id) s = .next u ∧ (u.core p.core).inbox = (s.core p.core).inbox ++ [p.id] ∧ u.ctxs = s.ctxs ∧
      u.mem = s.mem ∧ ∀ q ∈ u.packets, q.id = p.id → q.arrived = true) ∧
  (∀ (s : State) (core ctx key id : Nat) (rest : List Nat) (p : Packet), key = 2 * core + ctx → ctx < 2 → (s.core core).inbox = id :: rest →
    s.packets.find? (fun x => x.id == id) = some p → taskFits s p key = true →
    goesFirst (heldClaims s ++ pointClaims s) key p.ident.prio p.id = false →
    ∃ u t, exec (.taskBind core ctx) s = .next u ∧ (u.ctx key).state = .loading ∧ u.strandAt key = some t ∧ (u.core core).inbox = rest ∧
      t.xs.getD 1 0 = BitVec.ofNat 64 p.addr ∧ t.xs.getD 2 0 = p.arg0 ∧ t.xs.getD 3 0 = p.arg1 ∧ t.xs.getD 4 0 = 0 ∧
      t.ident.work = p.ident.work ∧ t.ident.weight = p.weight ∧ t.sys.launch = p.launchWord)

/-- R131, R142, R145, R146, R148, R154, R157-R159: the stream engine brings the next element of a linear load spool into its buffer, or ends its
stream, and writes the oldest element of a linear store spool; a copy moves one element after another, each as its
source's code or converted to its destination's format, one that is out of its source filled, and the elements of one 64-byte line at one
time; it records an error once in its tag, and at its end is no longer counted: the last of a tag sets its pending bit. -/
def Obligations.StreamAndCopyEngines : Prop :=
  (∀ (s s1 : State) (key core ctx : Nat) (n : SpoolNo) (st : Strand) (sp : Spool) (b : List Byte), key = 2 * core + ctx → ctx < 2 →
    s.strandAt key = some st → st.spools.getD n.toNat none = some sp → canFetch s key st n.toNat = true → spKind sp.desc = 0 →
    (spTotal sp.desc ≤ sp.moved → ∃ u t sp', exec (.spoolElementFetch core ctx n) s = .next u ∧ u.strandAt key = some t ∧
      t.spools.getD n.toNat none = some sp' ∧ sp'.ended = true ∧ sp'.buf = sp.buf ∧ u.mem = s.mem) ∧
    (sp.moved < spTotal sp.desc → spoolRead s key sp (spAddr sp.desc sp.moved) 128 = (.ok b, s1) → s1.strandAt key = some st →
      ∃ u t sp' e, exec (.spoolElementFetch core ctx n) s = .next u ∧ u.strandAt key = some t ∧ t.spools.getD n.toNat none = some sp' ∧
        sp'.buf = sp.buf ++ [e] ∧ e.data = leNat b ∧ e.fault = none ∧ sp'.moved = sp.moved + 1 ∧ sp'.count = sp.count ∧ u.mem = s1.mem)) ∧
  (∀ (s s1 : State) (key core ctx : Nat) (n : SpoolNo) (st : Strand) (sp : Spool) (e : SpoolElem) (rest : List SpoolElem),
    key = 2 * core + ctx → ctx < 2 → s.strandAt key = some st → st.spools.getD n.toNat none = some sp → sp.buf = e :: rest →
    spKind sp.desc = 1 → writeWaits s key st sp = false →
    badData s (spoolAgent key st sp) sp.banks (spAddr sp.desc sp.moved) 128 .w = false →
    engineWrite s (spoolAgent key st sp) (spAddr sp.desc sp.moved) (leBytes 128 (elemOf 128 0 e.data)) = (none, s1) →
    exec (.storeSpoolWrite core ctx n) s = .next (setSpool s1 key n.toNat (some { sp with buf := rest, moved := sp.moved + 1 }))) ∧
  (∀ (s : State) (c : Copy), s.copies.find? (fun x => x.id == c.id) = some c → c.engine.isSome = true → c.next < tlPoints c.src →
    (∀ s1 u, copyPoint s c = (none, s1) →
      u = { s1 with copies := s1.copies.map fun x => if x.id == c.id then { x with next := c.next + 1 } else x } →
      exec (.copyElement c.id) s = (match copyLines s c c.next, copyLines u { c with next := c.next + 1 } (c.next + 1) with
        | some p, some q => if q.1 = p.2 then exec (.copyElement c.id) u else .next u
        | _, _ => .next u)) ∧
    (∀ r s1 st, copyPoint s c = (some r, s1) → s1.strandAt c.ctx = some st → st.ident.uid = c.uid → c.tag < 16 →
      ∃ u t, exec (.copyElement c.id) s = .next u ∧ u.strandAt c.ctx = some t ∧ (t.tags.getD c.tag ⟨0, 0, false, 0⟩).err = true ∧
        ((st.tags.getD c.tag ⟨0, 0, false, 0⟩).err = false → (t.tags.getD c.tag ⟨0, 0, false, 0⟩).cause = r.cause ∧
          (t.tags.getD c.tag ⟨0, 0, false, 0⟩).prog = c.next) ∧
        ((st.tags.getD c.tag ⟨0, 0, false, 0⟩).err = true → t = st))) ∧
  (∀ (s s1 : State) (c : Copy) (inDst inSrc : Bool) (da sa f g v : Nat) (b : List Byte), tlElem c.dst (tlPoint c.src c.next) = (inDst, da) →
    tlElem c.src (tlPoint c.src c.next) = (inSrc, sa) →
    (inDst = false ∨ inSrc = false ∧ tlFillm c.src ≠ 0 → copyPoint s c = (none, s)) ∧
    (inDst = true → locate s c c.dst da .w = (.ok (.fmt g), s) → overrun s c da (fmtBytes g) .w = false →
      (inSrc = true ∧ locate s c c.src sa .r = (.ok (.fmt f), s) ∧ overrun s c sa (fmtBytes f) .r = false ∧
          engineRead s c.agent sa (fmtBytes f) = (.ok b, s) ∧ v = leNat b ∨
        inSrc = false ∧ tlFillm c.src = 0 ∧ f = tlFmt c.src ∧ v = tlFill c.src % 2 ^ (8 * fmtBytes f)) →
      engineWrite s c.agent da (leBytes (fmtBytes g) (if f = g then v else (convert g f .rne (tlSat c.dst) v).1)) = (none, s1) →
      copyPoint s c = (none, s1))) ∧
  (∀ (s : State) (c : Copy) (st : Strand), s.copies.find? (fun x => x.id == c.id) = some c → c.engine.isSome = true →
    tlPoints c.src ≤ c.next → s.strandAt c.ctx = some st → st.ident.uid = c.uid → c.tag < 16 →
    ∃ u t, exec (.copyCompletion c.id) s = .next u ∧ u.strandAt c.ctx = some t ∧ u.copies.all (fun x => x.id != c.id) = true ∧
      (t.tags.getD c.tag ⟨0, 0, false, 0⟩).out = (st.tags.getD c.tag ⟨0, 0, false, 0⟩).out - 1 ∧
      t.sys.umask = (if (st.tags.getD c.tag ⟨0, 0, false, 0⟩).out ≤ 1 then st.sys.umask ||| BitVec.ofNat 64 (2 ^ (32 + c.tag))
        else st.sys.umask) ∧ t.xs = st.xs ∧ u.mem = s.mem)

/-- R163-R165, R206-R210, R213, R214, R290, R291: merges and collectives start in their order as far as places are free, a merge behind
the pushes before it; a merge that ends publishes its pairs to its spool. A core's probe engine works at the first request of its queue; a
probe starts, reads its fibres one after another, publishes its ascending identifiers, padded with all ones to elements of 32, and writes
its header; an update starts, an HREH claiming its rows, and goes on step by step to its last; one that faults stays in the queue and its
strand has the report. A collective of one package writes its own contribution and its completion word; one that fails, FABRIC_ERROR. -/
def Obligations.RequestEngines : Prop :=
  (∀ (s : State) (j : MergeJob), s.merges.find? (fun m => m.id == j.id) = some j →
    (j.running = false → mergesRunning s j.cluster < 8 → (∀ n ∈ mergesWaiting s j.cluster, j.id ≤ n) → mergeWaits s j = false →
      exec (.mergeStart j.id) s = .next { s with merges := s.merges.map fun m => if m.id == j.id then { m with running := true } else m }) ∧
    (j.running = true → ∀ m failure s1, mergeAll j s = (m, failure, s1) → ∃ u, exec (.mergeEnd j.id) s = .next u ∧ u.mem = s1.mem ∧
      u.merges.all (fun x => x.id != j.id) = true ∧ ∀ k st sp n, s1.strandAt k = some st → st.ident.uid = j.uid →
        st.spools.getD n none = some sp → sp.job = some j.id → ∃ t sp', u.strandAt k = some t ∧ t.spools.getD n none = some sp' ∧
          sp'.closed = true ∧ sp'.ids = m.written ∧ sp'.failure = failure ∧
          sp'.published = (if failure = none then (m.written + 15) / 16 else m.written / 16))) ∧
  (∀ (s : State) (core ctx : Nat) (q : ProbeReq) (p : Plan), probeHead s core = some q → q.kind = 0 →
    (q.started = false →
      (∀ q' s', (probeBegin q.agent q).on s = (.ok q', s') → q'.started = true ∧
        exec (.probeStart core ctx) s = .next (setRequest s' core q.id (some q'))) ∧
      (∀ r s', (probeBegin q.agent q).on s = (.error r, s') → exec (.probeStart core ctx) s = .next (failProbe s' core q r))) ∧
    (q.started = true → q.plan = some p →
      (q.found.length < p.sigs.length + p.oldSigs.length → ∀ l s', (nextFibre q.agent q p).on s = (.ok l, s') →
        exec (.probeEnd core ctx) s = .next (setRequest s' core q.id (some { q with found := q.found ++ [l] }))) ∧
      (p.sigs.length + p.oldSigs.length ≤ q.found.length →
        (q.union = none →
          exec (.probeEnd core ctx) s = .next (setRequest (numbered s) core q.id (some { q with union := some s.fresh }))) ∧
        ∀ n, q.union = some n → n ≠ 0 → mergesRunning s (clusterOf core) < 8 → (∀ k ∈ mergesWaiting s (clusterOf core), n ≤ k) →
          exec (.probeEnd core ctx) s = .next (setRequest s core q.id (some { q with union := some 0 }))) ∧
      (p.sigs.length + p.oldSigs.length ≤ q.found.length → q.union = some 0 → ∀ ids out, ids = probeIds q p → out = ids.take (bits q.control 47 32) →
        ids.Pairwise (· < ·) ∧ (out.length ≤ 32 → ∀ s1 s2,
          engineWrite s q.agent (q.area + 64) ((out ++ List.replicate (32 - out.length) 0xFFFFFFFF).flatMap (leBytes 4)) = (none, s1) →
          engineWrite (s1.modByUid q.uid (publish q.id 1 out.length none)) q.agent q.area
            (leBytes 64 (2 ^ 104 + min ids.length 0xFFFFFFFF * 2 ^ 64 + out.length)) = (none, s2) →
          exec (.probeEnd core ctx) s = .next (setRequest s2 core q.id none))))) ∧
  (∀ (s : State) (core ctx : Nat) (q : ProbeReq), probeHead s core = some q → q.kind ≠ 0 →
    (q.started = false →
      (∀ s1 q', (updateBegin q.agent q).on s = (.ok q', s1) → q'.started = true ∧
        exec (.updateStart core ctx) s = .next (setRequest s1 core q.id (some q')) ∧
        (q.kind = 3 → q.claim = none → ∃ t s', (readTable q.agent q.fams q.table).on s = (.ok t, s') ∧
          q'.claim = some (tdCursor t.desc, min (tdCursor t.desc + q.arg) (tdNrows t.desc)))) ∧
      (∀ r s', (updateBegin q.agent q).on s = (.error r, s') →
        exec (.updateStart core ctx) s = .next (failUpdate (unwrittenState s s') core q r))) ∧
    (q.started = true →
      (∀ s1 o, (updateStep q.agent q).on s = (.ok o, s1) → exec (.updateEnd core ctx) s = .next (setRequest s1 core q.id o)) ∧
      (∀ r s', (updateStep q.agent q).on s = (.error r, s') →
        exec (.updateEnd core ctx) s = .next (failUpdate (unwrittenState s s') core q r)))) ∧
  (∀ (s : State) (core key : Nat) (q : ProbeReq) (r : Raise) (st : Strand), s.strandAt key = some st → st.ident.uid = q.uid →
    (failUpdate s core q r).strandAt key = some { st with reports := st.reports ++ [⟨4, r, true⟩] } ∧
    ∀ q' ∈ ((failUpdate s core q r).core core).probes, q'.id = q.id → q'.failed = true ∧ q'.progress = q.progress) ∧
  (∀ (s : State) (core : Nat) (q : ProbeReq) (rest : List ProbeReq), (s.core core).probes = q :: rest →
    (∀ f ∈ q :: rest, f.failed = false) → probeHead s core = some q) ∧
  (∀ (s : State) (c : Collective), s.collectives.find? (fun x => x.id == c.id) = some c →
    (c.running = false → (s.collectives.filter fun x => x.running).length < 8 → (s.collectives.find? fun x => !x.running) = some c →
      exec (.collectiveStart c.id) s =
        .next { s with collectives := s.collectives.map fun x => if x.id == c.id then { x with running := true } else x }) ∧
    (c.running = true → (bitSet 1024 c.mask).length = 1 → ∀ s1 s2, (collectiveData c 0 []).on s = (.ok (), s1) →
      engineWrite s1 c.agent (cdCmpl c.desc) (leBytes 8 (1 + 2 ^ 32 * cdCid c.desc)) = (none, s2) →
      exec (.collectiveEnd c.id [] false) s = .next { s2 with collectives := s2.collectives.filter fun x => x.id != c.id }) ∧
    (c.running = true → ∀ s2 others down, (down = true ∨ s.inFabric = false ∧ 1 < (bitSet 1024 c.mask).length ∧
        others.length + 1 = (bitSet 1024 c.mask).length ∧ ∀ o ∈ others, o.length = cdCount c.desc * fmtBytes (cdFmt c.desc)) →
      engineWrite s c.agent (cdCmpl c.desc) (leBytes 8 (1 + 2 ^ 8 * 0x1C + 2 ^ 32 * cdCid c.desc)) = (none, s2) →
      exec (.collectiveEnd c.id others down) s = .next { s2 with collectives := s2.collectives.filter fun x => x.id != c.id }))

/-- R178, R188-R190: the array takes the first element that is due, lets the first instruction that is over leave its queue, and starts
the first one that may start; a fault of a start makes the instruction an entry for the trap; a multicast whose members have all arrived
reads its next cell row where every receive queue has room, and is over once they have taken every row. -/
def Obligations.ArrayEvents : Prop :=
  (∀ (s : State) (key core ctx : Nat) (st : Strand) (o : ArrOp), key = 2 * core + ctx → ctx < 2 → s.strandAt key = some st → st.dead = false →
    st.halted = false → ((s.ctx key).state = .issuing ∨ (s.ctx key).state = .saving) → st.pos.susp = [] →
    (∀ s1, dueStart st.arr st.pos.line.bt = some o → (st.draining = false ∨ o.isCluster = false) → startOp s key st o st.pos.line.bt = .ok s1 →
      exec (.arrayStart core ctx) s = .next s1) ∧
    (∀ r, dueStart st.arr st.pos.line.bt = some o → (st.draining = false ∨ o.isCluster = false) →
      startOp s key st o st.pos.line.bt = .error r →
      ∃ t e, exec (.arrayStart core ctx) s = .next (s.setStrandAt key t) ∧ e ∈ t.faults ∧ e.cause = r.cause ∧ t.xs = st.xs ∧
        t.arr.ops = st.arr.ops.filter fun x => x.seq < o.seq) ∧
    (∀ s1 start, dueElement st.arr st.pos.line.bt = some (o, start) → readElement s key o start = .got () s1 →
      exec (.arrayElement core ctx) s = .next s1) ∧
    (dueDone st.arr st.pos.line.bt = some o → o.set.statC = false →
      exec (.arrayCompletion core ctx) s =
        .next (s.setStrandAt key { st with arr := { st.arr with ops := st.arr.ops.filter fun x => x.seq != o.seq } }))) ∧
  (∀ (s : State) (c : Cast) (e : Nat), s.casts.find? (fun x => x.id == c.id) = some c → e = laneTerms c.fmt →
    (∀ m ∈ bitSet 8 (bits c.shape.toNat 63 56), m ∈ c.arrived) →
    ((∀ m ∈ bitSet 8 (bits c.shape.toNat 63 56), c.rows.length < (tabGet c.taken m).getD 0 + 8) →
      c.rows.length < (bits c.shape.toNat 16 7 + e) / e →
      (∃ m ∈ bitSet 8 (bits c.shape.toNat 63 56), (tabGet c.taken m).getD 0 ≠ (bits c.shape.toNat 16 7 + e) / e) →
      ∃ u row, castRow s c c.rows.length row ∧ exec (.multicastRowRead c.id) s = .next u ∧ u.mem = s.mem ∧ u.ctxs = s.ctxs ∧
        u.casts.find? (fun x => x.id == c.id) = some { c with rows := c.rows ++ [row] } ∧
        ∀ x, x.id ≠ c.id → (x ∈ u.casts ↔ x ∈ s.casts)) ∧
    ((∀ m ∈ bitSet 8 (bits c.shape.toNat 63 56), (tabGet c.taken m).getD 0 = (bits c.shape.toNat 16 7 + e) / e) →
      exec (.multicastRowRead c.id) s = .next { s with casts := s.casts.filter fun x => x.id != c.id }))

/-! ### Time, the host, debugging, evacuation and power -/

/-- R286, R289, R293, R295: an element that this package admits arrives in its ring, and one that it does not leaves no trace; sixteen sync messages in a row within 40 ns lock the timebase, one
beyond 80 ns or 3 s without one unlock it; a WAITT whose time has come waits no longer. -/
def Obligations.ArrivalsAndTime : Prop :=
  (∀ (s : State) (source asid k : Nat) (v : Word),
    (sluiceAdmitted s source = true → asid < 4096 → k < 4 → sluiceBound (s.readNat (sluiceEntryAddr s asid k) 32) = true →
      sluiceRoom s asid k = true → exec (.sluiceArrival source asid k v) s = .next (sluiceArrive s asid k v)) ∧
    (sluiceAdmitted s source = false → exec (.sluiceArrival source asid k v) s = .next s)) ∧
  (∀ (s : State) (offset : Int) (domain : Nat), bit s.host.ptpcfg.toNat 9 = true → domain = bits s.host.ptpcfg.toNat 7 0 →
    (-40 ≤ offset → offset ≤ 40 → 15 ≤ s.time.run → ∃ u, exec (.syncMessage offset domain) s = .next u ∧ u.time.locked = true ∧
      u.time.ever = true ∧ u.time.now = s.time.now ∧ u.ctxs = s.ctxs ∧ u.mem = s.mem) ∧
    ((offset < -80 ∨ 80 < offset) → ∃ u, exec (.syncMessage offset domain) s = .next u ∧ u.time.locked = false ∧ u.time.run = 0 ∧
      (s.time.locked = true → u.time.hold = true ∧ u.time.now = s.time.now) ∧
      (s.time.locked = false → 1000000 < offset →
        u.time.now.toNat = min (2 ^ 64 - 1) (s.time.now.toNat + offset.toNat)))) ∧
  (∀ (s : State), ∃ u, exec .syncTimeout s = .next u ∧ u.time.locked = false ∧ u.time.now = s.time.now ∧
    (s.time.locked = true → u.time.hold = true) ∧ u.ctxs = s.ctxs ∧ u.mem = s.mem) ∧
  (∀ (s : State) (core ctx : Nat) (st : Strand), ctx < 2 → s.strandAt (2 * core + ctx) = some st → st.frozen = some .time →
    st.waits.wake.toNat ≤ s.time.now.toNat →
    exec (.waittExpiry core ctx) s =
      .next (s.setStrandAt (2 * core + ctx) { st with frozen := none, waits := { st.waits with wake := 0 } }))

/-- R281, R283, R286, R294, R296-R299: a boot that verifies releases the dies with STCFG as the board record gives it, and one that fails fixes
EN at 0; a quote answers the measurement registers and the nonce, signed; only a command signed under the fused key raises the minimum
version; the identity record is read as it stands; DEVCTL takes DBGEN only while EN is 0; the host's registers take their fields, some
only while EN is 0, and EVAC keeps what is written of its control bits. -/
def Obligations.BootAndHostRegisters : Prop :=
  (∀ (s : State), s.fozor.boot = 0 →
    (manifestOk s.fozor.minVersion = true → (noRecord boardRecord || recordValid boardRecord) = true →
      ∃ u, exec .powerOnBoot s = .next u ∧ u.fozor.boot = 1 ∧ u.host.stcfg = appliedStcfg boardRecord ∧ u.host.en = s.host.en ∧
        u.mem = s.mem ∧ u.ctxs = s.ctxs) ∧
    (manifestOk s.fozor.minVersion = false → ∃ u, exec .powerOnBoot s = .next u ∧ u.fozor.boot = 2 ∧ u.host.en = false ∧
      ∀ v, ∃ w, exec (.devctl v) u = .next w ∧ w.host.en = false) ∧
    ((noRecord boardRecord || recordValid boardRecord) = false → ∃ u, exec .powerOnBoot s = .next u ∧ u.fozor.boot = 2 ∧
      u.host.en = false)) ∧
  (∀ (s : State) (nonce : List Byte), nonce.length = 32 → exec (.quote nonce) s = .next { s with reply :=
    (s.fozor.measures.toList.flatten ++ nonce ++ Config.mldsaSign (s.fozor.measures.toList.flatten ++ nonce), false) }) ∧
  (∀ (s : State) (version : Nat) (sig : List Byte), ∃ u, exec (.securityVersionRaise version sig) s = .next u ∧
    (u.fozor.minVersion ≠ s.fozor.minVersion → u.fozor.minVersion = version ∧ s.fozor.minVersion < version ∧
      Config.shake256 Config.manifestKey = Config.fusedKeyDigest ∧ Config.mldsaVerify Config.manifestKey (leBytes 8 version) sig = true) ∧
    u.fozor.measures = s.fozor.measures ∧ u.host = s.host ∧
    (Config.shake256 Config.manifestKey = Config.fusedKeyDigest → Config.mldsaVerify Config.manifestKey (leBytes 8 version) sig = true →
      s.fozor.minVersion < version → u = { s with fozor := { s.fozor with minVersion := version } })) ∧
  (∀ (s : State) (off n : Nat), exec (.identityRead off n) s = .next { s with reply := ((identityRecord.drop off).take n, false) }) ∧
  (∀ (s : State) (v : Word), ∃ u, exec (.devctl v) s = .next u ∧ (s.fozor.boot ≠ 2 → u.host.en = v.getLsbD 0) ∧
    u.host.dbgen = (if s.host.en then s.host.dbgen else v.getLsbD 1) ∧ u.mem = s.mem ∧ u.ctxs = s.ctxs) ∧
  (∀ (s : State) (die : Nat) (v : Word) (p : SavePool), die < 8 → p = s.host.pools.getD die ⟨0, [], 0, 0⟩ →
    p.blocks.length < 2 ^ (p.word0.toNat % 32) → ∃ u, exec (.svpoolAppend die v) s = .next u ∧
      (u.host.pools.getD die ⟨0, [], 0, 0⟩).blocks = p.blocks ++ [v.toNat / 2 ^ 20 % 2 ^ 37 * 2 ^ 20] ∧ u.ctxs = s.ctxs) ∧
  (∀ (s : State) (v : Word), v &&& 0x3FF ≠ s.host.ptpcfg → ∃ u, exec (.ptpcfg v) s = .next u ∧ u.host.ptpcfg = v &&& 0x3FF ∧
    u.time.locked = false ∧ u.time.now = s.time.now) ∧
  (∀ (s : State) (v : Word), (s.host.en = false → ∃ u, exec (.hostRegisterWrite 0x0020 v) s = .next u ∧
      readHostReg u 0x0020 = v &&& 0x01FFFFFFFFFFF000) ∧
    (s.host.en = true → exec (.hostRegisterWrite 0x0020 v) s = .next s) ∧
    (∃ u, exec (.hostRegisterWrite 0x0030 v) s = .next u ∧ (readHostReg u 0x0030).toNat = max 4096 (v.toNat % 2 ^ 32)) ∧
    (∃ u, exec (.hostRegisterWrite 0x0340 v) s = .next u ∧ readHostReg u 0x0340 = v &&& 0x3FF) ∧
    ((s.host.evacState ≠ 0 ∨ v.getLsbD 0 = false ∧ v.getLsbD 2 = false) → ∃ u, exec (.hostRegisterWrite 0x0310 v) s = .next u ∧
      readHostReg u 0x0310 &&& 0x3FF0007 = v &&& 0x3FF0007))

/-- R281: with DBGEN set, HALT makes a halt of the selected strand pending, RESUME ends a halt, STEP ends it and asks for the next one; a
command that does not fit is refused; a pending halt is taken at a quiescent point; DBGDATA reads and writes the halted strand's words. -/
def Obligations.DebuggerCommands : Prop :=
  (∀ (s : State) (key : Nat) (st : Strand), key = debugKey s → s.strandAt key = some st →
    (s.host.dbgen = true → ((s.ctx key).state = .issuing ∨ (s.ctx key).state = .ready) →
      (st.halted = false → exec .halt s = .next ((setRefused s false).setStrandAt key { st with haltPending := true })) ∧
      (st.halted = true → st.drafts = [] → exec .debugResume s = .next ((setRefused s false).setStrandAt key { st with halted := false })) ∧
      (st.halted = true → st.drafts = [] → exec .step s =
        .next ((setRefused s false).setStrandAt key { st with halted := false, haltPending := true, stepping := true }))) ∧
    ((s.host.dbgen = false ∨ st.halted = false) →
      exec .debugResume s = .next (setRefused s true) ∧ exec .step s = .next (setRefused s true)) ∧
    (s.host.dbgen = false → exec .halt s = .next (setRefused s true)) ∧
    (s.host.dbgen = true → st.halted = true →
      exec (.dbgdata none) s = .next { s with reply := (leBytes 8 (strandWord key st s.host.dbgaddr.toNat), false) } ∧
      ∀ v, exec (.dbgdata (some v)) s = .next (s.setStrandAt key (putStrandWord st s.host.dbgaddr.toNat v.toNat)))) ∧
  (∀ (s : State) (core : Nat) (st : Strand), s.strandAt (2 * core) = some st → haltDue s (2 * core) = true →
    haltDue (haltAt s (2 * core)) (2 * core + 1) = false →
    exec (.debuggerHalt core) s = .next (s.setStrandAt (2 * core) { st with halted := true, haltPending := false }))

/-- R282, R299-R302: GO leaves IDLE for STOP where the target receives and fails with FABRIC_ERROR where it does not; ABORT goes on to the
drain and back to IDLE; STOP, STREAM and DRAIN end in their order in QUIET, where every station is idle; a time-out fails, and a change of
state is signalled on vector 8; RECV admits the package in TARGET (inferred, log 41), and the adoption of a sound levee image makes this
package answer to its identifier. -/
def Obligations.EvacuationStates : Prop :=
  (∀ (s : State), s.host.evacState = 0 →
    ((s.inFabric = false ∨ Config.foreignReceives s.ticks s.host.evacTarget = false) → ∃ u, exec .go s = .next u ∧ u.host.evacState = 5 ∧
      u.host.evacCause = 0x1C ∧ u.ctxs = s.ctxs ∧ u.mem = s.mem) ∧
    (s.inFabric = true → Config.foreignReceives s.ticks s.host.evacTarget = true → s.collectives = [] → ∃ u, exec .go s = .next u ∧
      u.host.evacState = 1 ∧ u.mem = s.mem ∧ ∀ k st, k < 1024 → s.strandAt k = some st → ∃ t, u.strandAt k = some t ∧
        t.leaving = some (st.leaving.getD 4) ∧ t.xs = st.xs) ∧
    (∃ u, exec .recv s = .next u ∧ u.host.evacState = 6 ∧ u.host.evacSource = some s.host.evacTarget ∧ u.ctxs = s.ctxs)) ∧
  (∀ (s : State), (s.host.evacState = 1 ∨ s.host.evacState = 2) → ∃ u, exec .abort s = .next u ∧ u.host.evacState = 3 ∧
    u.host.evacAbort = true ∧ u.ctxs = s.ctxs) ∧
  (∀ (s : State), coresEmpty s = true →
    (s.host.evacState = 1 → ∃ u, exec .evacStopComplete s = .next u ∧ u.host.evacState = 2 ∧
      ∀ n, n < 64 → (s.slot n).state ≠ .free → (u.slot n).state = .saved) ∧
    (s.host.evacState = 3 → enginesIdle s = true → s.host.evacAbort = false → ∃ u, exec .evacDrainComplete s = .next u ∧
      u.host.evacState = 4 ∧ u.host.unlatch = true ∧ ∀ n, n < 96 → n ∈ u.stationsDown) ∧
    (s.host.evacState = 3 → enginesIdle s = true → s.host.evacAbort = true → ∃ u, exec .evacDrainComplete s = .next u ∧ u.host.evacState = 0 ∧ u.host.en = false)) ∧
  (∀ (s : State), s.host.evacState = 2 → ∃ u, exec .evacStreamComplete s = .next u ∧ u.host.evacState = 3 ∧ u.mem = s.mem) ∧
  (∀ (s : State), 1 ≤ s.host.evacState → s.host.evacState ≤ 3 → ∃ u, exec .evacTimeout s = .next u ∧ u.host.evacState = 5 ∧ u.ctxs = s.ctxs ∧
    u.host.msix.getD 8 0 = s.host.msix.getD 8 0 + 1) ∧
  (∀ (s : State) (j : Nat), s.host.evacState = 6 → s.host.evacSource = some j →
    (∀ s1, adoptAll s = some s1 → ∃ u, exec (.adopted j) s = .next u ∧ u.host.evacState = 7 ∧ u.host.adopted = some j ∧
      u.host.evacSource = none ∧ u.saved = s1.saved ∧ u.slots = s1.slots) ∧
    (adoptAll s = none → ∃ u, exec (.adopted j) s = .next u ∧ u.host.evacState = 5 ∧ u.host.evacCause = 0x22))

/-- R42, R285, R301, R304: a station's link goes down and comes back; a throttle sets the clock of its core, in steps of 100 MHz from 0.4 to
1.4 GHz, and with it, to one frequency, every core that runs a strand of its polders and skeins, no clock rising where it lowers one; above 105 degrees with every clock at 0.4 GHz, and at the loss of power, the package stops and keeps of its state only what is fused (inferred, log 42). -/
def Obligations.ClocksAndPower : Prop :=
  (∀ (s : State) (n : Nat), n < 96 →
    (∃ u, exec (.stationDown n false) s = .next u ∧ n ∈ u.stationsDown ∧ ∀ k, k ≠ n → (k ∈ u.stationsDown ↔ k ∈ s.stationsDown)) ∧
    (∃ u, exec (.stationDown n true) s = .next u ∧ n ∉ u.stationsDown ∧ ∀ k, k ≠ n → (k ∈ u.stationsDown ↔ k ∈ s.stationsDown))) ∧
  (∀ (s : State) (core mhz : Nat), core < 512 → mhz % 100 = 0 → 400 ≤ mhz → mhz ≤ 1400 → ∃ u, exec (.throttle core mhz) s = .next u ∧
    core ∈ throttledWith s core ∧ u.ctxs = s.ctxs ∧ u.mem = s.mem ∧ (∀ n, n ∉ throttledWith s core → u.core n = s.core n) ∧
    ((s.core core).mhz ≤ mhz → ∀ n ∈ throttledWith s core, (u.core n).mhz = mhz) ∧
    (mhz < (s.core core).mhz → ∃ f, f ≤ mhz ∧ (∀ n ∈ throttledWith s core, (u.core n).mhz = f ∧ f ≤ (s.core n).mhz) ∧
      (f = mhz ∨ ∃ n ∈ throttledWith s core, f = (s.core n).mhz))) ∧
  (∀ (s : State) (i : Instr) (celsius : Nat), (i = .powerOff ∨ i = .thermalShutdown celsius ∧ 105 < celsius ∧
      ∀ n, n < 512 → (s.core n).mhz = 400) →
    ∃ u, exec i s = .next u ∧ u.powered = false ∧ u.mem = [] ∧ u.ctxs = [] ∧ u.slots = [] ∧ u.fozor.minVersion = s.fozor.minVersion)

/-! ### The machine -/

/-- R74, R116, R128, R281, R283, R293, R296, R299: right after reset no context holds a strand, no slot is taken, every scratchpad bank has the
format n8, the host's enables are 0, the time is not locked, EVAC is idle and Fozor has not booted the package. The values that the
spec does not give, memory's zeroes among them, are the model's choice (log 2, log 3). -/
def Obligations.ResetState : Prop :=
  (∀ k, State.reset.strandAt k = none ∧ (State.reset.ctx k).state = .free) ∧ (∀ n, (State.reset.slot n).state = .free) ∧
  (∀ n b, b < 16 → (State.reset.core n).bfmt.getD b 0 = 4) ∧ (∀ n, (State.reset.core n).tvec = 0 ∧ (State.reset.core n).cecnt = 0 ∧
    (State.reset.core n).uecnt = 0 ∧ (State.reset.core n).asat = 0 ∧ (State.reset.core n).anan = 0) ∧
  (∀ n c, n < 512 → c < 2 → (State.reset.ctx (2 * n + c)).part.toNat = 64 * 2 ^ 16 + 64 * c) ∧
  State.reset.host.en = false ∧ State.reset.host.dbgen = false ∧ State.reset.host.evacState = 0 ∧ State.reset.host.tslice = 1048576 ∧
  State.reset.time.locked = false ∧ State.reset.fozor.boot = 0 ∧ State.reset.powered = true ∧ Memory.wf State.reset.mem = true ∧
  State.reset.poison = []

/-- The model's own invariant (log 2): the list that holds memory is in its canonical form, and every step that answers a next state
keeps it so. -/
def Obligations.StepKeepsMemoryCanonical : Prop :=
  ∀ (s t : State), Memory.wf s.mem = true → step s = .next t → Memory.wf t.mem = true

/-- R52, R54, R55, R119, R134: what a header says of the bundle that it begins; fetch takes what the bytes at the program counter, up to
the end of their line, decode to, or, where they end the line, what stands at the next; outside the code it faults with FETCH_BOUND and
where no code can be read with FETCH_PAGE. Where what it finds is a bundle of one instruction, with nothing due before it, a step
executes that instruction in the state that stands before the bundle, and time moves on; several instructions are issued as one bundle,
and an idle bundle as one. -/
def Obligations.StepRunsDecoded : Prop :=
  (∀ (sup : Bool) (bytes : List Byte) (h : Nat), h = leNat (bytes.take 2) →
    ((bytes.length < 2 ∨ h = 0) → decodeBundle sup bytes = .endOfLine) ∧
    (2 ≤ bytes.length → ruledOut bytes → decodeBundle sup bytes = .illegal) ∧
    (2 ≤ bytes.length → bits h 15 12 = 0 → h % 2 ^ 8 = 0 → 1 ≤ bits h 11 9 →
      decodeBundle sup bytes = .idle (bits h 11 9) (bit h 8)) ∧
    ∀ b, decodeBundle sup bytes = .bundle b → b.idle = bits h 11 9 ∧ b.quiescent = bit h 8 ∧
      b.length = 2 + 7 * (slotsOfMask (h % 2 ^ 8)).length ∧ decodeSlots (slotsOfMask (h % 2 ^ 8)) (bytes.drop 2) = some b.ops ∧
      b.length ≤ bytes.length) ∧
  (∀ (s : State) (a pa n : Nat) (sp : Space), spaceCheck s [(pa, n)] = .ok sp → isBlock sp = false → (∀ j, sp ≠ .fabric j) →
    codeAt s a pa n = .ok (s.readPhys pa n)) ∧
  (∀ (s : State) (a : Nat) (b : List Byte) (r : FetchResult), a = s.strand.pos.pc → codeLine s a b → decodeBundle (isSupervisor s.coreNo) b = r →
    (r ≠ .endOfLine → fetchOp s = .ok ((a, r), s)) ∧
    (r = .endOfLine → ∀ c r', codeLine s (a / 64 * 64 + 64) c → decodeBundle (isSupervisor s.coreNo) c = r' → r' ≠ .endOfLine →
      fetchOp s = .ok ((a / 64 * 64 + 64, r'), s))) ∧
  (∀ (s : State) (a lo hi : Nat), a = s.strand.pos.pc → codeBounds s = (lo, hi) → s.issue.mode = 0 →
    ((a < lo ∨ hi ≤ a) → fetchOp s = .error (.raise ⟨0x04, BitVec.ofNat 64 a, false⟩)) ∧
    (lo ≤ a → a < hi → 2 ≤ 64 - a % 64 → (2 ^ 57 ≤ a ∨ through (strandMap a) s = some (none, s) ∨
        ∃ m, through (strandMap a) s = some (some m, s) ∧ permitted .x s.priv m.perms = false) →
      fetchOp s = .error (.raise ⟨0x05, BitVec.ofNat 64 a, false⟩))) ∧
  (∀ (s s1 s2 : State) (st st1 : Strand) (a : Nat) (r : FetchResult), s.agenda = [] → s.powered = true → s.fozor.boot = 1 →
    pickEvent (enabledEvents s) (Config.choice s.ticks % ((enabledEvents s).length + 1)) = none →
    s.strandAt s.focus = some st → (s.ctx s.focus).state = .issuing → s.host.evacState ≠ 6 → coreHalted s s.coreNo = false →
    (s.core s.coreNo).eccFreeze = 0 → (s.core s.coreNo).switching = 0 → st.dead = false → st.draining = false → evacLeaves s st = false →
    (budgetOut st = false ∨ st.overrun < 65536 ∧ (st.resumed = true ∨ st.leaving = some 1 ∨ st.leaving = some 5)) →
    giveWay s s.focus st = none → st.frozen = none → (st.replay = [] ∨ st.trapFrame ≠ none) → landPulse s s.focus = (s, false) →
    st.pos.line.busy = 0 → fetchOp s = .ok ((a, r), s1) → st1 = startAt st.pos.pc a st → s2 = s.setStrand st1 →
    trapAt s2 s.focus st1 (.ok ⟨a, r⟩) = none → haltDue s2 s.focus = false → readyToLeave s2 s.focus = false →
    interruptDue s2 s.focus = false →
    (∀ b i, r = .bundle b → b.ops = [i] →
      step s = finishStep (exec i (standBundle s2 s.focus ⟨a, .bundle b⟩ b.idle b.length b.quiescent))) ∧
    (∀ b, r = .bundle b → b.ops.length ≠ 1 → step s = finishStep
      (issueOps (b.ops.map fun i => (i, operate i)) (standBundle s2 s.focus ⟨a, .bundle b⟩ b.idle b.length b.quiescent))) ∧
    (∀ k q, r = .idle k q → step s = finishStep
      (exec (.idleBundle (BitVec.ofNat 3 k) (BitVec.ofBool q)) (standBundle s2 s.focus ⟨a, .idle k q⟩ 0 2 q))))

/-- R51-R53, R305-R308, R313-R315, R319, R320: words written out from the spec's encodings decode to the instructions that they stand for, one of every slot
and some with a guard; so does a bundle of two. -/
def Obligations.SpecWordsDecode : Prop :=
  let t : Tag := ⟨false, 0, 0, 0⟩
  decodeSlot .a 0x0100040C3A0000 = some (.add t 8 6 7 1) ∧ decodeSlot .a (0x0100040C3A0000 + 5 * 2 ^ 45 + 9 * 2 ^ 38 + 2 ^ 37) =
    some (.add ⟨false, 5, 9, 1⟩ 8 6 7 1) ∧
  decodeSlot .b (0x28 * 2 ^ 48 + 5 * 2 ^ 31 + 77) = some (.li ⟨true, 0, 0, 0⟩ 5 77) ∧
  decodeSlot .c 0x10000000214189 = some (.pand 0 1 5 3 9) ∧ decodeSlot .c 0x25000000006004 = some (.mts 6 4) ∧
  decodeSlot .m 0x02000395BFFFFC = some (.st t 7 10 6 0x3FFFFC) ∧ decodeSlot .m 0x08000A14B31A80 = some (.acas t 0x14 0x0A 0x16 0x18 3 5) ∧
  decodeSlot .m 0x1B00059461A000 = some (.spawn t 11 10 12 13) ∧ decodeSlot .m 0x21000A51660900 = some (.hprb t 5 10 11 12 0 2 1) ∧
  decodeSlot .m 0x29000014000000 = some (.cred t 10) ∧ decodeSlot .v 0x040001900C0220 = some (.vfma t 12 2 3 0 4 1 0) ∧
  decodeSlot .v 0x1A000140417028 = some (.vcvt t 0x14 8 0 11 8 0 1 1) ∧ decodeSlot .x 0x06000A62203E00 = some (.aruns t 2 1 3 0 4 1 31) ∧
  decodeSlot .t 0x020000C0AA0000 = some (.txout t 12 5 1 1) ∧
  decodeBundle false [0x0A, 0x01, 0x07, 0x00, 0x00, 0x00, 0x03, 0x00, 0x28, 0x56, 0x04, 0x18, 0xA0, 0xE0, 0x01, 0x01] =
    .bundle ⟨0, true, 16, [.li t 6 7, .vadd ⟨false, 0, 7, 1⟩ 10 3 0 4 1 0x0B 0]⟩

/-- R5, R53, R305-R309, R313-R315, R319, R320: the encoder's word of a well-formed slot instruction decodes to that instruction, with every operand at every
value that its encoding admits; and a word of 56 bits that decodes is the encoder's word of a well-formed instruction: every other one,
with a reserved field that is not 0 among them, is refused. -/
def Obligations.EncodeThenDecode : Prop :=
  (∀ (i : Instr) (k : SlotKind) (w : Nat), wellFormed i = true → encodeSlot i = some (k, w) → decodeSlot k w = some i) ∧
  ∀ (i : Instr) (k : SlotKind) (w : Nat), w < 2 ^ 56 → decodeSlot k w = some i → wellFormed i = true ∧ encodeSlot i = some (k, w)
end

