-- ==== Sys2Proof/Laws/State.lean ====
section
/-!
SUPPORT. The state's updates field by field, and what the sparse tables answer after a write.
-/
namespace Sys2Proof.Laws

open Sys2Proof Sys2Proof.Machine

/-! ### Tables -/

@[simp] theorem tabGet_tabSet_same {α : Type} (t : Tab α) (n : Nat) (a : α) : tabGet (tabSet t n a) n = some a := by
  induction t with
  | nil => simp [tabSet, tabGet]
  | cons e t ih =>
    obtain ⟨k, v⟩ := e
    unfold tabSet
    split
    · simp [tabGet]
    · split
      · simp [tabGet]
      · rename_i h1 h2
        simp only [tabGet]
        rw [if_neg h2]
        exact ih

theorem tabGet_tabSet_other {α : Type} (t : Tab α) {n m : Nat} (a : α) (h : m ≠ n) : tabGet (tabSet t n a) m = tabGet t m := by
  induction t with
  | nil => simp [tabSet, tabGet, h]
  | cons e t ih =>
    obtain ⟨k, v⟩ := e
    unfold tabSet
    split
    · simp [tabGet, h]
    · split
      · rename_i h2
        have : n = k := by simpa using h2
        subst this
        simp [tabGet, h]
      · simp only [tabGet, ih]

/-! ### Updates -/

@[simp] theorem setCtx_mem (s : State) (k : Nat) (c : Context) : (s.setCtx k c).mem = s.mem := rfl
@[simp] theorem setCtx_poison (s : State) (k : Nat) (c : Context) : (s.setCtx k c).poison = s.poison := rfl
@[simp] theorem setCtx_tlb (s : State) (k : Nat) (c : Context) : (s.setCtx k c).tlb = s.tlb := rfl
@[simp] theorem setCtx_walks (s : State) (k : Nat) (c : Context) : (s.setCtx k c).walks = s.walks := rfl
@[simp] theorem setCtx_cores (s : State) (k : Nat) (c : Context) : (s.setCtx k c).cores = s.cores := rfl
@[simp] theorem setCtx_slots (s : State) (k : Nat) (c : Context) : (s.setCtx k c).slots = s.slots := rfl
@[simp] theorem setCtx_queues (s : State) (k : Nat) (c : Context) : (s.setCtx k c).queues = s.queues := rfl
@[simp] theorem setCtx_regions (s : State) (k : Nat) (c : Context) : (s.setCtx k c).regions = s.regions := rfl
@[simp] theorem setCtx_packets (s : State) (k : Nat) (c : Context) : (s.setCtx k c).packets = s.packets := rfl
@[simp] theorem setCtx_waiters (s : State) (k : Nat) (c : Context) : (s.setCtx k c).waiters = s.waiters := rfl
@[simp] theorem setCtx_skeins (s : State) (k : Nat) (c : Context) : (s.setCtx k c).skeins = s.skeins := rfl
@[simp] theorem setCtx_polders (s : State) (k : Nat) (c : Context) : (s.setCtx k c).polders = s.polders := rfl
@[simp] theorem setCtx_copies (s : State) (k : Nat) (c : Context) : (s.setCtx k c).copies = s.copies := rfl
@[simp] theorem setCtx_merges (s : State) (k : Nat) (c : Context) : (s.setCtx k c).merges = s.merges := rfl
@[simp] theorem setCtx_casts (s : State) (k : Nat) (c : Context) : (s.setCtx k c).casts = s.casts := rfl
@[simp] theorem setCtx_collectives (s : State) (k : Nat) (c : Context) : (s.setCtx k c).collectives = s.collectives := rfl
@[simp] theorem setCtx_saved (s : State) (k : Nat) (c : Context) : (s.setCtx k c).saved = s.saved := rfl
@[simp] theorem setCtx_host (s : State) (k : Nat) (c : Context) : (s.setCtx k c).host = s.host := rfl
@[simp] theorem setCtx_time (s : State) (k : Nat) (c : Context) : (s.setCtx k c).time = s.time := rfl
@[simp] theorem setCtx_fozor (s : State) (k : Nat) (c : Context) : (s.setCtx k c).fozor = s.fozor := rfl
@[simp] theorem setCtx_powered (s : State) (k : Nat) (c : Context) : (s.setCtx k c).powered = s.powered := rfl
@[simp] theorem setCtx_stationsDown (s : State) (k : Nat) (c : Context) : (s.setCtx k c).stationsDown = s.stationsDown := rfl
@[simp] theorem setCtx_reply (s : State) (k : Nat) (c : Context) : (s.setCtx k c).reply = s.reply := rfl
@[simp] theorem setCtx_agenda (s : State) (k : Nat) (c : Context) : (s.setCtx k c).agenda = s.agenda := rfl
@[simp] theorem setCtx_focus (s : State) (k : Nat) (c : Context) : (s.setCtx k c).focus = s.focus := rfl
@[simp] theorem setCtx_fresh (s : State) (k : Nat) (c : Context) : (s.setCtx k c).fresh = s.fresh := rfl
@[simp] theorem setCtx_ticks (s : State) (k : Nat) (c : Context) : (s.setCtx k c).ticks = s.ticks := rfl
@[simp] theorem setCtx_issue (s : State) (k : Nat) (c : Context) : (s.setCtx k c).issue = s.issue := rfl
@[simp] theorem setCtx_leveeOps (s : State) (k : Nat) (c : Context) : (s.setCtx k c).leveeOps = s.leveeOps := rfl
@[simp] theorem setCtx_saves (s : State) (k : Nat) (c : Context) : (s.setCtx k c).saves = s.saves := rfl
@[simp] theorem setCtx_turn (s : State) (k : Nat) (c : Context) : (s.setCtx k c).turn = s.turn := rfl

@[simp] theorem setStrandAt_mem (s : State) (k : Nat) (st : Strand) : (s.setStrandAt k st).mem = s.mem := rfl
@[simp] theorem setStrandAt_poison (s : State) (k : Nat) (st : Strand) : (s.setStrandAt k st).poison = s.poison := rfl
@[simp] theorem setStrandAt_tlb (s : State) (k : Nat) (st : Strand) : (s.setStrandAt k st).tlb = s.tlb := rfl
@[simp] theorem setStrandAt_walks (s : State) (k : Nat) (st : Strand) : (s.setStrandAt k st).walks = s.walks := rfl
@[simp] theorem setStrandAt_cores (s : State) (k : Nat) (st : Strand) : (s.setStrandAt k st).cores = s.cores := rfl
@[simp] theorem setStrandAt_slots (s : State) (k : Nat) (st : Strand) : (s.setStrandAt k st).slots = s.slots := rfl
@[simp] theorem setStrandAt_queues (s : State) (k : Nat) (st : Strand) : (s.setStrandAt k st).queues = s.queues := rfl
@[simp] theorem setStrandAt_regions (s : State) (k : Nat) (st : Strand) : (s.setStrandAt k st).regions = s.regions := rfl
@[simp] theorem setStrandAt_packets (s : State) (k : Nat) (st : Strand) : (s.setStrandAt k st).packets = s.packets := rfl
@[simp] theorem setStrandAt_waiters (s : State) (k : Nat) (st : Strand) : (s.setStrandAt k st).waiters = s.waiters := rfl
@[simp] theorem setStrandAt_skeins (s : State) (k : Nat) (st : Strand) : (s.setStrandAt k st).skeins = s.skeins := rfl
@[simp] theorem setStrandAt_polders (s : State) (k : Nat) (st : Strand) : (s.setStrandAt k st).polders = s.polders := rfl
@[simp] theorem setStrandAt_copies (s : State) (k : Nat) (st : Strand) : (s.setStrandAt k st).copies = s.copies := rfl
@[simp] theorem setStrandAt_merges (s : State) (k : Nat) (st : Strand) : (s.setStrandAt k st).merges = s.merges := rfl
@[simp] theorem setStrandAt_casts (s : State) (k : Nat) (st : Strand) : (s.setStrandAt k st).casts = s.casts := rfl
@[simp] theorem setStrandAt_collectives (s : State) (k : Nat) (st : Strand) : (s.setStrandAt k st).collectives = s.collectives := rfl
@[simp] theorem setStrandAt_saved (s : State) (k : Nat) (st : Strand) : (s.setStrandAt k st).saved = s.saved := rfl
@[simp] theorem setStrandAt_host (s : State) (k : Nat) (st : Strand) : (s.setStrandAt k st).host = s.host := rfl
@[simp] theorem setStrandAt_time (s : State) (k : Nat) (st : Strand) : (s.setStrandAt k st).time = s.time := rfl
@[simp] theorem setStrandAt_fozor (s : State) (k : Nat) (st : Strand) : (s.setStrandAt k st).fozor = s.fozor := rfl
@[simp] theorem setStrandAt_powered (s : State) (k : Nat) (st : Strand) : (s.setStrandAt k st).powered = s.powered := rfl
@[simp] theorem setStrandAt_stationsDown (s : State) (k : Nat) (st : Strand) : (s.setStrandAt k st).stationsDown = s.stationsDown := rfl
@[simp] theorem setStrandAt_reply (s : State) (k : Nat) (st : Strand) : (s.setStrandAt k st).reply = s.reply := rfl
@[simp] theorem setStrandAt_agenda (s : State) (k : Nat) (st : Strand) : (s.setStrandAt k st).agenda = s.agenda := rfl
@[simp] theorem setStrandAt_focus (s : State) (k : Nat) (st : Strand) : (s.setStrandAt k st).focus = s.focus := rfl
@[simp] theorem setStrandAt_fresh (s : State) (k : Nat) (st : Strand) : (s.setStrandAt k st).fresh = s.fresh := rfl
@[simp] theorem setStrandAt_ticks (s : State) (k : Nat) (st : Strand) : (s.setStrandAt k st).ticks = s.ticks := rfl
@[simp] theorem setStrandAt_issue (s : State) (k : Nat) (st : Strand) : (s.setStrandAt k st).issue = s.issue := rfl
@[simp] theorem setStrandAt_leveeOps (s : State) (k : Nat) (st : Strand) : (s.setStrandAt k st).leveeOps = s.leveeOps := rfl
@[simp] theorem setStrandAt_saves (s : State) (k : Nat) (st : Strand) : (s.setStrandAt k st).saves = s.saves := rfl
@[simp] theorem setStrandAt_turn (s : State) (k : Nat) (st : Strand) : (s.setStrandAt k st).turn = s.turn := rfl

@[simp] theorem setStrand_mem (s : State) (st : Strand) : (s.setStrand st).mem = s.mem := rfl
@[simp] theorem setStrand_poison (s : State) (st : Strand) : (s.setStrand st).poison = s.poison := rfl
@[simp] theorem setStrand_tlb (s : State) (st : Strand) : (s.setStrand st).tlb = s.tlb := rfl
@[simp] theorem setStrand_walks (s : State) (st : Strand) : (s.setStrand st).walks = s.walks := rfl
@[simp] theorem setStrand_cores (s : State) (st : Strand) : (s.setStrand st).cores = s.cores := rfl
@[simp] theorem setStrand_slots (s : State) (st : Strand) : (s.setStrand st).slots = s.slots := rfl
@[simp] theorem setStrand_queues (s : State) (st : Strand) : (s.setStrand st).queues = s.queues := rfl
@[simp] theorem setStrand_regions (s : State) (st : Strand) : (s.setStrand st).regions = s.regions := rfl
@[simp] theorem setStrand_packets (s : State) (st : Strand) : (s.setStrand st).packets = s.packets := rfl
@[simp] theorem setStrand_waiters (s : State) (st : Strand) : (s.setStrand st).waiters = s.waiters := rfl
@[simp] theorem setStrand_skeins (s : State) (st : Strand) : (s.setStrand st).skeins = s.skeins := rfl
@[simp] theorem setStrand_polders (s : State) (st : Strand) : (s.setStrand st).polders = s.polders := rfl
@[simp] theorem setStrand_copies (s : State) (st : Strand) : (s.setStrand st).copies = s.copies := rfl
@[simp] theorem setStrand_merges (s : State) (st : Strand) : (s.setStrand st).merges = s.merges := rfl
@[simp] theorem setStrand_casts (s : State) (st : Strand) : (s.setStrand st).casts = s.casts := rfl
@[simp] theorem setStrand_collectives (s : State) (st : Strand) : (s.setStrand st).collectives = s.collectives := rfl
@[simp] theorem setStrand_saved (s : State) (st : Strand) : (s.setStrand st).saved = s.saved := rfl
@[simp] theorem setStrand_host (s : State) (st : Strand) : (s.setStrand st).host = s.host := rfl
@[simp] theorem setStrand_time (s : State) (st : Strand) : (s.setStrand st).time = s.time := rfl
@[simp] theorem setStrand_fozor (s : State) (st : Strand) : (s.setStrand st).fozor = s.fozor := rfl
@[simp] theorem setStrand_powered (s : State) (st : Strand) : (s.setStrand st).powered = s.powered := rfl
@[simp] theorem setStrand_stationsDown (s : State) (st : Strand) : (s.setStrand st).stationsDown = s.stationsDown := rfl
@[simp] theorem setStrand_reply (s : State) (st : Strand) : (s.setStrand st).reply = s.reply := rfl
@[simp] theorem setStrand_agenda (s : State) (st : Strand) : (s.setStrand st).agenda = s.agenda := rfl
@[simp] theorem setStrand_focus (s : State) (st : Strand) : (s.setStrand st).focus = s.focus := rfl
@[simp] theorem setStrand_fresh (s : State) (st : Strand) : (s.setStrand st).fresh = s.fresh := rfl
@[simp] theorem setStrand_ticks (s : State) (st : Strand) : (s.setStrand st).ticks = s.ticks := rfl
@[simp] theorem setStrand_issue (s : State) (st : Strand) : (s.setStrand st).issue = s.issue := rfl
@[simp] theorem setStrand_leveeOps (s : State) (st : Strand) : (s.setStrand st).leveeOps = s.leveeOps := rfl
@[simp] theorem setStrand_saves (s : State) (st : Strand) : (s.setStrand st).saves = s.saves := rfl
@[simp] theorem setStrand_turn (s : State) (st : Strand) : (s.setStrand st).turn = s.turn := rfl

@[simp] theorem setCore_mem (s : State) (k : Nat) (c : Core) : (s.setCore k c).mem = s.mem := rfl
@[simp] theorem setCore_poison (s : State) (k : Nat) (c : Core) : (s.setCore k c).poison = s.poison := rfl
@[simp] theorem setCore_tlb (s : State) (k : Nat) (c : Core) : (s.setCore k c).tlb = s.tlb := rfl
@[simp] theorem setCore_walks (s : State) (k : Nat) (c : Core) : (s.setCore k c).walks = s.walks := rfl
@[simp] theorem setCore_ctxs (s : State) (k : Nat) (c : Core) : (s.setCore k c).ctxs = s.ctxs := rfl
@[simp] theorem setCore_slots (s : State) (k : Nat) (c : Core) : (s.setCore k c).slots = s.slots := rfl
@[simp] theorem setCore_queues (s : State) (k : Nat) (c : Core) : (s.setCore k c).queues = s.queues := rfl
@[simp] theorem setCore_regions (s : State) (k : Nat) (c : Core) : (s.setCore k c).regions = s.regions := rfl
@[simp] theorem setCore_packets (s : State) (k : Nat) (c : Core) : (s.setCore k c).packets = s.packets := rfl
@[simp] theorem setCore_waiters (s : State) (k : Nat) (c : Core) : (s.setCore k c).waiters = s.waiters := rfl
@[simp] theorem setCore_skeins (s : State) (k : Nat) (c : Core) : (s.setCore k c).skeins = s.skeins := rfl
@[simp] theorem setCore_polders (s : State) (k : Nat) (c : Core) : (s.setCore k c).polders = s.polders := rfl
@[simp] theorem setCore_copies (s : State) (k : Nat) (c : Core) : (s.setCore k c).copies = s.copies := rfl
@[simp] theorem setCore_merges (s : State) (k : Nat) (c : Core) : (s.setCore k c).merges = s.merges := rfl
@[simp] theorem setCore_casts (s : State) (k : Nat) (c : Core) : (s.setCore k c).casts = s.casts := rfl
@[simp] theorem setCore_collectives (s : State) (k : Nat) (c : Core) : (s.setCore k c).collectives = s.collectives := rfl
@[simp] theorem setCore_saved (s : State) (k : Nat) (c : Core) : (s.setCore k c).saved = s.saved := rfl
@[simp] theorem setCore_host (s : State) (k : Nat) (c : Core) : (s.setCore k c).host = s.host := rfl
@[simp] theorem setCore_time (s : State) (k : Nat) (c : Core) : (s.setCore k c).time = s.time := rfl
@[simp] theorem setCore_fozor (s : State) (k : Nat) (c : Core) : (s.setCore k c).fozor = s.fozor := rfl
@[simp] theorem setCore_powered (s : State) (k : Nat) (c : Core) : (s.setCore k c).powered = s.powered := rfl
@[simp] theorem setCore_stationsDown (s : State) (k : Nat) (c : Core) : (s.setCore k c).stationsDown = s.stationsDown := rfl
@[simp] theorem setCore_reply (s : State) (k : Nat) (c : Core) : (s.setCore k c).reply = s.reply := rfl
@[simp] theorem setCore_agenda (s : State) (k : Nat) (c : Core) : (s.setCore k c).agenda = s.agenda := rfl
@[simp] theorem setCore_focus (s : State) (k : Nat) (c : Core) : (s.setCore k c).focus = s.focus := rfl
@[simp] theorem setCore_fresh (s : State) (k : Nat) (c : Core) : (s.setCore k c).fresh = s.fresh := rfl
@[simp] theorem setCore_ticks (s : State) (k : Nat) (c : Core) : (s.setCore k c).ticks = s.ticks := rfl
@[simp] theorem setCore_issue (s : State) (k : Nat) (c : Core) : (s.setCore k c).issue = s.issue := rfl
@[simp] theorem setCore_leveeOps (s : State) (k : Nat) (c : Core) : (s.setCore k c).leveeOps = s.leveeOps := rfl
@[simp] theorem setCore_saves (s : State) (k : Nat) (c : Core) : (s.setCore k c).saves = s.saves := rfl
@[simp] theorem setCore_turn (s : State) (k : Nat) (c : Core) : (s.setCore k c).turn = s.turn := rfl

@[simp] theorem setSkein_mem (s : State) (k : Skein) : (s.setSkein k).mem = s.mem := rfl
@[simp] theorem setSkein_poison (s : State) (k : Skein) : (s.setSkein k).poison = s.poison := rfl
@[simp] theorem setSkein_tlb (s : State) (k : Skein) : (s.setSkein k).tlb = s.tlb := rfl
@[simp] theorem setSkein_walks (s : State) (k : Skein) : (s.setSkein k).walks = s.walks := rfl
@[simp] theorem setSkein_cores (s : State) (k : Skein) : (s.setSkein k).cores = s.cores := rfl
@[simp] theorem setSkein_ctxs (s : State) (k : Skein) : (s.setSkein k).ctxs = s.ctxs := rfl
@[simp] theorem setSkein_slots (s : State) (k : Skein) : (s.setSkein k).slots = s.slots := rfl
@[simp] theorem setSkein_queues (s : State) (k : Skein) : (s.setSkein k).queues = s.queues := rfl
@[simp] theorem setSkein_regions (s : State) (k : Skein) : (s.setSkein k).regions = s.regions := rfl
@[simp] theorem setSkein_packets (s : State) (k : Skein) : (s.setSkein k).packets = s.packets := rfl
@[simp] theorem setSkein_waiters (s : State) (k : Skein) : (s.setSkein k).waiters = s.waiters := rfl
@[simp] theorem setSkein_polders (s : State) (k : Skein) : (s.setSkein k).polders = s.polders := rfl
@[simp] theorem setSkein_copies (s : State) (k : Skein) : (s.setSkein k).copies = s.copies := rfl
@[simp] theorem setSkein_merges (s : State) (k : Skein) : (s.setSkein k).merges = s.merges := rfl
@[simp] theorem setSkein_casts (s : State) (k : Skein) : (s.setSkein k).casts = s.casts := rfl
@[simp] theorem setSkein_collectives (s : State) (k : Skein) : (s.setSkein k).collectives = s.collectives := rfl
@[simp] theorem setSkein_saved (s : State) (k : Skein) : (s.setSkein k).saved = s.saved := rfl
@[simp] theorem setSkein_host (s : State) (k : Skein) : (s.setSkein k).host = s.host := rfl
@[simp] theorem setSkein_time (s : State) (k : Skein) : (s.setSkein k).time = s.time := rfl
@[simp] theorem setSkein_fozor (s : State) (k : Skein) : (s.setSkein k).fozor = s.fozor := rfl
@[simp] theorem setSkein_powered (s : State) (k : Skein) : (s.setSkein k).powered = s.powered := rfl
@[simp] theorem setSkein_stationsDown (s : State) (k : Skein) : (s.setSkein k).stationsDown = s.stationsDown := rfl
@[simp] theorem setSkein_reply (s : State) (k : Skein) : (s.setSkein k).reply = s.reply := rfl
@[simp] theorem setSkein_agenda (s : State) (k : Skein) : (s.setSkein k).agenda = s.agenda := rfl
@[simp] theorem setSkein_focus (s : State) (k : Skein) : (s.setSkein k).focus = s.focus := rfl
@[simp] theorem setSkein_fresh (s : State) (k : Skein) : (s.setSkein k).fresh = s.fresh := rfl
@[simp] theorem setSkein_ticks (s : State) (k : Skein) : (s.setSkein k).ticks = s.ticks := rfl
@[simp] theorem setSkein_issue (s : State) (k : Skein) : (s.setSkein k).issue = s.issue := rfl
@[simp] theorem setSkein_leveeOps (s : State) (k : Skein) : (s.setSkein k).leveeOps = s.leveeOps := rfl
@[simp] theorem setSkein_saves (s : State) (k : Skein) : (s.setSkein k).saves = s.saves := rfl
@[simp] theorem setSkein_turn (s : State) (k : Skein) : (s.setSkein k).turn = s.turn := rfl

@[simp] theorem atSlot_mem (s : State) (i : Instr) : (atSlot i s).mem = s.mem := rfl
@[simp] theorem atSlot_poison (s : State) (i : Instr) : (atSlot i s).poison = s.poison := rfl
@[simp] theorem atSlot_tlb (s : State) (i : Instr) : (atSlot i s).tlb = s.tlb := rfl
@[simp] theorem atSlot_walks (s : State) (i : Instr) : (atSlot i s).walks = s.walks := rfl
@[simp] theorem atSlot_cores (s : State) (i : Instr) : (atSlot i s).cores = s.cores := rfl
@[simp] theorem atSlot_ctxs (s : State) (i : Instr) : (atSlot i s).ctxs = s.ctxs := rfl
@[simp] theorem atSlot_slots (s : State) (i : Instr) : (atSlot i s).slots = s.slots := rfl
@[simp] theorem atSlot_queues (s : State) (i : Instr) : (atSlot i s).queues = s.queues := rfl
@[simp] theorem atSlot_regions (s : State) (i : Instr) : (atSlot i s).regions = s.regions := rfl
@[simp] theorem atSlot_packets (s : State) (i : Instr) : (atSlot i s).packets = s.packets := rfl
@[simp] theorem atSlot_waiters (s : State) (i : Instr) : (atSlot i s).waiters = s.waiters := rfl
@[simp] theorem atSlot_skeins (s : State) (i : Instr) : (atSlot i s).skeins = s.skeins := rfl
@[simp] theorem atSlot_polders (s : State) (i : Instr) : (atSlot i s).polders = s.polders := rfl
@[simp] theorem atSlot_copies (s : State) (i : Instr) : (atSlot i s).copies = s.copies := rfl
@[simp] theorem atSlot_merges (s : State) (i : Instr) : (atSlot i s).merges = s.merges := rfl
@[simp] theorem atSlot_casts (s : State) (i : Instr) : (atSlot i s).casts = s.casts := rfl
@[simp] theorem atSlot_collectives (s : State) (i : Instr) : (atSlot i s).collectives = s.collectives := rfl
@[simp] theorem atSlot_saved (s : State) (i : Instr) : (atSlot i s).saved = s.saved := rfl
@[simp] theorem atSlot_host (s : State) (i : Instr) : (atSlot i s).host = s.host := rfl
@[simp] theorem atSlot_time (s : State) (i : Instr) : (atSlot i s).time = s.time := rfl
@[simp] theorem atSlot_fozor (s : State) (i : Instr) : (atSlot i s).fozor = s.fozor := rfl
@[simp] theorem atSlot_powered (s : State) (i : Instr) : (atSlot i s).powered = s.powered := rfl
@[simp] theorem atSlot_stationsDown (s : State) (i : Instr) : (atSlot i s).stationsDown = s.stationsDown := rfl
@[simp] theorem atSlot_reply (s : State) (i : Instr) : (atSlot i s).reply = s.reply := rfl
@[simp] theorem atSlot_agenda (s : State) (i : Instr) : (atSlot i s).agenda = s.agenda := rfl
@[simp] theorem atSlot_focus (s : State) (i : Instr) : (atSlot i s).focus = s.focus := rfl
@[simp] theorem atSlot_fresh (s : State) (i : Instr) : (atSlot i s).fresh = s.fresh := rfl
@[simp] theorem atSlot_ticks (s : State) (i : Instr) : (atSlot i s).ticks = s.ticks := rfl
@[simp] theorem atSlot_leveeOps (s : State) (i : Instr) : (atSlot i s).leveeOps = s.leveeOps := rfl
@[simp] theorem atSlot_saves (s : State) (i : Instr) : (atSlot i s).saves = s.saves := rfl
@[simp] theorem atSlot_turn (s : State) (i : Instr) : (atSlot i s).turn = s.turn := rfl

@[simp] theorem beginIssue_mem (s : State) : (beginIssue s).mem = s.mem := rfl
@[simp] theorem beginIssue_poison (s : State) : (beginIssue s).poison = s.poison := rfl
@[simp] theorem beginIssue_tlb (s : State) : (beginIssue s).tlb = s.tlb := rfl
@[simp] theorem beginIssue_walks (s : State) : (beginIssue s).walks = s.walks := rfl
@[simp] theorem beginIssue_cores (s : State) : (beginIssue s).cores = s.cores := rfl
@[simp] theorem beginIssue_ctxs (s : State) : (beginIssue s).ctxs = s.ctxs := rfl
@[simp] theorem beginIssue_slots (s : State) : (beginIssue s).slots = s.slots := rfl
@[simp] theorem beginIssue_queues (s : State) : (beginIssue s).queues = s.queues := rfl
@[simp] theorem beginIssue_regions (s : State) : (beginIssue s).regions = s.regions := rfl
@[simp] theorem beginIssue_packets (s : State) : (beginIssue s).packets = s.packets := rfl
@[simp] theorem beginIssue_waiters (s : State) : (beginIssue s).waiters = s.waiters := rfl
@[simp] theorem beginIssue_skeins (s : State) : (beginIssue s).skeins = s.skeins := rfl
@[simp] theorem beginIssue_polders (s : State) : (beginIssue s).polders = s.polders := rfl
@[simp] theorem beginIssue_copies (s : State) : (beginIssue s).copies = s.copies := rfl
@[simp] theorem beginIssue_merges (s : State) : (beginIssue s).merges = s.merges := rfl
@[simp] theorem beginIssue_casts (s : State) : (beginIssue s).casts = s.casts := rfl
@[simp] theorem beginIssue_collectives (s : State) : (beginIssue s).collectives = s.collectives := rfl
@[simp] theorem beginIssue_saved (s : State) : (beginIssue s).saved = s.saved := rfl
@[simp] theorem beginIssue_host (s : State) : (beginIssue s).host = s.host := rfl
@[simp] theorem beginIssue_time (s : State) : (beginIssue s).time = s.time := rfl
@[simp] theorem beginIssue_fozor (s : State) : (beginIssue s).fozor = s.fozor := rfl
@[simp] theorem beginIssue_powered (s : State) : (beginIssue s).powered = s.powered := rfl
@[simp] theorem beginIssue_stationsDown (s : State) : (beginIssue s).stationsDown = s.stationsDown := rfl
@[simp] theorem beginIssue_reply (s : State) : (beginIssue s).reply = s.reply := rfl
@[simp] theorem beginIssue_agenda (s : State) : (beginIssue s).agenda = s.agenda := rfl
@[simp] theorem beginIssue_focus (s : State) : (beginIssue s).focus = s.focus := rfl
@[simp] theorem beginIssue_fresh (s : State) : (beginIssue s).fresh = s.fresh := rfl
@[simp] theorem beginIssue_ticks (s : State) : (beginIssue s).ticks = s.ticks := rfl
@[simp] theorem beginIssue_leveeOps (s : State) : (beginIssue s).leveeOps = s.leveeOps := rfl
@[simp] theorem beginIssue_saves (s : State) : (beginIssue s).saves = s.saves := rfl
@[simp] theorem beginIssue_turn (s : State) : (beginIssue s).turn = s.turn := rfl

@[simp] theorem enter_mem (s : State) (i : Instr) : (enter i s).mem = s.mem := rfl
@[simp] theorem enter_poison (s : State) (i : Instr) : (enter i s).poison = s.poison := rfl
@[simp] theorem enter_tlb (s : State) (i : Instr) : (enter i s).tlb = s.tlb := rfl
@[simp] theorem enter_walks (s : State) (i : Instr) : (enter i s).walks = s.walks := rfl
@[simp] theorem enter_cores (s : State) (i : Instr) : (enter i s).cores = s.cores := rfl
@[simp] theorem enter_ctxs (s : State) (i : Instr) : (enter i s).ctxs = s.ctxs := rfl
@[simp] theorem enter_slots (s : State) (i : Instr) : (enter i s).slots = s.slots := rfl
@[simp] theorem enter_queues (s : State) (i : Instr) : (enter i s).queues = s.queues := rfl
@[simp] theorem enter_regions (s : State) (i : Instr) : (enter i s).regions = s.regions := rfl
@[simp] theorem enter_packets (s : State) (i : Instr) : (enter i s).packets = s.packets := rfl
@[simp] theorem enter_waiters (s : State) (i : Instr) : (enter i s).waiters = s.waiters := rfl
@[simp] theorem enter_skeins (s : State) (i : Instr) : (enter i s).skeins = s.skeins := rfl
@[simp] theorem enter_polders (s : State) (i : Instr) : (enter i s).polders = s.polders := rfl
@[simp] theorem enter_copies (s : State) (i : Instr) : (enter i s).copies = s.copies := rfl
@[simp] theorem enter_merges (s : State) (i : Instr) : (enter i s).merges = s.merges := rfl
@[simp] theorem enter_casts (s : State) (i : Instr) : (enter i s).casts = s.casts := rfl
@[simp] theorem enter_collectives (s : State) (i : Instr) : (enter i s).collectives = s.collectives := rfl
@[simp] theorem enter_saved (s : State) (i : Instr) : (enter i s).saved = s.saved := rfl
@[simp] theorem enter_host (s : State) (i : Instr) : (enter i s).host = s.host := rfl
@[simp] theorem enter_time (s : State) (i : Instr) : (enter i s).time = s.time := rfl
@[simp] theorem enter_fozor (s : State) (i : Instr) : (enter i s).fozor = s.fozor := rfl
@[simp] theorem enter_powered (s : State) (i : Instr) : (enter i s).powered = s.powered := rfl
@[simp] theorem enter_stationsDown (s : State) (i : Instr) : (enter i s).stationsDown = s.stationsDown := rfl
@[simp] theorem enter_reply (s : State) (i : Instr) : (enter i s).reply = s.reply := rfl
@[simp] theorem enter_agenda (s : State) (i : Instr) : (enter i s).agenda = s.agenda := rfl
@[simp] theorem enter_focus (s : State) (i : Instr) : (enter i s).focus = s.focus := rfl
@[simp] theorem enter_fresh (s : State) (i : Instr) : (enter i s).fresh = s.fresh := rfl
@[simp] theorem enter_ticks (s : State) (i : Instr) : (enter i s).ticks = s.ticks := rfl
@[simp] theorem enter_leveeOps (s : State) (i : Instr) : (enter i s).leveeOps = s.leveeOps := rfl
@[simp] theorem enter_saves (s : State) (i : Instr) : (enter i s).saves = s.saves := rfl
@[simp] theorem enter_turn (s : State) (i : Instr) : (enter i s).turn = s.turn := rfl

/-! ### Contexts, strands and cores -/

@[simp] theorem ctx_setCtx_same (s : State) (k : Nat) (c : Context) : (s.setCtx k c).ctx k = c := by
  simp [State.ctx, State.setCtx]

theorem ctx_setCtx_other (s : State) {k j : Nat} (c : Context) (h : j ≠ k) : (s.setCtx k c).ctx j = s.ctx j := by
  simp [State.ctx, State.setCtx, tabGet_tabSet_other _ _ h]

@[simp] theorem strandAt_setStrandAt_same (s : State) (k : Nat) (st : Strand) : (s.setStrandAt k st).strandAt k = some st := by
  simp [State.strandAt, State.setStrandAt]

@[simp] theorem ctx_setStrandAt_same (s : State) (k : Nat) (st : Strand) :
    (s.setStrandAt k st).ctx k = { s.ctx k with strand := some st } := by
  simp [State.setStrandAt]

theorem ctx_setStrandAt_other (s : State) {k j : Nat} (st : Strand) (h : j ≠ k) : (s.setStrandAt k st).ctx j = s.ctx j := by
  simp [State.setStrandAt, ctx_setCtx_other _ _ h]

@[simp] theorem strand_setStrandAt_focus (s : State) (st : Strand) : (s.setStrandAt s.focus st).strand = st := by
  simp [State.strand, State.strandAt]

@[simp] theorem strand_setStrand (s : State) (st : Strand) : (s.setStrand st).strand = st := by
  simp [State.setStrand]

@[simp] theorem core_setCtx (s : State) (k j : Nat) (c : Context) : (s.setCtx k c).core j = s.core j := rfl
@[simp] theorem core_setStrandAt (s : State) (k j : Nat) (st : Strand) : (s.setStrandAt k st).core j = s.core j := rfl
@[simp] theorem core_setCore_same (s : State) (k : Nat) (c : Core) : (s.setCore k c).core k = c := by
  simp [State.core, State.setCore]

@[simp] theorem ctx_setCore (s : State) (k j : Nat) (c : Core) : (s.setCore k c).ctx j = s.ctx j := rfl
@[simp] theorem strandAt_setCore (s : State) (k j : Nat) (c : Core) : (s.setCore k c).strandAt j = s.strandAt j := rfl
@[simp] theorem readPhys_setCtx (s : State) (k a n : Nat) (c : Context) : (s.setCtx k c).readPhys a n = s.readPhys a n := rfl
@[simp] theorem readPhys_setStrandAt (s : State) (k a n : Nat) (st : Strand) : (s.setStrandAt k st).readPhys a n = s.readPhys a n := rfl
@[simp] theorem readPhys_setStrand (s : State) (a n : Nat) (st : Strand) : (s.setStrand st).readPhys a n = s.readPhys a n := rfl

/-- Setting a strand twice is setting it once. -/
theorem tabSet_tabSet {α : Type} (t : Tab α) (n : Nat) (a b : α) : tabSet (tabSet t n a) n b = tabSet t n b := by
  induction t with
  | nil => simp [tabSet]
  | cons e t ih =>
    obtain ⟨k, v⟩ := e
    simp only [tabSet]
    split
    · simp [tabSet]
    · split
      · rename_i h1 h2
        have : n = k := by simpa using h2
        subst this
        simp [tabSet]
      · rename_i h1 h2
        simp only [tabSet, if_neg h1, if_neg h2, ih]

@[simp] theorem setStrandAt_twice (s : State) (k : Nat) (a b : Strand) : (s.setStrandAt k a).setStrandAt k b = s.setStrandAt k b := by
  have h : (s.setStrandAt k a).ctx k = { s.ctx k with strand := some a } := ctx_setStrandAt_same s k a
  unfold State.setStrandAt at *
  rw [h]
  simp [State.setCtx, tabSet_tabSet]

/-- A strand put into a context that has just been written. -/
theorem setStrandAt_setCtx (s : State) (k : Nat) (c : Context) (st : Strand) :
    (s.setCtx k c).setStrandAt k st = s.setCtx k { c with strand := some st } := by
  simp [State.setStrandAt, State.setCtx, State.ctx, tabSet_tabSet, tabGet_tabSet_same]

@[simp] theorem setStrand_twice (s : State) (a b : Strand) : (s.setStrand a).setStrand b = s.setStrand b := by
  simp [State.setStrand]

end Sys2Proof.Laws
end

