-- ==== Sys2Proof/Laws/Issue.lean ====
section
/-!
SUPPORT. What the issue of one operation can do: the lemmas that claims about slot instructions cite.
-/
namespace Sys2Proof.Laws

open Sys2Proof Sys2Proof.Machine

/-- An operation goes through exactly when it answers. -/
theorem through_eq_some {α : Type} {op : Op α} {s : State} {r : α × State} : through op s = some r ↔ op s = .ok r := by
  unfold through
  cases op s <;> simp

/-- A report is due on no path where none is asked. -/
theorem reportDue_none {s : State} {st : Strand} {paths resume : Nat} (h : (st.reports.all fun r => !bit paths r.path) = true) :
    reportDue s st paths resume = none := by
  unfold reportDue
  have : st.reports.find? (fun r => bit paths r.path) = none := by
    rw [List.find?_eq_none]
    intro r hr hb
    have := List.all_eq_true.mp h r hr
    simp [hb] at this
  simp [this]

/-- The empty set of paths asks for no report. -/
theorem reportDue_zero (s : State) (st : Strand) (resume : Nat) : reportDue s st 0 resume = none := by
  apply reportDue_none
  simp [bit]

/-- What a lone operation that goes through makes of the state. -/
theorem issueOne_through {i : Instr} {op : Op Unit} {s s' : State} (hs : s.issuing = true)
    (hp : portConflict (beginIssue s) [i] = false) (hr : bundleReport (beginIssue s) [i] = none)
    (ho : op (enter i s) = .ok ((), s')) : issueOne i op s = .next (settleIssue s' []) := by
  have hb : runBundle [(i, op)] ⟨beginIssue s, none, none, none, none, none, []⟩ = ⟨s', none, none, none, none, none, []⟩ := by
    simp only [runBundle, runOp]
    have : op (atSlot i (beginIssue s)) = .ok ((), s') := ho
    simp [this]
  simp [issueOne, issueOps, judge, hs, hp, hr, hb]

/-- An operation that faults at issue, and waits for nothing, takes the trap at its own bundle, which has no effect (R266, R471). -/
theorem issueOne_raise {i : Instr} {op : Op Unit} {s : State} {r : Raise} (hs : s.issuing = true)
    (hp : portConflict (beginIssue s) [i] = false) (hr : bundleReport (beginIssue s) [i] = none)
    (hw : scanBundle [(i, op)] (beginIssue s) none = ⟨none, none⟩) (ho : op (enter i s) = .error (.raise r)) :
    issueOne i op s = .next (takeTrap (beginIssue s) (beginIssue s).focus r false [] (beginIssue s).issue.pc) := by
  have hb : runBundle [(i, op)] ⟨beginIssue s, none, none, none, none, none, []⟩ = ⟨beginIssue s, none, none, none, some r, none, []⟩ := by
    simp only [runBundle, runOp]
    have : op (atSlot i (beginIssue s)) = .error (.raise r) := ho
    simp [this]
  simp [issueOne, issueOps, judge, hs, hp, hr, hb, hw]

/-- An operation that must wait freezes the core with nothing of its bundle issued (R61). -/
theorem issueOne_freeze {i : Instr} {op : Op Unit} {s : State} {w : Wait} (hs : s.issuing = true)
    (hp : portConflict (beginIssue s) [i] = false) (ho : op (enter i s) = .error (.freeze w)) :
    issueOne i op s = .next (freezeAt (beginIssue s) (beginIssue s).focus w) := by
  have hb : runBundle [(i, op)] ⟨beginIssue s, none, none, none, none, none, []⟩ = ⟨beginIssue s, some w, none, none, none, none, []⟩ := by
    simp only [runBundle, runOp]
    have : op (atSlot i (beginIssue s)) = .error (.freeze w) := ho
    simp [this]
  simp [issueOne, issueOps, judge, hs, hp, hb]

/-- An operation that waits while something else goes on freezes the core too, and what it registers stands (R61). -/
theorem issueOne_hold {i : Instr} {op : Op Unit} {s : State} {w : Wait} {f : State → State} (hs : s.issuing = true)
    (hp : portConflict (beginIssue s) [i] = false) (hl : w.isLate = false) (ho : op (enter i s) = .error (.hold w f)) :
    issueOne i op s = .next (freezeAt (f (beginIssue s)) (beginIssue s).focus w) := by
  have hb : runBundle [(i, op)] ⟨beginIssue s, none, none, none, none, none, []⟩ = ⟨beginIssue s, some w, some f, none, none, none, []⟩ := by
    simp only [runBundle, runOp]
    have : op (atSlot i (beginIssue s)) = .error (.hold w f) := ho
    simp [this, hl]
  simp [issueOne, issueOps, judge, hs, hp, hb]

/-- A slot instruction with no issuing strand has nothing to act on. -/
theorem issueOne_noStrand {i : Instr} {op : Op Unit} {s : State} (hs : s.issuing = false) : issueOne i op s = .fault .noStrand := by
  simp [issueOne, issueOps, hs]

/-! ### Guards -/

@[simp] theorem enter_strand (i : Instr) (s : State) : (enter i s).strand = s.strand := rfl
@[simp] theorem enter_ctx (i : Instr) (s : State) (k : Nat) : (enter i s).ctx k = s.ctx k := rfl
@[simp] theorem enter_mode (i : Instr) (s : State) : (enter i s).issue.mode = 0 := rfl
@[simp] theorem enter_leaf (i : Instr) (s : State) : (enter i s).issue.leaf = 0 := rfl
@[simp] theorem beginIssue_strand (s : State) : (beginIssue s).strand = s.strand := rfl

/-- A predicate reads in the entered state as it stands before. -/
theorem enter_readPAt (i : Instr) (s : State) (k : Nat) (st : Strand) (b : RegBank) (n : Nat) :
    readPAt (enter i s) k st b n = readPAt s k st b n := rfl

/-- What a live operation's guard decides. -/
theorem commits_live {t : Tag} {s : State} (h : s.issue.mode = 0) :
    commits t s = .ok ((readPAt s s.focus s.strand s.strand.bank t.gp.toNat != (t.gn == 1))
      && (t.path == 0 || t.path.toNat == s.issue.leaf), s) := by
  unfold commits
  show (if (s.issue.mode == 2) = true then (pure true : Op Bool) else _) s = _
  simp only [h]
  rfl

/-- Under a guard that lets it commit, an operation is its body. -/
theorem guarded_passes {t : Tag} {body : Op Unit} {i : Instr} {s : State} (h : passes t s = true) :
    guarded t body (enter i s) = body (enter i s) := by
  have hc : commits t (enter i s) = .ok (true, enter i s) := by
    rw [commits_live rfl]
    unfold passes at h
    simp only [Bool.and_eq_true] at h
    simp only [enter_focus, enter_strand, enter_readPAt, h.1, h.2, Bool.true_or, Bool.and_self]
  simp [guarded, bind, StateT.bind, Except.bind, hc]

/-- A squelched operation does nothing at all (R70). -/
theorem guarded_squelched {t : Tag} {body : Op Unit} {i : Instr} {s : State}
    (h : (readPAt s s.focus s.strand s.strand.bank t.gp.toNat != (t.gn == 1)) = false) :
    guarded t body (enter i s) = .ok ((), enter i s) := by
  have hc : commits t (enter i s) = .ok (false, enter i s) := by
    rw [commits_live rfl]
    simp only [enter_focus, enter_strand, enter_readPAt, h, Bool.false_and]
  simp [guarded, bind, StateT.bind, Except.bind, hc, pure, StateT.pure, Except.pure]

/-- One operation after another. -/
theorem op_bind_ok {α β : Type} {x : Op α} {f : α → Op β} {s s1 : State} {a : α} (h : x s = .ok (a, s1)) :
    (x >>= f) s = f a s1 := by
  simp [bind, StateT.bind, Except.bind, h]

/-- An operation that fails fails with all that follows it. -/
theorem op_bind_error {α β : Type} {x : Op α} {f : α → Op β} {s : State} {e : Stop} (h : x s = .error e) :
    (x >>= f) s = .error e := by
  simp [bind, StateT.bind, Except.bind, h]

/-- No port is asked by an instruction of no register-space operand. -/
theorem noPorts {i : Instr} {s : State} (h : portOperands s.strand.arr.statC i = []) : portConflict (beginIssue s) [i] = false := by
  simp [portConflict, portsOf, h]

/-- An instruction that reports on no path at its issue. -/
theorem noReports {i : Instr} {s : State} (h : ∀ s, reportPaths s i = 0) : bundleReport (beginIssue s) [i] = none := by
  have : bundlePaths (beginIssue s) [i] = 0 := by
    unfold bundlePaths
    by_cases hc : willCommit (beginIssue s) (bundleLeaf (beginIssue s) [i]) i <;> simp [List.filter, hc, h]
  rw [bundleReport, this]
  exact reportDue_zero _ _ _

end Sys2Proof.Laws
end

