-- ==== Sys2Proof/Laws/Settle.lean ====
section
/-!
SUPPORT. What becomes of a bundle once its operations have gone through, on a strand with nothing else on the way.
-/
namespace Sys2Proof.Laws

open Sys2Proof Sys2Proof.Machine

/-- The strand after its bundle has issued, before bundle-time passes. -/
def issued (s : State) (st : Strand) : Strand :=
  let busy := 1 + s.issue.idle + (if s.issue.target.isSome then 2 else 0)
  let st1 := { st with
    walked := [], asked := [], stepping := false
    pos := { st.pos with pc := s.issue.target.getD s.issue.next, seq := st.pos.seq + 1, loopQuiet := false, backEdge := false
                         line := { st.pos.line with busy := busy } } }
  if st.trapFrame.isSome then st1 else { spendBudget st1 1 with ran := st1.ran + busy, resumed := false }

/-- The strand one bundle-time later, before anything lands. -/
def later (st : Strand) : Strand :=
  { st with pos := { st.pos with line := { st.pos.line with bt := st.pos.line.bt + 1, busy := st.pos.line.busy - 1 } } }

@[simp] theorem issued_xs (s : State) (st : Strand) : (issued s st).xs = st.xs := by unfold issued; simp only []; split <;> rfl
@[simp] theorem issued_ps (s : State) (st : Strand) : (issued s st).ps = st.ps := by unfold issued; simp only []; split <;> rfl
@[simp] theorem issued_bs (s : State) (st : Strand) : (issued s st).bs = st.bs := by unfold issued; simp only []; split <;> rfl
@[simp] theorem issued_shadowX (s : State) (st : Strand) : (issued s st).shadowX = st.shadowX := by unfold issued; simp only []; split <;> rfl
@[simp] theorem issued_shadowP (s : State) (st : Strand) : (issued s st).shadowP = st.shadowP := by unfold issued; simp only []; split <;> rfl
@[simp] theorem issued_spools (s : State) (st : Strand) : (issued s st).spools = st.spools := by unfold issued; simp only []; split <;> rfl
@[simp] theorem issued_tags (s : State) (st : Strand) : (issued s st).tags = st.tags := by unfold issued; simp only []; split <;> rfl
@[simp] theorem issued_hfam (s : State) (st : Strand) : (issued s st).hfam = st.hfam := by unfold issued; simp only []; split <;> rfl
@[simp] theorem issued_arr (s : State) (st : Strand) : (issued s st).arr = st.arr := by unfold issued; simp only []; split <;> rfl
@[simp] theorem issued_rotate (s : State) (st : Strand) : (issued s st).rotate = st.rotate := by unfold issued; simp only []; split <;> rfl
@[simp] theorem issued_far (s : State) (st : Strand) : (issued s st).far = st.far := by unfold issued; simp only []; split <;> rfl
@[simp] theorem issued_bad (s : State) (st : Strand) : (issued s st).bad = st.bad := by unfold issued; simp only []; split <;> rfl
@[simp] theorem issued_faults (s : State) (st : Strand) : (issued s st).faults = st.faults := by unfold issued; simp only []; split <;> rfl
@[simp] theorem issued_call (s : State) (st : Strand) : (issued s st).call = st.call := by unfold issued; simp only []; split <;> rfl
@[simp] theorem issued_ident (s : State) (st : Strand) : (issued s st).ident = st.ident := by unfold issued; simp only []; split <;> rfl
@[simp] theorem issued_reports (s : State) (st : Strand) : (issued s st).reports = st.reports := by unfold issued; simp only []; split <;> rfl
@[simp] theorem issued_replay (s : State) (st : Strand) : (issued s st).replay = st.replay := by unfold issued; simp only []; split <;> rfl
@[simp] theorem issued_trapFrame (s : State) (st : Strand) : (issued s st).trapFrame = st.trapFrame := by unfold issued; simp only []; split <;> rfl
@[simp] theorem issued_flights (s : State) (st : Strand) : (issued s st).pos.line.flights = st.pos.line.flights := by unfold issued; simp only []; split <;> rfl
@[simp] theorem issued_bt (s : State) (st : Strand) : (issued s st).pos.line.bt = st.pos.line.bt := by unfold issued; simp only []; split <;> rfl
@[simp] theorem issued_susp (s : State) (st : Strand) : (issued s st).pos.susp = st.pos.susp := by unfold issued; simp only []; split <;> rfl
@[simp] theorem issued_loops (s : State) (st : Strand) : (issued s st).pos.loops = st.pos.loops := by unfold issued; simp only []; split <;> rfl
@[simp] theorem issued_rets (s : State) (st : Strand) : (issued s st).pos.rets = st.pos.rets := by unfold issued; simp only []; split <;> rfl
@[simp] theorem issued_seq (s : State) (st : Strand) : (issued s st).pos.seq = st.pos.seq + 1 := by unfold issued; simp only []; split <;> rfl
@[simp] theorem issued_pc (s : State) (st : Strand) : (issued s st).pos.pc = s.issue.target.getD s.issue.next := by unfold issued; simp only []; split <;> rfl
@[simp] theorem issued_busy (s : State) (st : Strand) : (issued s st).pos.line.busy = 1 + s.issue.idle + (if s.issue.target.isSome then 2 else 0) := by unfold issued; simp only []; split <;> rfl
@[simp] theorem issued_sys_uih (s : State) (st : Strand) : (issued s st).sys.uih = st.sys.uih := by unfold issued; simp only []; split <;> rfl
@[simp] theorem issued_bank (s : State) (st : Strand) : (issued s st).bank = st.bank := by simp [Strand.bank]
/-- Only BUDGET of the system registers moves with a bundle (R276). -/
theorem issued_sys (s : State) (st : Strand) : (issued s st).sys = { st.sys with budget := (issued s st).sys.budget } := by
  unfold issued; simp only []; split <;> rfl

/-- The strand at the first moment after its bundle went through. -/
def counted (st : Strand) : Strand := { st with walked := [], asked := [], pos := { st.pos with seq := st.pos.seq + 1 } }

/-- The strand one bundle-time later, with nothing left in flight. -/
def emptied (st : Strand) : Strand :=
  { st with pos := { st.pos with line := { st.pos.line with bt := st.pos.line.bt + 1, busy := st.pos.line.busy - 1, flights := [] } } }

/-- With no result due, nothing lands. -/
theorem land_none {s : State} {k : Nat} {st : Strand} (hs : s.strandAt k = some st)
    (hf : ∀ f ∈ st.pos.line.flights, st.pos.line.bt < f.due) (hw : st.arr.writes = []) : land s k = (s, false) := by
  have : st.pos.line.flights.filter (fun f => decide (f.due ≤ st.pos.line.bt)) = [] := by
    simp only [List.filter_eq_nil_iff, decide_eq_true_eq, not_le]
    exact hf
  simp [land, hs, this, hw]

/-- With no mark back, FENT stays. -/
theorem rotateDue_none {s : State} {k : Nat} {st : Strand} (hs : s.strandAt k = some st) (hr : st.rotate = false) : rotateDue s k = s := by
  simp [rotateDue, hs, hr]

/-- A level that ends no bundle here gives no back edge. -/
theorem backEdges_none {s : State} {k pc after n : Nat} {leaving quiet : Bool} {st : Strand} (hs : s.strandAt k = some st)
    (he : endsLevel st.pos.loops pc = none) : backEdges k pc after leaving (n + 1) quiet s = (⟨after, false, quiet⟩, s) := by
  simp [backEdges, hs, he]

/-- The bundle of an operation that has gone through takes effect: control moves on and BUDGET counts, and nothing lands before
its bundle-time passes. -/
theorem settle_calm {s : State} {st : Strand} (hs : s.strandAt s.focus = some st) (hfin : s.issue.final = false)
    (hf : ∀ f ∈ st.pos.line.flights, st.pos.line.bt < f.due) (ho : st.arr.ops = []) (hw : st.arr.writes = [])
    (he : s.issue.target = none → endsLevel st.pos.loops s.issue.pc = none) :
    settleIssue s [] = advance (s.setStrandAt s.focus (issued s st)) s.focus := by
  have hl : land (s.setStrandAt s.focus (counted st)) s.focus = (s.setStrandAt s.focus (counted st), false) :=
    land_none (strandAt_setStrandAt_same _ _ _) hf hw
  have hp : arrPulse (s.setStrandAt s.focus (counted st)) s.focus = (s.setStrandAt s.focus (counted st), false) := by
    simp [arrPulse, counted, ho]
  have hc : commitBundle s [] = s.setStrandAt s.focus (issued s st) := by
    unfold commitBundle
    simp only [hfin, hs, List.append_nil, Bool.false_eq_true, if_false]
    simp only [counted] at hl hp
    simp only [hl, hp, setStrandAt_issue]
    cases ht : s.issue.target with
    | some a =>
      simp only [strandAt_setStrandAt_same, setStrandAt_issue, ht, setStrandAt_twice, Option.isSome_some, if_true]
      unfold issued
      simp [ht]
    | none =>
      have hb : backEdges s.focus s.issue.pc s.issue.next st.leaving.isSome 7 false (s.setStrandAt s.focus (counted st))
          = (⟨s.issue.next, false, false⟩, s.setStrandAt s.focus (counted st)) :=
        backEdges_none (strandAt_setStrandAt_same _ _ _) (he ht)
      simp only [counted] at hb
      simp only [hb, strandAt_setStrandAt_same, setStrandAt_issue, ht, setStrandAt_twice, Option.isSome_none]
      unfold issued
      simp [ht]
  unfold settleIssue
  rw [hc]
  simp [hfin]

/-- The passing of a bundle-time: what is due lands, and the marks that have come back turn FENT. -/
theorem advance_of_land {s s1 : State} {k : Nat} {st st1 : Strand} (hs : s.strandAt k = some st)
    (hl : land (s.setStrandAt k (later st)) k = (s1, false)) (hs1 : s1.strandAt k = some st1) (hr : st1.rotate = false) :
    advance s k = s1 := by
  unfold advance
  simp only [hs]
  simp only [later] at hl
  simp [hl, rotateDue_none hs1 hr]

/-- One bundle-time passes with no result due. -/
theorem advance_none {s : State} {k : Nat} {st : Strand} (hs : s.strandAt k = some st)
    (hf : ∀ f ∈ st.pos.line.flights, st.pos.line.bt + 1 < f.due) (hw : st.arr.writes = []) (hr : st.rotate = false) :
    advance s k = s.setStrandAt k (later st) :=
  advance_of_land hs (land_none (strandAt_setStrandAt_same _ _ _) hf hw) (strandAt_setStrandAt_same _ _ _) hr

/-- With nothing held up, nothing is put back. -/
@[simp] theorem requeue_nil (st : Strand) : requeue st [] = st := by
  simp [requeue]

/-- The only result in flight lands. -/
theorem land_one {s s2 : State} {k : Nat} {st st2 : Strand} {f : Flight} (hs : s.strandAt k = some st)
    (hf : st.pos.line.flights = [f]) (hd : f.due ≤ st.pos.line.bt) (hk : f.eff.isFlags = false) (hw : st.arr.writes = [])
    (ha : applyEffect (s.setStrandAt k { st with pos := { st.pos with line := { st.pos.line with flights := [] } } }) k f = .done s2)
    (hst2 : s2.strandAt k = some st2) : land s k = (s2.setStrandAt k st2, false) := by
  have hq : ¬ st.pos.line.bt < f.due := by omega
  have harr : ({ st.arr with writes := [] } : Arr) = st.arr := by rw [← hw]
  unfold land
  simp only [hs, hf, hw, List.filter, hd, hq, decide_true, decide_false, hk, Bool.not_false, ite_self, List.length_cons,
    List.length_nil, mergeDue, List.map_cons, List.map_nil, landAll, Bool.false_and, Bool.false_eq_true, if_false, harr, ha,
    List.isEmpty_cons, hst2, List.append_nil, requeue_nil, List.isEmpty_nil, Bool.not_true]

/-- One bundle-time passes and the only result in flight lands. -/
theorem advance_one {s s2 : State} {k : Nat} {st st2 : Strand} {f : Flight} (hs : s.strandAt k = some st)
    (hf : st.pos.line.flights = [f]) (hd : f.due ≤ st.pos.line.bt + 1) (hk : f.eff.isFlags = false) (hw : st.arr.writes = [])
    (ha : applyEffect (s.setStrandAt k (emptied st)) k f = .done s2) (hst2 : s2.strandAt k = some st2)
    (hr2 : st2.rotate = false) : advance s k = s2.setStrandAt k st2 :=
  advance_of_land hs
    (land_one (strandAt_setStrandAt_same _ _ _) hf hd hk hw (by rw [setStrandAt_twice]; exact ha) hst2)
    (strandAt_setStrandAt_same _ _ _) hr2

end Sys2Proof.Laws
end

