-- ==== Sys2Proof/Laws/Operands.lean ====
section
/-!
SUPPORT. When a register operand is read and a register result is sent, on a strand with no destination pending; and what a bundle
leaves whose one result lands a bundle-time later.
-/
namespace Sys2Proof.Laws

open Sys2Proof Sys2Proof.Machine

/-- No destination of a far access is pending and none would fault, so no register read stops (R60, R140, R287). -/
theorem touchAs_free {s : State} {src : Bool} {hits : Dest → Bool} (hf : s.strand.far = []) (hb : s.strand.bad = []) :
    touchAs src hits s = .ok ((), s) := by
  simp [touchAs, bind, StateT.bind, Except.bind, get, getThe, MonadStateOf.get, StateT.get, hf, hb, pure, StateT.pure, Except.pure]

theorem touch_free {s : State} {hits : Dest → Bool} (hf : s.strand.far = []) (hb : s.strand.bad = []) : touch hits s = .ok ((), s) :=
  touchAs_free hf hb

/-- A destination is written where nothing is pending. -/
theorem touchDest_free {s : State} {hits : Dest → Bool} (hf : s.strand.far = []) (hb : s.strand.bad = []) :
    touchDest hits s = .ok ((), s) := by
  simp only [touchDest, bind, StateT.bind, Except.bind, get, getThe, MonadStateOf.get, StateT.get, pure, Except.pure]
  split
  · exact touchAs_free hf hb
  · rfl

theorem w64_toNat (v : Word) : w64 v.toNat = v := by simp [w64]

/-- A scalar register is read at issue (R12). -/
theorem getX_free {s : State} {n : XReg} (hm : s.issue.mode = 0) (hf : s.strand.far = []) (hb : s.strand.bad = []) :
    getX n s = .ok (s.x n.toNat, s) := by
  unfold getX operand
  by_cases h0 : n.toNat = 0
  · simp [bind, StateT.bind, Except.bind, get, getThe, MonadStateOf.get, StateT.get, pure, StateT.pure, Except.pure, hm, h0, State.x,
      readXAt, w64]
  · simp [bind, StateT.bind, Except.bind, get, getThe, MonadStateOf.get, StateT.get, pure, StateT.pure, Except.pure, hm, h0, State.x,
      touch_free hf hb, w64]

theorem getXQ_free {s : State} {n : XReg} (hn : n.toNat < 56) (hm : s.issue.mode = 0) (hf : s.strand.far = []) (hb : s.strand.bad = []) :
    getXQ n s = .ok (s.x n.toNat, s) := by
  simp [getXQ, hn, getX_free hm hf hb]

/-- A predicate is read at issue. -/
theorem getP_free {s : State} {n : PReg} (hm : s.issue.mode = 0) : getP n s = .ok (s.p n.toNat, s) := by
  unfold getP operand
  have : (bit01 (readPAt s s.focus s.strand s.strand.bank n.toNat) == 1) = readPAt s s.focus s.strand s.strand.bank n.toNat := by
    cases readPAt s s.focus s.strand s.strand.bank n.toNat <;> rfl
  simp [bind, StateT.bind, Except.bind, get, getThe, MonadStateOf.get, StateT.get, pure, StateT.pure, Except.pure, hm, State.p, this]

theorem emit_live {s : State} {lat : Nat} {eff : Effect} (hm : s.issue.mode = 0) : emit lat eff s = .ok ((), sent s lat eff) := by
  simp [emit, hm, sent]

/-- A scalar result is sent out (R12); a result for x0 is discarded (R67). -/
theorem putX_free {s : State} {n : XReg} {lat : Nat} {v : Word} (hm : s.issue.mode = 0) (hf : s.strand.far = []) (hb : s.strand.bad = []) :
    putX lat n v s = .ok ((), if n.toNat = 0 then s else sent s lat (.x s.strand.bank n.toNat v)) := by
  unfold putX
  by_cases h0 : n.toNat = 0
  · simp [bind, StateT.bind, Except.bind, get, getThe, MonadStateOf.get, StateT.get, pure, StateT.pure, Except.pure, h0]
  · simp [bind, StateT.bind, Except.bind, get, getThe, MonadStateOf.get, StateT.get, pure, StateT.pure, Except.pure, h0,
      touchDest_free hf hb, emit_live hm]

theorem putXQ_free {s : State} {n : XReg} {lat : Nat} {v : Word} (hn : n.toNat < 56) (hm : s.issue.mode = 0) (hf : s.strand.far = [])
    (hb : s.strand.bad = []) : putXQ lat n v s = .ok ((), if n.toNat = 0 then s else sent s lat (.x s.strand.bank n.toNat v)) := by
  simp [putXQ, hn, putX_free hm hf hb]

theorem putP_free {s : State} {n : PReg} {lat : Nat} {v : Bool} (hm : s.issue.mode = 0) :
    putP lat n v s = .ok ((), sent s lat (.p s.strand.bank n.toNat v)) := by
  simp [putP, bind, StateT.bind, Except.bind, get, getThe, MonadStateOf.get, StateT.get, pure, StateT.pure, Except.pure, emit_live hm]

end Sys2Proof.Laws
end

