-- ==== Sys2Proof/Laws/Landed.lean ====
section
/-!
SUPPORT. What a bundle leaves when its one result, a scalar register or a predicate, lands a bundle-time later on a calm strand:
that register, and nothing else.
-/
namespace Sys2Proof.Laws

open Sys2Proof Sys2Proof.Machine

/-- What `calm` says. -/
theorem calm_iff {s : State} : calm s = true ↔ s.issuing = true ∧ s.flights = [] ∧ s.strand.far = [] ∧ s.strand.bad = [] ∧
    s.strand.arr.ops = [] ∧ s.strand.arr.writes = [] ∧ s.strand.rotate = false ∧ noEdge s = true := by
  simp [calm, and_assoc]

/-- What `noEdge` says. -/
theorem noEdge_none {s : State} (h : noEdge s = true) : endsLevel s.strand.pos.loops s.issue.pc = none := by simpa [noEdge] using h

theorem issuing_strand {s : State} (h : s.issuing = true) : s.strandAt s.focus = some s.strand := by
  unfold State.issuing at h
  simp only [Bool.and_eq_true, Option.isSome_iff_exists] at h
  obtain ⟨⟨st, hst⟩, -⟩ := h
  simp [State.strand, State.strandAt, hst]

/-- The state a bundle-time after a bundle that has left nothing in flight. -/
def passed (s : State) : State := s.setStrandAt s.focus (emptied (issued s s.strand))

/-- A strand with one more result in flight. -/
def flying (st : Strand) (f : Flight) : Strand := { st with pos := { st.pos with line := { st.pos.line with flights := [f] } } }

theorem emptied_issued_flying (s : State) (st : Strand) (f : Flight) : emptied (issued s (flying st f)) = emptied (issued s st) := by
  unfold issued
  simp only [flying]
  by_cases h : st.trapFrame.isSome <;> simp only [h, if_true, Bool.false_eq_true, if_false] <;> rfl

theorem issued_of_issue {s u : State} (st : Strand) (h : u.issue = s.issue) : issued u st = issued s st := by
  unfold issued
  rw [h]

/-- A bundle of one result that lands a bundle-time later. -/
theorem settle_sent {i : Instr} {s s2 : State} {st2 : Strand} {eff : Effect} (hc : calm s = true) (hk : eff.isFlags = false)
    (ha : applyEffect (passed (enter i s)) s.focus
      ⟨s.strand.pos.line.bt + 1, s.strand.pos.seq * 8 + (slotOf i).1, (slotOf i).1, eff⟩ = .done s2)
    (hst2 : s2.strandAt s.focus = some st2) (hr2 : st2.rotate = false) :
    settleIssue (sent (enter i s) 1 eff) [] = s2.setStrandAt s.focus st2 := by
  obtain ⟨hi, hfl, -, -, ho, hw, hr, he⟩ := calm_iff.1 hc
  have hfl' : s.strand.pos.line.flights = [] := hfl
  have hu : sent (enter i s) 1 eff = (enter i s).setStrandAt s.focus
      (flying s.strand ⟨s.strand.pos.line.bt + 1, s.strand.pos.seq * 8 + (slotOf i).1, (slotOf i).1, eff⟩) := by
    simp only [sent, enter_strand, hfl', insertFlight, State.setStrand, enter_focus]
    rfl
  rw [hu]
  rw [settle_calm (st := flying s.strand ⟨s.strand.pos.line.bt + 1, s.strand.pos.seq * 8 + (slotOf i).1, (slotOf i).1, eff⟩)
    (by exact strandAt_setStrandAt_same _ _ _) rfl (by simp [flying]) ho hw (by exact fun _ => noEdge_none he)]
  simp only [setStrandAt_focus, enter_focus, setStrandAt_twice]
  rw [issued_of_issue (s := enter i s) (u := (enter i s).setStrandAt s.focus _) _ rfl]
  rw [advance_one (st2 := st2) (strandAt_setStrandAt_same _ _ _) (issued_flights _ _) (by simp [flying]) hk (by simp [flying, hw])
    (by
      rw [setStrandAt_twice, emptied_issued_flying]
      exact ha) hst2 hr2]

/-- What a bundle that leaves no result keeps of the state. -/
theorem settle_idle {i : Instr} {s : State} (hc : calm s = true) : settleIssue (enter i s) [] = passed (enter i s) := by
  obtain ⟨hi, hfl, -, -, ho, hw, hr, he⟩ := calm_iff.1 hc
  have hfl' : s.strand.pos.line.flights = [] := hfl
  have hs : (enter i s).strandAt (enter i s).focus = some s.strand := issuing_strand hi
  rw [settle_calm hs rfl (by simp [hfl']) ho hw (by exact fun _ => noEdge_none he)]
  rw [advance_none (strandAt_setStrandAt_same _ _ _) (by simp [hfl']) (by simpa using hw) (by simpa using hr)]
  simp only [passed, setStrandAt_twice, enter_focus, enter_strand]
  congr 1
  have : (issued (enter i s) s.strand).pos.line.flights = [] := by simpa using hfl'
  simp only [later, emptied]
  rw [← this]

/-- The strand a bundle-time after a bundle. -/
theorem strand_passed (s : State) : (passed s).strand = emptied (issued s s.strand) := by
  unfold passed
  exact strand_setStrandAt_focus _ _

@[simp] theorem passed_focus (s : State) : (passed s).focus = s.focus := rfl

theorem sys_of {s t : State} (hf : t.focus = s.focus) (hl : t.strand.pos.loops = s.strand.pos.loops)
    (hr : t.strand.pos.rets = s.strand.pos.rets) (hy : t.strand.sys = { s.strand.sys with budget := t.strand.sys.budget })
    (hh : t.strand.hfam = s.strand.hfam) (hp : (t.ctx s.focus).part = (s.ctx s.focus).part) (hc : t.cores = s.cores)
    (ht : t.time = s.time) (hq : t.host = s.host) (n : Nat) (hn : n ≠ 0x008) : readSys t n = readSys s n := by
  unfold readSys
  split
  all_goals first
    | exact absurd rfl hn
    | (simp only [statusWord, lidxWord, timelockWord, State.core, State.coreNo, hf, hl, hr, hh, hp, hc, ht, hq]
       try rw [hy])

/-- What stands where a strand does not differ from another but in what a write of one register changes. -/
structure SameRest (a b : Strand) : Prop where
  bs : a.bs = b.bs
  sys : a.sys = { b.sys with budget := a.sys.budget }
  hfam : a.hfam = b.hfam
  spools : a.spools = b.spools
  tags : a.tags = b.tags
  arr : a.arr = b.arr
  loops : a.pos.loops = b.pos.loops
  rets : a.pos.rets = b.pos.rets
  trapFrame : a.trapFrame = b.trapFrame
  far : a.far = b.far
  bad : a.bad = b.bad
  reports : a.reports = b.reports
  faults : a.faults = b.faults
  replay : a.replay = b.replay
  ident : a.ident = b.ident
  rotate : a.rotate = b.rotate
  call : a.call = b.call

theorem SameRest.bank {a b : Strand} (h : SameRest a b) : a.bank = b.bank := by
  have hu : a.sys.uih = b.sys.uih := by rw [h.sys]
  simp only [Strand.bank, h.trapFrame, hu]

/-- What a change of the focus context keeps where its strand differs in registers only. -/
theorem kept_setCtx {u : State} {su st : Strand} {c : Context} {xs ps : List Nat} (hu : u.strand = su) (hc : c.strand = some st)
    (hpart : c.part = (u.ctx u.focus).part) (hstate : c.state = (u.ctx u.focus).state)
    (hlast : c.lastLaunch = (u.ctx u.focus).lastLaunch) (hs : SameRest st su)
    (hx : ∀ b n, (n ∉ xs ∨ b ≠ su.bank ∧ 48 ≤ n) → readXAt (u.setCtx u.focus c) u.focus st b n = readXAt u u.focus su b n)
    (hp : ∀ b n, (n ∉ ps ∨ b ≠ su.bank ∧ 88 ≤ n) → readPAt (u.setCtx u.focus c) u.focus st b n = readPAt u u.focus su b n) :
    Kept u (u.setCtx u.focus c) xs ps [] fun _ => False := by
  have hctx : (u.setCtx u.focus c).ctx u.focus = c := ctx_setCtx_same _ _ _
  have hst : (u.setCtx u.focus c).strand = st := by
    simp only [State.strand, State.strandAt, setCtx_focus, hctx, hc, Option.getD_some]
  refine ⟨?_, ?_, ?_, ?_, ?_, fun _ _ => rfl, fun _ => rfl, ?_, ?_, ?_, ?_, ?_, ?_, ?_, ?_, ?_, ?_, ?_, fun _ _ => rfl, fun _ _ => rfl, rfl⟩
  · intro b n h
    rw [hst, hu]
    exact hx b n (by rwa [hu] at h)
  · intro b n h
    rw [hst, hu]
    exact hp b n (by rwa [hu] at h)
  · rw [hst, hu, hs.bank]
  · rw [hst, hu, hs.bs]
  · intro n _ hn
    exact sys_of (s := u) (t := u.setCtx u.focus c) rfl (by rw [hst, hu, hs.loops]) (by rw [hst, hu, hs.rets])
      (by rw [hst, hu]; exact hs.sys) (by rw [hst, hu, hs.hfam]) (by rw [hctx, hpart]) rfl rfl rfl n hn
  · rw [hst, hu, hs.spools]
  · rw [hst, hu, hs.tags]
  · rw [hst, hu, hs.arr]
  · rw [hst, hu, hs.loops]
  · rw [hst, hu, hs.rets]
  · rw [hst, hu, hs.trapFrame]
  · rw [hst, hu, hs.hfam]
  · rw [hst, hu]
    exact ⟨hs.far, hs.bad, hs.reports, hs.faults, hs.replay⟩
  · intro _
    rw [hst, hu, hs.ident]
  · rw [hctx]
    exact ⟨hstate, hlast⟩
  · intro k hk
    exact ctx_setCtx_other _ _ hk

/-- A bundle with no result keeps everything but BUDGET and where the strand stands. -/
theorem kept_passed {i : Instr} {s : State} : Kept s (passed (enter i s)) [] [] [] fun _ => False := by
  have h : Kept (enter i s) (passed (enter i s)) [] [] [] fun _ => False := by
    refine kept_setCtx (su := s.strand) rfl rfl rfl rfl rfl
      ⟨?_, ?_, ?_, ?_, (?_), ?_, ?_, ?_, ?_, (?_), ?_, ?_, ?_, ?_, (?_), ?_, ?_⟩ ?_ ?_
    case refine_2 => exact issued_sys _ _
    case refine_18 =>
      intro b n _
      simp only [readXAt, ctx_setCtx_same]
      simp [emptied]
    case refine_19 =>
      intro b n _
      simp only [readPAt, ctx_setCtx_same]
      simp [emptied]
    all_goals simp [emptied]
  exact ⟨h.x, h.p, h.bank, h.b, h.sys, h.mem, h.poison, h.spools, h.tags, h.arr, h.loops, h.rets, h.mode, h.families, h.entries, h.ident,
    h.context, h.others, h.core, h.otherCores, rfl⟩

/-- What is kept over two moves, the first of which keeps everything. -/
theorem Kept_trans {s u t : State} {xs ps sys : List Nat} {bytes : Nat → Prop} (h1 : Kept s u [] [] [] fun _ => False)
    (h2 : Kept u t xs ps sys bytes) (hf : u.focus = s.focus) : Kept s t xs ps sys bytes where
  x b n h := (h2.x b n (by rwa [h1.bank])).trans (h1.x b n (by simp))
  p b n h := (h2.p b n (by rwa [h1.bank])).trans (h1.p b n (by simp))
  bank := h2.bank.trans h1.bank
  b := h2.b.trans h1.b
  sys n hn hb := (h2.sys n hn hb).trans (h1.sys n (by simp) hb)
  mem a ha := (h2.mem a ha).trans (h1.mem a (by simp))
  poison h := (h2.poison h).trans (h1.poison (by simp))
  spools := h2.spools.trans h1.spools
  tags := h2.tags.trans h1.tags
  arr := h2.arr.trans h1.arr
  loops := h2.loops.trans h1.loops
  rets := h2.rets.trans h1.rets
  mode := h2.mode.trans h1.mode
  families := h2.families.trans h1.families
  entries := ⟨h2.entries.1.trans h1.entries.1, h2.entries.2.1.trans h1.entries.2.1, h2.entries.2.2.1.trans h1.entries.2.2.1,
    h2.entries.2.2.2.1.trans h1.entries.2.2.2.1, h2.entries.2.2.2.2.trans h1.entries.2.2.2.2⟩
  ident h := (h2.ident h).trans (h1.ident rfl)
  context := by
    have h := h2.context
    rw [hf] at h
    exact ⟨h.1.trans h1.context.1, h.2.trans h1.context.2⟩
  others k hk := (h2.others k (by rw [hf]; exact hk)).trans (h1.others k hk)
  core h hb := (h2.core h hb).trans (h1.core rfl (by simp))
  otherCores k hk := (h2.otherCores k (by simpa only [State.coreNo, hf] using hk)).trans (h1.otherCores k hk)
  world := by
    have a := h1.world
    have b := h2.world
    cases s; cases u; cases t
    simp_all

/-- A vector of values after one of them is set. -/
theorem getD_set_other {α : Type} {k : Nat} (xs : Vector α k) {n m : Nat} (v : α) {d : α} (h : m ≠ n) :
    (xs.setIfInBounds n v).getD m d = xs.getD m d := by
  simp [Vector.getD, Ne.symm h]

theorem getD_set_same {α : Type} {k : Nat} (xs : Vector α k) {n : Nat} (v : α) {d : α} (h : n < k) :
    (xs.setIfInBounds n v).getD n d = v := by
  simp [Vector.getD, h]

/-- A scalar register lands. -/
theorem write_x {u : State} {su : Strand} {n : Nat} {v : Word} (hu : u.strandAt u.focus = some su) (hn : n < 56) (h0 : n ≠ 0) :
    ∃ s2 st2, writeXAt u u.focus su.bank n v = s2 ∧ s2.strandAt u.focus = some st2 ∧ SameRest st2 su ∧
      Kept u (s2.setStrandAt u.focus st2) [n] [] [] (fun _ => False) ∧ (s2.setStrandAt u.focus st2).x n = v ∧ (s2.setStrandAt u.focus st2).strand = st2 := by
  have hsu : u.strand = su := by simp [State.strand, hu]
  -- the register stands in the strand, or in the trap bank of its context
  have strand : ∀ st2, SameRest st2 su → writeXAt u u.focus su.bank n v = u.setStrandAt u.focus st2 →
      (∀ b m, (m ≠ n ∨ b ≠ su.bank ∧ 48 ≤ m) → readXAt u u.focus st2 b m = readXAt u u.focus su b m) →
      (∀ b m, readPAt u u.focus st2 b m = readPAt u u.focus su b m) → readXAt u u.focus st2 su.bank n = v →
      ∃ s2 st2, writeXAt u u.focus su.bank n v = s2 ∧ s2.strandAt u.focus = some st2 ∧ SameRest st2 su ∧
        Kept u (s2.setStrandAt u.focus st2) [n] [] [] (fun _ => False) ∧ (s2.setStrandAt u.focus st2).x n = v ∧
        (s2.setStrandAt u.focus st2).strand = st2 := by
    intro st2 hs hw hx hp hv
    have hst : (u.setStrandAt u.focus st2).strand = st2 := strand_setStrandAt_focus _ _
    have at' : ∀ b m, readXAt (u.setStrandAt u.focus st2) u.focus st2 b m = readXAt u u.focus st2 b m := by
      intro b m
      simp [readXAt]
    have pt' : ∀ b m, readPAt (u.setStrandAt u.focus st2) u.focus st2 b m = readPAt u u.focus st2 b m := by
      intro b m
      simp [readPAt]
    refine ⟨_, st2, hw, strandAt_setStrandAt_same _ _ _, hs, ?_, ?_, ?_⟩
    · rw [setStrandAt_twice]
      exact kept_setCtx hsu rfl rfl rfl rfl hs (fun b m h => (at' b m).trans (hx b m (by simpa using h)))
        (fun b m _ => (pt' b m).trans (hp b m))
    · rw [setStrandAt_twice]
      simp only [State.x, hst, setStrandAt_focus, hs.bank, at']
      exact hv
    · rw [setStrandAt_twice, hst]
  have rest : ∀ a b, SameRest { su with xs := a, shadowX := b } su := fun _ _ =>
    ⟨rfl, rfl, rfl, rfl, rfl, rfl, rfl, rfl, rfl, rfl, rfl, rfl, rfl, rfl, rfl, rfl, rfl⟩
  by_cases hm : n < 48 ∨ su.bank = .main
  · refine strand { su with xs := su.xs.setIfInBounds n v } (rest _ _) ?_ ?_ (fun _ _ => rfl) ?_
    · have hn0 : (n == 0) = false := beq_eq_false_iff_ne.2 h0
      simp only [writeXAt, hu, hn0, Bool.false_eq_true, if_false]
      rcases hm with h | h
      · rw [if_pos h]
      · rw [h, ite_self]
    · intro b m h
      by_cases hmn : m = n
      · subst hmn
        have h48 : b ≠ su.bank ∧ 48 ≤ m := by simpa using h
        rcases hm with h' | h'
        · omega
        · rw [h'] at h48
          have hk : ¬ m < 48 := by omega
          simp only [readXAt, beq_eq_false_iff_ne.2 h0, Bool.false_eq_true, if_false, if_neg hk]
          cases b with
          | main => exact absurd rfl h48.1
          | trap => rfl
          | shadow => rfl
      · simp only [readXAt, getD_set_other su.xs v hmn]
    · rcases hm with h | h <;> simp [readXAt, h0, h, getD_set_same su.xs v hn]
  · have h48 : ¬ n < 48 := fun h => hm (.inl h)
    have h8 : n - 48 < 8 := by omega
    cases hb : su.bank with
    | main => exact absurd (.inr hb) hm
    | shadow =>
      rw [← hb]
      refine strand { su with shadowX := su.shadowX.setIfInBounds (n - 48) v } (rest _ _) ?_ ?_ (fun _ _ => rfl) ?_
      · simp only [writeXAt, hu, beq_eq_false_iff_ne.2 h0, Bool.false_eq_true, if_false, if_neg h48, hb]
      · intro b m h
        by_cases hmn : m = n
        · subst hmn
          have h' : b ≠ su.bank := (by simpa using h : b ≠ su.bank ∧ 48 ≤ m).1
          rw [hb] at h'
          simp only [readXAt, beq_eq_false_iff_ne.2 h0, Bool.false_eq_true, if_false, if_neg h48]
          cases b with
          | shadow => exact absurd rfl h'
          | main => rfl
          | trap => rfl
        · simp only [readXAt]
          split
          · rfl
          · split
            · rfl
            · cases b with
              | shadow =>
                simp only
                rw [getD_set_other su.shadowX v (by omega)]
              | main => rfl
              | trap => rfl
      · simp only [readXAt, hb, getD_set_same su.shadowX v h8]
        simp [h0, h48]
    | trap =>
      have hctx : (u.ctx u.focus).strand = some su := hu
      refine ⟨u.setCtx u.focus { u.ctx u.focus with trapX := (u.ctx u.focus).trapX.setIfInBounds (n - 48) v }, su,
        by simp only [writeXAt, hu, beq_eq_false_iff_ne.2 h0, Bool.false_eq_true, if_false, if_neg h48], by simpa [State.strandAt] using hu, rest _ _, ?_, ?_, ?_⟩ <;>
        rw [setStrandAt_setCtx]
      · refine kept_setCtx hsu rfl rfl rfl rfl (rest _ _) ?_ (fun b m _ => by simp [readPAt])
        intro b m h
        simp only [readXAt, ctx_setCtx_same]
        split
        · rfl
        · split
          · rfl
          · cases b with
            | trap =>
              have hmn : m ≠ n := by simpa [hb] using h
              simp only
              rw [getD_set_other (u.ctx u.focus).trapX v (by omega)]
            | main => rfl
            | shadow => rfl
      · have hst : (u.setCtx u.focus { u.ctx u.focus with trapX := (u.ctx u.focus).trapX.setIfInBounds (n - 48) v, strand := some su }).strand = su := by
          simp [State.strand, State.strandAt]
        simp only [State.x, hst, setCtx_focus, readXAt, hb, ctx_setCtx_same, getD_set_same (u.ctx u.focus).trapX v h8]
        simp [h0, h48]
      · simp [State.strand, State.strandAt]

/-- A bit vector after one of its bits is set. -/
theorem getLsbD_setBit_other {w : Nat} (b : BitVec w) {n m : Nat} (v : Bool) (h : m ≠ n) : (setBit b n v).getLsbD m = b.getLsbD m := by
  have hm : (BitVec.ofNat w (2 ^ n)).getLsbD m = false := by
    rw [BitVec.getLsbD_ofNat, Nat.testBit_two_pow]
    simp [Ne.symm h]
  unfold setBit
  cases v
  · simp only [Bool.false_eq_true, if_false, BitVec.getLsbD_and, BitVec.getLsbD_not, hm]
    by_cases hw : m < w
    · simp [hw]
    · simp [hw, BitVec.getLsbD_of_ge b m (by omega)]
  · simp only [if_true, BitVec.getLsbD_or, hm, Bool.or_false]

theorem getLsbD_setBit_same {w : Nat} (b : BitVec w) {n : Nat} (v : Bool) (h : n < w) : (setBit b n v).getLsbD n = v := by
  have hm : (BitVec.ofNat w (2 ^ n)).getLsbD n = true := by
    rw [BitVec.getLsbD_ofNat, Nat.testBit_two_pow]
    simp [h]
  unfold setBit
  cases v
  · simp only [Bool.false_eq_true, if_false, BitVec.getLsbD_and, BitVec.getLsbD_not, hm]
    simp
  · simp only [if_true, BitVec.getLsbD_or, hm, Bool.or_true]

/-- A predicate lands. -/
theorem write_p {u : State} {su : Strand} {n : Nat} {v : Bool} (hu : u.strandAt u.focus = some su) (hn : n < 96) (h0 : n ≠ 0) :
    ∃ s2 st2, writePAt u u.focus su.bank n v = s2 ∧ s2.strandAt u.focus = some st2 ∧ SameRest st2 su ∧
      Kept u (s2.setStrandAt u.focus st2) [] [n] [] (fun _ => False) ∧ (s2.setStrandAt u.focus st2).p n = v ∧ (s2.setStrandAt u.focus st2).strand = st2 := by
  have hsu : u.strand = su := by simp [State.strand, hu]
  -- the register stands in the strand, or in the trap bank of its context
  have strand : ∀ st2, SameRest st2 su → writePAt u u.focus su.bank n v = u.setStrandAt u.focus st2 →
      (∀ b m, (m ≠ n ∨ b ≠ su.bank ∧ 88 ≤ m) → readPAt u u.focus st2 b m = readPAt u u.focus su b m) →
      (∀ b m, readXAt u u.focus st2 b m = readXAt u u.focus su b m) → readPAt u u.focus st2 su.bank n = v →
      ∃ s2 st2, writePAt u u.focus su.bank n v = s2 ∧ s2.strandAt u.focus = some st2 ∧ SameRest st2 su ∧
        Kept u (s2.setStrandAt u.focus st2) [] [n] [] (fun _ => False) ∧ (s2.setStrandAt u.focus st2).p n = v ∧
        (s2.setStrandAt u.focus st2).strand = st2 := by
    intro st2 hs hw hx hp hv
    have hst : (u.setStrandAt u.focus st2).strand = st2 := strand_setStrandAt_focus _ _
    have at' : ∀ b m, readPAt (u.setStrandAt u.focus st2) u.focus st2 b m = readPAt u u.focus st2 b m := by
      intro b m
      simp [readPAt]
    have pt' : ∀ b m, readXAt (u.setStrandAt u.focus st2) u.focus st2 b m = readXAt u u.focus st2 b m := by
      intro b m
      simp [readXAt]
    refine ⟨_, st2, hw, strandAt_setStrandAt_same _ _ _, hs, ?_, ?_, ?_⟩
    · rw [setStrandAt_twice]
      exact kept_setCtx hsu rfl rfl rfl rfl hs (fun b m _ => (pt' b m).trans (hp b m))
        (fun b m h => (at' b m).trans (hx b m (by simpa using h)))
    · rw [setStrandAt_twice]
      simp only [State.p, hst, setStrandAt_focus, hs.bank, at']
      exact hv
    · rw [setStrandAt_twice, hst]
  have rest : ∀ a b, SameRest { su with ps := a, shadowP := b } su := fun _ _ =>
    ⟨rfl, rfl, rfl, rfl, rfl, rfl, rfl, rfl, rfl, rfl, rfl, rfl, rfl, rfl, rfl, rfl, rfl⟩
  by_cases hm : n < 88 ∨ su.bank = .main
  · refine strand { su with ps := setBit su.ps n v } (rest _ _) ?_ ?_ (fun _ _ => rfl) ?_
    · have hn0 : (n == 0) = false := beq_eq_false_iff_ne.2 h0
      simp only [writePAt, hu, hn0, Bool.false_eq_true, if_false]
      rcases hm with h | h
      · rw [if_pos h]
      · rw [h, ite_self]
    · intro b m h
      by_cases hmn : m = n
      · subst hmn
        have h88 : b ≠ su.bank ∧ 88 ≤ m := by simpa using h
        rcases hm with h' | h'
        · omega
        · rw [h'] at h88
          have hk : ¬ m < 88 := by omega
          simp only [readPAt, beq_eq_false_iff_ne.2 h0, Bool.false_eq_true, if_false, if_neg hk]
          cases b with
          | main => exact absurd rfl h88.1
          | trap => rfl
          | shadow => rfl
      · simp only [readPAt, getLsbD_setBit_other su.ps v hmn]
    · rcases hm with h | h <;> simp [readPAt, h0, h, getLsbD_setBit_same su.ps v hn]
  · have h88 : ¬ n < 88 := fun h => hm (.inl h)
    have h8 : n - 88 < 8 := by omega
    cases hb : su.bank with
    | main => exact absurd (.inr hb) hm
    | shadow =>
      rw [← hb]
      refine strand { su with shadowP := setBit su.shadowP (n - 88) v } (rest _ _) ?_ ?_ (fun _ _ => rfl) ?_
      · simp only [writePAt, hu, beq_eq_false_iff_ne.2 h0, Bool.false_eq_true, if_false, if_neg h88, hb]
      · intro b m h
        by_cases hmn : m = n
        · subst hmn
          have h' : b ≠ su.bank := (by simpa using h : b ≠ su.bank ∧ 88 ≤ m).1
          rw [hb] at h'
          simp only [readPAt, beq_eq_false_iff_ne.2 h0, Bool.false_eq_true, if_false, if_neg h88]
          cases b with
          | shadow => exact absurd rfl h'
          | main => rfl
          | trap => rfl
        · simp only [readPAt]
          split
          · rfl
          · split
            · rfl
            · cases b with
              | shadow =>
                simp only
                rw [getLsbD_setBit_other su.shadowP v (by omega)]
              | main => rfl
              | trap => rfl
      · simp only [readPAt, hb, getLsbD_setBit_same su.shadowP v h8]
        simp [h0, h88]
    | trap =>
      have hctx : (u.ctx u.focus).strand = some su := hu
      refine ⟨u.setCtx u.focus { u.ctx u.focus with trapP := setBit (u.ctx u.focus).trapP (n - 88) v }, su,
        by simp only [writePAt, hu, beq_eq_false_iff_ne.2 h0, Bool.false_eq_true, if_false, if_neg h88], by simpa [State.strandAt] using hu, rest _ _, ?_, ?_, ?_⟩ <;>
        rw [setStrandAt_setCtx]
      · refine kept_setCtx hsu rfl rfl rfl rfl (rest _ _) (fun b m _ => by simp [readXAt]) ?_
        intro b m h
        simp only [readPAt, ctx_setCtx_same]
        split
        · rfl
        · split
          · rfl
          · cases b with
            | trap =>
              have hmn : m ≠ n := by simpa [hb] using h
              simp only
              rw [getLsbD_setBit_other (u.ctx u.focus).trapP v (by omega)]
            | main => rfl
            | shadow => rfl
      · have hst : (u.setCtx u.focus { u.ctx u.focus with trapP := setBit (u.ctx u.focus).trapP (n - 88) v, strand := some su }).strand = su := by
          simp [State.strand, State.strandAt]
        simp only [State.p, hst, setCtx_focus, readPAt, hb, ctx_setCtx_same, getLsbD_setBit_same (u.ctx u.focus).trapP v h8]
        simp [h0, h88]
      · simp [State.strand, State.strandAt]

end Sys2Proof.Laws
end

