-- ==== Sys2Proof/Laws/Memory.lean ====
section
/-!
SUPPORT. The byte memory: every operation on it keeps the canonical form, a read after a write gives the byte written, and a write
leaves every other byte as it was.
-/
namespace Sys2Proof.Laws

open Sys2Proof Sys2Proof.Machine

/-! ### The canonical form -/

theorem wf_cons {k : Nat} {v : Byte} {m : List Host.Cell} :
    Memory.wf ((k, v) :: m) = true ↔ v ≠ blankByte ∧ (∀ c ∈ m, k < c.1) ∧ Memory.wf m = true := by
  simp [Memory.wf, and_assoc]

theorem mem_memSet {m : List Host.Cell} {a : Nat} {b : Byte} {c : Host.Cell} (h : c ∈ memSet m a b) : c ∈ m ∨ c = (a, b) := by
  induction m with
  | nil =>
    unfold memSet at h
    split at h <;> simp_all
  | cons e m ih =>
    obtain ⟨k, v⟩ := e
    unfold memSet at h
    split at h
    · split at h <;> simp only [List.mem_cons] at h ⊢ <;> tauto
    · split at h
      · split at h <;> simp only [List.mem_cons] at h ⊢ <;> tauto
      · rcases List.mem_cons.1 h with h | h
        · exact .inl (by simp [h])
        · rcases ih h with h | h <;> simp [h]

theorem wf_memSet {m : List Host.Cell} (a : Nat) (b : Byte) (h : Memory.wf m = true) : Memory.wf (memSet m a b) = true := by
  induction m with
  | nil =>
    unfold memSet
    split <;> simp_all [Memory.wf]
  | cons e m ih =>
    obtain ⟨k, v⟩ := e
    obtain ⟨hv, hk, hm⟩ := wf_cons.1 h
    unfold memSet
    split
    · rename_i hak
      split
      · exact h
      · rename_i hb
        refine wf_cons.2 ⟨by simpa using hb, ?_, h⟩
        rintro c hc
        rcases List.mem_cons.1 hc with rfl | hc
        · exact hak
        · exact hak.trans (hk c hc)
    · split
      · rename_i hak
        have hak' : a = k := by simpa using hak
        split
        · exact hm
        · rename_i hb
          exact wf_cons.2 ⟨by simpa using hb, by simpa [hak'] using hk, hm⟩
      · rename_i h1 h2
        have h2' : a ≠ k := by simpa using h2
        refine wf_cons.2 ⟨hv, ?_, ih hm⟩
        intro c hc
        rcases mem_memSet hc with hc | rfl
        · exact hk c hc
        · show k < a
          omega

theorem wf_memPut {m : List Host.Cell} (a : Nat) (bs : List Byte) (h : Memory.wf m = true) : Memory.wf (memPut m a bs) = true := by
  induction bs generalizing m a with
  | nil => exact h
  | cons b bs ih => exact ih _ (wf_memSet a b h)

theorem wf_filter {m : List Host.Cell} (p : Host.Cell → Bool) (h : Memory.wf m = true) : Memory.wf (m.filter p) = true := by
  induction m with
  | nil => rfl
  | cons e m ih =>
    obtain ⟨k, v⟩ := e
    obtain ⟨hv, hk, hm⟩ := wf_cons.1 h
    rw [List.filter_cons]
    split
    · exact wf_cons.2 ⟨hv, fun c hc => hk c (List.mem_filter.1 hc).1, ih hm⟩
    · exact ih hm

theorem wf_memClear {m : List Host.Cell} (a n : Nat) (h : Memory.wf m = true) : Memory.wf (memClear m a n) = true := wf_filter _ h

theorem wf_foldl_memSet {l m : List Host.Cell} (f : Host.Cell → Nat) (h : Memory.wf m = true) :
    Memory.wf (l.foldl (fun acc c => memSet acc (f c) c.2) m) = true := by
  induction l generalizing m with
  | nil => exact h
  | cons c l ih => exact ih (wf_memSet _ _ h)

theorem wf_memMove {m : List Host.Cell} (src dst n : Nat) (h : Memory.wf m = true) : Memory.wf (memMove m src dst n) = true :=
  wf_foldl_memSet _ (wf_memClear dst n h)

/-! ### The same over states -/

theorem wf_writePhys {s : State} (a : Nat) (data : List Byte) (h : Memory.wf s.mem = true) : Memory.wf (s.writePhys a data).mem = true := by
  unfold State.writePhys
  split
  · exact h
  · exact h
  · exact wf_memPut a data h

theorem wf_foldl {α : Type} (f : State → α → State) (hf : ∀ s a, Memory.wf s.mem = true → Memory.wf (f s a).mem = true) (l : List α)
    {s : State} (h : Memory.wf s.mem = true) : Memory.wf (l.foldl f s).mem = true := by
  induction l generalizing s with
  | nil => exact h
  | cons a l ih => exact ih (hf s a h)

theorem wf_writePieces {s : State} (ps : List (Nat × Nat)) (data : List Byte) (h : Memory.wf s.mem = true) :
    Memory.wf (s.writePieces ps data).mem = true := by
  induction ps generalizing s data with
  | nil => exact h
  | cons p ps ih => exact ih _ (wf_writePhys _ _ h)

theorem wf_moveBytes {s : State} (src dst n : Nat) (h : Memory.wf s.mem = true) : Memory.wf (moveBytes s src dst n).mem = true := by
  unfold moveBytes
  exact wf_memMove src dst n h

@[simp] theorem engineMap_mem (s : State) (g : Agent) (va : Nat) : (engineMap s g va).2.mem = s.mem := by
  unfold engineMap
  cases tlbFind s g.owner g.asid va with
  | some m => rfl
  | none =>
    cases engineWalked s g va with
    | some r => rfl
    | none => cases walkTables s g.asid va <;> simp [tlbFill, noteMiss] <;> split <;> rfl

@[simp] theorem engineAccess_mem (s : State) (g : Agent) (va n : Nat) (need : Need) : (engineAccess s g va n need).2.mem = s.mem := by
  unfold engineAccess
  split
  · rfl
  · simp only
    split
    · exact engineMap_mem ..
    · simp only
      split <;> simp

@[simp] theorem modByUid_mem (s : State) (uid : Nat) (f : Strand → Strand) : (s.modByUid uid f).mem = s.mem := rfl

@[simp] theorem engineAnswer_mem (s : State) (g : Agent) (j : Nat) : (engineAnswer s g j).mem = s.mem := by
  unfold engineAnswer
  split
  · exact modByUid_mem ..
  · rfl

theorem wf_engineWrite {s : State} (g : Agent) (va : Nat) (data : List Byte) (h : Memory.wf s.mem = true) :
    Memory.wf (engineWrite s g va data).2.mem = true := by
  have hm := engineAccess_mem s g va data.length .w
  unfold engineWrite
  generalize engineAccess s g va data.length .w = r at hm
  obtain ⟨r, s'⟩ := r
  have hw : Memory.wf s'.mem = true := by rw [show s'.mem = s.mem from hm]; exact h
  cases r with
  | error e => exact hw
  | ok a =>
    simp only
    repeat' split
    all_goals first | exact hw | exact wf_writePieces _ _ hw | (simp only [engineAnswer_mem]; exact hw)

theorem wf_of_engineWrite {s s1 : State} {g : Agent} {va : Nat} {data : List Byte} {r : Option Raise}
    (he : engineWrite s g va data = (r, s1)) (h : Memory.wf s.mem = true) : Memory.wf s1.mem = true := by
  simpa only [he] using wf_engineWrite g va data h

theorem wf_drainRing (n : Nat) {s : State} (die : Nat) (h : Memory.wf s.mem = true) : Memory.wf (drainRing n s die).mem = true := by
  induction n generalizing s with
  | zero => exact h
  | succ n ih =>
    unfold drainRing
    simp only
    split
    · exact h
    · split
      · exact h
      · refine ih (wf_writePhys _ _ ?_)
        exact h

theorem wf_postEvent {s : State} (die kind cause core ctx : Nat) (info : Word) (noframe : Bool) (h : Memory.wf s.mem = true) :
    Memory.wf (postEvent s die kind cause core ctx info noframe).mem = true := wf_drainRing _ _ h

theorem wf_setStrandAt {s : State} (k : Nat) (st : Strand) (h : Memory.wf s.mem = true) : Memory.wf (s.setStrandAt k st).mem = true := h

theorem wf_doubleFault {s : State} (key : Nat) (r : Raise) (frame : Option Nat) (h : Memory.wf s.mem = true) :
    Memory.wf (doubleFault s key r frame).mem = true := by
  unfold doubleFault
  split
  · exact h
  · exact wf_postEvent _ _ _ _ _ _ _ h

/-- Taking a trap keeps the memory's form, whichever way it goes. -/
theorem wf_takeTrap {s : State} (key : Nat) (r : Raise) (deferred : Bool) (es : List Replay) (resume : Nat) (h : Memory.wf s.mem = true) :
    Memory.wf (takeTrap s key r deferred es resume).mem = true := by
  unfold takeTrap
  split
  · exact h
  · simp only
    split
    · exact wf_doubleFault _ _ _ h
    · split
      · exact wf_doubleFault _ _ _ h
      · split
        · rename_i heq
          exact wf_doubleFault _ _ _ (wf_of_engineWrite heq h)
        · rename_i heq
          exact wf_setStrandAt _ _ (wf_of_engineWrite heq h)

/-! ### Reading after writing -/

theorem memGet_low {m : List Host.Cell} {a : Nat} (h : ∀ c ∈ m, a < c.1) : memGet m a = blankByte := by
  induction m with
  | nil => rfl
  | cons e m ih =>
    obtain ⟨k, v⟩ := e
    have hk : a < k := h (k, v) (by simp)
    have : (a == k) = false := by simp; omega
    simp only [memGet, this]
    exact ih fun c hc => h c (by simp [hc])

theorem memGet_memSet_same {m : List Host.Cell} (a : Nat) (b : Byte) (h : Memory.wf m = true) : memGet (memSet m a b) a = b := by
  induction m with
  | nil =>
    unfold memSet
    split <;> simp_all [memGet]
  | cons e m ih =>
    obtain ⟨k, v⟩ := e
    obtain ⟨hv, hk, hm⟩ := wf_cons.1 h
    unfold memSet
    split
    · rename_i hak
      split
      · rename_i hb
        rw [memGet_low]
        · simpa using (show b = blankByte by simpa using hb).symm
        · rintro c hc
          rcases List.mem_cons.1 hc with rfl | hc
          · exact hak
          · exact hak.trans (hk c hc)
      · simp [memGet]
    · split
      · rename_i hak
        have hak' : a = k := by simpa using hak
        split
        · rename_i hb
          rw [memGet_low (by simpa [hak'] using hk)]
          exact (show b = blankByte by simpa using hb).symm
        · simp [memGet]
      · rename_i h1 h2
        simp only [memGet, h2]
        exact ih hm

theorem memGet_memSet_other (m : List Host.Cell) {a x : Nat} (b : Byte) (h : x ≠ a) : memGet (memSet m a b) x = memGet m x := by
  have hxa : (x == a) = false := by simpa using h
  induction m with
  | nil =>
    unfold memSet
    split <;> simp [memGet, hxa]
  | cons e m ih =>
    obtain ⟨k, v⟩ := e
    unfold memSet
    split
    · split <;> simp [memGet, hxa]
    · split
      · rename_i hak
        have hak' : a = k := by simpa using hak
        have hxk : (x == k) = false := by rw [← hak']; exact hxa
        split <;> simp [memGet, hxa, hxk]
      · simp only [memGet]
        split
        · rfl
        · exact ih

/-- A write of bytes leaves every byte outside them as it was. -/
theorem memGet_memPut_other (m : List Host.Cell) {a x : Nat} (bs : List Byte) (h : x < a ∨ a + bs.length ≤ x) :
    memGet (memPut m a bs) x = memGet m x := by
  induction bs generalizing m a with
  | nil => rfl
  | cons b bs ih =>
    simp only [List.length_cons] at h
    rw [memPut, ih (memSet m a b) (by omega), memGet_memSet_other m b (by omega)]

/-- A byte written reads back. -/
theorem memGet_memPut_same {m : List Host.Cell} (hm : Memory.wf m = true) {a k : Nat} {bs : List Byte} (h : k < bs.length) :
    memGet (memPut m a bs) (a + k) = bs[k] := by
  induction bs generalizing m a k with
  | nil => simp at h
  | cons b bs ih =>
    rw [memPut]
    cases k with
    | zero =>
      rw [memGet_memPut_other _ _ (by omega)]
      exact memGet_memSet_same a b hm
    | succ k =>
      have := ih (m := memSet m a b) (wf_memSet a b hm) (a := a + 1) (k := k) (by simpa using h)
      rw [show a + (k + 1) = a + 1 + k by omega, this]
      rfl

end Sys2Proof.Laws
end

