-- ==== Sys2Proof/Laws/PerInstr.lean ====
section
/-!
SUPPORT. The family Encoding: the word of an instruction fits the 56 bits of a slot (R51, R53), one lemma for each constructor; an
event has no word.
-/
namespace Sys2Proof.Laws

open Sys2Proof

/-- Every field fits its width. -/
def FieldsFit : List (Nat × Nat) → Prop
  | [] => True
  | f :: fs => f.2 < 2 ^ f.1 ∧ FieldsFit fs

/-- Fields that fit their widths make a number that fits the sum of the widths. -/
theorem packFields_lt {fs : List (Nat × Nat)} (h : FieldsFit fs) : packFields fs < 2 ^ (fs.map Prod.fst).sum := by
  induction fs with
  | nil => simp [packFields]
  | cons f fs ih =>
    obtain ⟨k, v⟩ := f
    obtain ⟨h1, h2⟩ := h
    have h3 := ih h2
    simp only [packFields, List.map_cons, List.sum_cons, Nat.pow_add]
    calc v * 2 ^ (fs.map Prod.fst).sum + packFields fs < v * 2 ^ (fs.map Prod.fst).sum + 2 ^ (fs.map Prod.fst).sum := by omega
      _ = (v + 1) * 2 ^ (fs.map Prod.fst).sum := by ring
      _ ≤ 2 ^ k * 2 ^ (fs.map Prod.fst).sum := Nat.mul_le_mul_right _ h1

theorem encC_lt {opc ops : Nat} (h1 : opc < 2 ^ 8) (h2 : ops < 2 ^ 48) : encC opc ops < 2 ^ 56 :=
  packFields_lt (fs := [(8, opc), (48, ops)]) ⟨h1, h2, trivial⟩

theorem encTagged_lt {opc ops : Nat} {t : Tag} (h1 : opc < 2 ^ 8) (h2 : ops < 2 ^ 37) : encTagged opc t ops < 2 ^ 56 :=
  packFields_lt (fs := [(8, opc), (3, t.path.toNat), (7, t.gp.toNat), (1, t.gn.toNat), (37, ops)])
    ⟨h1, t.path.isLt, t.gp.isLt, t.gn.isLt, h2, trivial⟩

/-- The word that an instruction has in its slot, if it has one, fits 56 bits. -/
def Encoding.Statement (i : Instr) : Prop := ∀ k w, encodeSlot i = some (k, w) → w < 2 ^ 56

theorem statement_of {i : Instr} {k0 : SlotKind} {w0 : Nat} (he : encodeSlot i = some (k0, w0)) (hw : w0 < 2 ^ 56) :
    Encoding.Statement i := by
  intro k w h
  obtain ⟨-, rfl⟩ := Prod.mk.inj (Option.some.inj (he.symm.trans h))
  exact hw

/-- An instruction of the C slot. -/
theorem statement_ofC {i : Instr} {k0 : SlotKind} {opc : Nat} {fs : List (Nat × Nat)}
    (he : encodeSlot i = some (k0, encC opc (packFields fs))) (h1 : opc < 2 ^ 8) (h2 : (fs.map Prod.fst).sum = 48) (h3 : FieldsFit fs) :
    Encoding.Statement i := statement_of he (encC_lt h1 (h2 ▸ packFields_lt h3))

/-- An instruction of another slot. -/
theorem statement_ofTagged {i : Instr} {k0 : SlotKind} {opc : Nat} {t : Tag} {fs : List (Nat × Nat)}
    (he : encodeSlot i = some (k0, encTagged opc t (packFields fs))) (h1 : opc < 2 ^ 8) (h2 : (fs.map Prod.fst).sum = 37)
    (h3 : FieldsFit fs) : Encoding.Statement i := statement_of he (encTagged_lt h1 (h2 ▸ packFields_lt h3))

/-- An event. -/
theorem statement_ofNone {i : Instr} (he : encodeSlot i = none) : Encoding.Statement i := by
  intro k w h
  exact absurd (he.symm.trans h) (by simp)

namespace Encoding

theorem brLabel : ∀ off, Statement (.brLabel off) := fun off => statement_ofC rfl (by decide) rfl ⟨by decide, off.isLt, trivial⟩
theorem brReg : ∀ b, Statement (.brReg b) := fun b => statement_ofC rfl (by decide) rfl ⟨by decide, b.isLt, trivial⟩
theorem btree : ∀ t0 t1 t2 t3, Statement (.btree t0 t1 t2 t3) := fun t0 t1 t2 t3 =>
  statement_ofC rfl (by decide) rfl ⟨by decide, t3.pred.isLt, t3.polarity.isLt, t3.target.isLt, t2.pred.isLt, t2.polarity.isLt, t2.target.isLt, t1.pred.isLt, t1.polarity.isLt, t1.target.isLt, t0.pred.isLt, t0.polarity.isLt, t0.target.isLt, trivial⟩
theorem callLabel : ∀ off, Statement (.callLabel off) := fun off => statement_ofC rfl (by decide) rfl ⟨by decide, off.isLt, trivial⟩
theorem callReg : ∀ b, Statement (.callReg b) := fun b => statement_ofC rfl (by decide) rfl ⟨by decide, b.isLt, trivial⟩
theorem ret : Statement (.ret) := statement_of rfl (encC_lt (by decide) (by decide))
theorem movb : ∀ xf bd xa off, Statement (.movb xf bd xa off) := fun xf bd xa off =>
  statement_ofC rfl (by decide) rfl ⟨xf.isLt, bd.isLt, xa.isLt, by decide, off.isLt, trivial⟩
theorem loopImm : ∀ endOff count, Statement (.loopImm endOff count) := fun endOff count =>
  statement_ofC rfl (by decide) rfl ⟨endOff.isLt, count.isLt, trivial⟩
theorem loopX : ∀ endOff xa, Statement (.loopX endOff xa) := fun endOff xa =>
  statement_ofC rfl (by decide) rfl ⟨endOff.isLt, by decide, xa.isLt, trivial⟩
theorem loopSpool : ∀ endOff s, Statement (.loopSpool endOff s) := fun endOff s =>
  statement_ofC rfl (by decide) rfl ⟨endOff.isLt, by decide, s.isLt, trivial⟩
theorem loops : ∀ endOff sm1 pk xf count, Statement (.loops endOff sm1 pk xf count) := fun endOff sm1 pk xf count =>
  statement_ofC rfl (by decide) rfl ⟨endOff.isLt, sm1.isLt, pk.isLt, xf.isLt, count.isLt, trivial⟩
theorem leave : ∀ n, Statement (.leave n) := fun n => statement_ofC rfl (by decide) rfl ⟨by decide, n.isLt, trivial⟩
theorem pand : ∀ na nb pd pa pb, Statement (.pand na nb pd pa pb) := fun na nb pd pa pb =>
  statement_ofC rfl (by decide) rfl ⟨by decide, na.isLt, nb.isLt, pd.isLt, pa.isLt, pb.isLt, trivial⟩
theorem por : ∀ na nb pd pa pb, Statement (.por na nb pd pa pb) := fun na nb pd pa pb =>
  statement_ofC rfl (by decide) rfl ⟨by decide, na.isLt, nb.isLt, pd.isLt, pa.isLt, pb.isLt, trivial⟩
theorem pxor : ∀ na nb pd pa pb, Statement (.pxor na nb pd pa pb) := fun na nb pd pa pb =>
  statement_ofC rfl (by decide) rfl ⟨by decide, na.isLt, nb.isLt, pd.isLt, pa.isLt, pb.isLt, trivial⟩
theorem pnot : ∀ pd pa, Statement (.pnot pd pa) := fun pd pa =>
  statement_ofC rfl (by decide) rfl ⟨by decide, pd.isLt, pa.isLt, by decide, trivial⟩
theorem pmov : ∀ na pd pa, Statement (.pmov na pd pa) := fun na pd pa =>
  statement_ofC rfl (by decide) rfl ⟨by decide, na.isLt, by decide, pd.isLt, pa.isLt, by decide, trivial⟩
theorem done : Statement (.done) := statement_of rfl (encC_lt (by decide) (by decide))
theorem yield : Statement (.yield) := statement_of rfl (encC_lt (by decide) (by decide))
theorem waitt : ∀ xa, Statement (.waitt xa) := fun xa => statement_ofC rfl (by decide) rfl ⟨by decide, xa.isLt, trivial⟩
theorem bar : ∀ o paths, Statement (.bar o paths) := fun o paths =>
  statement_ofC rfl (by decide) rfl ⟨by decide, o.isLt, paths.isLt, trivial⟩
theorem trig : Statement (.trig) := statement_of rfl (encC_lt (by decide) (by decide))
theorem sysc : ∀ code, Statement (.sysc code) := fun code => statement_ofC rfl (by decide) rfl ⟨by decide, code.isLt, trivial⟩
theorem brk : ∀ code, Statement (.brk code) := fun code => statement_ofC rfl (by decide) rfl ⟨by decide, code.isLt, trivial⟩
theorem rft : Statement (.rft) := statement_of rfl (encC_lt (by decide) (by decide))
theorem uret : Statement (.uret) := statement_of rfl (encC_lt (by decide) (by decide))
theorem mfs : ∀ xd srn, Statement (.mfs xd srn) := fun xd srn => statement_ofC rfl (by decide) rfl ⟨by decide, xd.isLt, srn.isLt, trivial⟩
theorem mts : ∀ xa srn, Statement (.mts xa srn) := fun xa srn => statement_ofC rfl (by decide) rfl ⟨by decide, xa.isLt, srn.isLt, trivial⟩
theorem add : ∀ t xd xa xb mode, Statement (.add t xd xa xb mode) := fun t xd xa xb mode =>
  statement_ofTagged rfl (by decide) rfl ⟨xd.isLt, xa.isLt, xb.isLt, mode.isLt, by decide, trivial⟩
theorem addi : ∀ t xd xa imm, Statement (.addi t xd xa imm) := fun t xd xa imm =>
  statement_ofTagged rfl (by decide) rfl ⟨xd.isLt, xa.isLt, imm.isLt, trivial⟩
theorem sub : ∀ t xd xa xb mode, Statement (.sub t xd xa xb mode) := fun t xd xa xb mode =>
  statement_ofTagged rfl (by decide) rfl ⟨xd.isLt, xa.isLt, xb.isLt, mode.isLt, by decide, trivial⟩
theorem mul : ∀ t xd xa xb, Statement (.mul t xd xa xb) := fun t xd xa xb =>
  statement_ofTagged rfl (by decide) rfl ⟨xd.isLt, xa.isLt, xb.isLt, by decide, trivial⟩
theorem mulh : ∀ t xd xa xb, Statement (.mulh t xd xa xb) := fun t xd xa xb =>
  statement_ofTagged rfl (by decide) rfl ⟨xd.isLt, xa.isLt, xb.isLt, by decide, trivial⟩
theorem mulhn : ∀ t xd xa xb, Statement (.mulhn t xd xa xb) := fun t xd xa xb =>
  statement_ofTagged rfl (by decide) rfl ⟨xd.isLt, xa.isLt, xb.isLt, by decide, trivial⟩
theorem div : ∀ t xd xa xb, Statement (.div t xd xa xb) := fun t xd xa xb =>
  statement_ofTagged rfl (by decide) rfl ⟨xd.isLt, xa.isLt, xb.isLt, by decide, trivial⟩
theorem divn : ∀ t xd xa xb, Statement (.divn t xd xa xb) := fun t xd xa xb =>
  statement_ofTagged rfl (by decide) rfl ⟨xd.isLt, xa.isLt, xb.isLt, by decide, trivial⟩
theorem rem : ∀ t xd xa xb, Statement (.rem t xd xa xb) := fun t xd xa xb =>
  statement_ofTagged rfl (by decide) rfl ⟨xd.isLt, xa.isLt, xb.isLt, by decide, trivial⟩
theorem remn : ∀ t xd xa xb, Statement (.remn t xd xa xb) := fun t xd xa xb =>
  statement_ofTagged rfl (by decide) rfl ⟨xd.isLt, xa.isLt, xb.isLt, by decide, trivial⟩
theorem and : ∀ t xd xa xb, Statement (.and t xd xa xb) := fun t xd xa xb =>
  statement_ofTagged rfl (by decide) rfl ⟨xd.isLt, xa.isLt, xb.isLt, by decide, trivial⟩
theorem andi : ∀ t xd xa imm, Statement (.andi t xd xa imm) := fun t xd xa imm =>
  statement_ofTagged rfl (by decide) rfl ⟨xd.isLt, xa.isLt, imm.isLt, trivial⟩
theorem or : ∀ t xd xa xb, Statement (.or t xd xa xb) := fun t xd xa xb =>
  statement_ofTagged rfl (by decide) rfl ⟨xd.isLt, xa.isLt, xb.isLt, by decide, trivial⟩
theorem ori : ∀ t xd xa imm, Statement (.ori t xd xa imm) := fun t xd xa imm =>
  statement_ofTagged rfl (by decide) rfl ⟨xd.isLt, xa.isLt, imm.isLt, trivial⟩
theorem xor : ∀ t xd xa xb, Statement (.xor t xd xa xb) := fun t xd xa xb =>
  statement_ofTagged rfl (by decide) rfl ⟨xd.isLt, xa.isLt, xb.isLt, by decide, trivial⟩
theorem xori : ∀ t xd xa imm, Statement (.xori t xd xa imm) := fun t xd xa imm =>
  statement_ofTagged rfl (by decide) rfl ⟨xd.isLt, xa.isLt, imm.isLt, trivial⟩
theorem shl : ∀ t xd xa xb, Statement (.shl t xd xa xb) := fun t xd xa xb =>
  statement_ofTagged rfl (by decide) rfl ⟨xd.isLt, xa.isLt, xb.isLt, by decide, trivial⟩
theorem shli : ∀ t xd xa amount, Statement (.shli t xd xa amount) := fun t xd xa amount =>
  statement_ofTagged rfl (by decide) rfl ⟨xd.isLt, xa.isLt, by decide, amount.isLt, trivial⟩
theorem shr : ∀ t xd xa xb, Statement (.shr t xd xa xb) := fun t xd xa xb =>
  statement_ofTagged rfl (by decide) rfl ⟨xd.isLt, xa.isLt, xb.isLt, by decide, trivial⟩
theorem shri : ∀ t xd xa amount, Statement (.shri t xd xa amount) := fun t xd xa amount =>
  statement_ofTagged rfl (by decide) rfl ⟨xd.isLt, xa.isLt, by decide, amount.isLt, trivial⟩
theorem sar : ∀ t xd xa xb, Statement (.sar t xd xa xb) := fun t xd xa xb =>
  statement_ofTagged rfl (by decide) rfl ⟨xd.isLt, xa.isLt, xb.isLt, by decide, trivial⟩
theorem sari : ∀ t xd xa amount, Statement (.sari t xd xa amount) := fun t xd xa amount =>
  statement_ofTagged rfl (by decide) rfl ⟨xd.isLt, xa.isLt, by decide, amount.isLt, trivial⟩
theorem min : ∀ t xd xa xb, Statement (.min t xd xa xb) := fun t xd xa xb =>
  statement_ofTagged rfl (by decide) rfl ⟨xd.isLt, xa.isLt, xb.isLt, by decide, trivial⟩
theorem max : ∀ t xd xa xb, Statement (.max t xd xa xb) := fun t xd xa xb =>
  statement_ofTagged rfl (by decide) rfl ⟨xd.isLt, xa.isLt, xb.isLt, by decide, trivial⟩
theorem minn : ∀ t xd xa xb, Statement (.minn t xd xa xb) := fun t xd xa xb =>
  statement_ofTagged rfl (by decide) rfl ⟨xd.isLt, xa.isLt, xb.isLt, by decide, trivial⟩
theorem maxn : ∀ t xd xa xb, Statement (.maxn t xd xa xb) := fun t xd xa xb =>
  statement_ofTagged rfl (by decide) rfl ⟨xd.isLt, xa.isLt, xb.isLt, by decide, trivial⟩
theorem cmp : ∀ t pd xa xb cc fmt, Statement (.cmp t pd xa xb cc fmt) := fun t pd xa xb cc fmt =>
  statement_ofTagged rfl (by decide) rfl ⟨pd.isLt, xa.isLt, xb.isLt, cc.isLt, fmt.isLt, by decide, trivial⟩
theorem cmpi : ∀ t pd xa cc imm, Statement (.cmpi t pd xa cc imm) := fun t pd xa cc imm =>
  statement_ofTagged rfl (by decide) rfl ⟨pd.isLt, xa.isLt, cc.isLt, imm.isLt, trivial⟩
theorem sel : ∀ t xd xa xb ps, Statement (.sel t xd xa xb ps) := fun t xd xa xb ps =>
  statement_ofTagged rfl (by decide) rfl ⟨xd.isLt, xa.isLt, xb.isLt, ps.isLt, by decide, trivial⟩
theorem lea : ∀ t xd xa xb sh imm, Statement (.lea t xd xa xb sh imm) := fun t xd xa xb sh imm =>
  statement_ofTagged rfl (by decide) rfl ⟨xd.isLt, xa.isLt, xb.isLt, sh.isLt, imm.isLt, trivial⟩
theorem li : ∀ t xd imm, Statement (.li t xd imm) := fun t xd imm => statement_ofTagged rfl (by decide) rfl ⟨xd.isLt, imm.isLt, trivial⟩
theorem lih : ∀ t xd imm, Statement (.lih t xd imm) := fun t xd imm => statement_ofTagged rfl (by decide) rfl ⟨xd.isLt, imm.isLt, trivial⟩
theorem clz : ∀ t xd xa, Statement (.clz t xd xa) := fun t xd xa =>
  statement_ofTagged rfl (by decide) rfl ⟨xd.isLt, xa.isLt, by decide, trivial⟩
theorem ctz : ∀ t xd xa, Statement (.ctz t xd xa) := fun t xd xa =>
  statement_ofTagged rfl (by decide) rfl ⟨xd.isLt, xa.isLt, by decide, trivial⟩
theorem popc : ∀ t xd xa, Statement (.popc t xd xa) := fun t xd xa =>
  statement_ofTagged rfl (by decide) rfl ⟨xd.isLt, xa.isLt, by decide, trivial⟩
theorem bfx : ∀ t xd xa pos lm1 sx, Statement (.bfx t xd xa pos lm1 sx) := fun t xd xa pos lm1 sx =>
  statement_ofTagged rfl (by decide) rfl ⟨xd.isLt, xa.isLt, pos.isLt, lm1.isLt, sx.isLt, by decide, trivial⟩
theorem bfi : ∀ t xd xa pos lm1, Statement (.bfi t xd xa pos lm1) := fun t xd xa pos lm1 =>
  statement_ofTagged rfl (by decide) rfl ⟨xd.isLt, xa.isLt, pos.isLt, lm1.isLt, by decide, trivial⟩
theorem fadd : ∀ t xd xa xb fmt rm, Statement (.fadd t xd xa xb fmt rm) := fun t xd xa xb fmt rm =>
  statement_ofTagged rfl (by decide) rfl ⟨xd.isLt, xa.isLt, xb.isLt, by decide, fmt.isLt, rm.isLt, by decide, trivial⟩
theorem fsub : ∀ t xd xa xb fmt rm, Statement (.fsub t xd xa xb fmt rm) := fun t xd xa xb fmt rm =>
  statement_ofTagged rfl (by decide) rfl ⟨xd.isLt, xa.isLt, xb.isLt, by decide, fmt.isLt, rm.isLt, by decide, trivial⟩
theorem fmul : ∀ t xd xa xb fmt rm, Statement (.fmul t xd xa xb fmt rm) := fun t xd xa xb fmt rm =>
  statement_ofTagged rfl (by decide) rfl ⟨xd.isLt, xa.isLt, xb.isLt, by decide, fmt.isLt, rm.isLt, by decide, trivial⟩
theorem ffma : ∀ t xd xa xb xc fmt rm, Statement (.ffma t xd xa xb xc fmt rm) := fun t xd xa xb xc fmt rm =>
  statement_ofTagged rfl (by decide) rfl ⟨xd.isLt, xa.isLt, xb.isLt, xc.isLt, fmt.isLt, rm.isLt, by decide, trivial⟩
theorem fmin : ∀ t xd xa xb fmt, Statement (.fmin t xd xa xb fmt) := fun t xd xa xb fmt =>
  statement_ofTagged rfl (by decide) rfl ⟨xd.isLt, xa.isLt, xb.isLt, by decide, fmt.isLt, by decide, trivial⟩
theorem fmax : ∀ t xd xa xb fmt, Statement (.fmax t xd xa xb fmt) := fun t xd xa xb fmt =>
  statement_ofTagged rfl (by decide) rfl ⟨xd.isLt, xa.isLt, xb.isLt, by decide, fmt.isLt, by decide, trivial⟩
theorem fcmp : ∀ t pd xa xb cc fmt, Statement (.fcmp t pd xa xb cc fmt) := fun t pd xa xb cc fmt =>
  statement_ofTagged rfl (by decide) rfl ⟨pd.isLt, xa.isLt, xb.isLt, cc.isLt, fmt.isLt, by decide, trivial⟩
theorem fcvt : ∀ t xd xa fd fs rm sat, Statement (.fcvt t xd xa fd fs rm sat) := fun t xd xa fd fs rm sat =>
  statement_ofTagged rfl (by decide) rfl ⟨xd.isLt, xa.isLt, fd.isLt, fs.isLt, rm.isLt, sat.isLt, by decide, trivial⟩
theorem vadd : ∀ t vd va pa vb pb et sx, Statement (.vadd t vd va pa vb pb et sx) := fun t vd va pa vb pb et sx =>
  statement_ofTagged rfl (by decide) rfl ⟨vd.isLt, va.isLt, pa.isLt, vb.isLt, pb.isLt, et.isLt, sx.isLt, trivial⟩
theorem vsub : ∀ t vd va pa vb pb et sx, Statement (.vsub t vd va pa vb pb et sx) := fun t vd va pa vb pb et sx =>
  statement_ofTagged rfl (by decide) rfl ⟨vd.isLt, va.isLt, pa.isLt, vb.isLt, pb.isLt, et.isLt, sx.isLt, trivial⟩
theorem vmul : ∀ t vd va pa vb pb et, Statement (.vmul t vd va pa vb pb et) := fun t vd va pa vb pb et =>
  statement_ofTagged rfl (by decide) rfl ⟨vd.isLt, va.isLt, pa.isLt, vb.isLt, pb.isLt, et.isLt, by decide, trivial⟩
theorem vfma : ∀ t vd pd va pa vb pb et, Statement (.vfma t vd pd va pa vb pb et) := fun t vd pd va pa vb pb et =>
  statement_ofTagged rfl (by decide) rfl ⟨vd.isLt, pd.isLt, va.isLt, pa.isLt, vb.isLt, pb.isLt, et.isLt, trivial⟩
theorem vmin : ∀ t vd va pa vb pb et, Statement (.vmin t vd va pa vb pb et) := fun t vd va pa vb pb et =>
  statement_ofTagged rfl (by decide) rfl ⟨vd.isLt, va.isLt, pa.isLt, vb.isLt, pb.isLt, et.isLt, by decide, trivial⟩
theorem vmax : ∀ t vd va pa vb pb et, Statement (.vmax t vd va pa vb pb et) := fun t vd va pa vb pb et =>
  statement_ofTagged rfl (by decide) rfl ⟨vd.isLt, va.isLt, pa.isLt, vb.isLt, pb.isLt, et.isLt, by decide, trivial⟩
theorem vabs : ∀ t vd va pa et, Statement (.vabs t vd va pa et) := fun t vd va pa et =>
  statement_ofTagged rfl (by decide) rfl ⟨vd.isLt, va.isLt, pa.isLt, by decide, et.isLt, by decide, trivial⟩
theorem vneg : ∀ t vd va pa et, Statement (.vneg t vd va pa et) := fun t vd va pa et =>
  statement_ofTagged rfl (by decide) rfl ⟨vd.isLt, va.isLt, pa.isLt, by decide, et.isLt, by decide, trivial⟩
theorem vand : ∀ t vd va pa vb pb et, Statement (.vand t vd va pa vb pb et) := fun t vd va pa vb pb et =>
  statement_ofTagged rfl (by decide) rfl ⟨vd.isLt, va.isLt, pa.isLt, vb.isLt, pb.isLt, et.isLt, by decide, trivial⟩
theorem vor : ∀ t vd va pa vb pb et, Statement (.vor t vd va pa vb pb et) := fun t vd va pa vb pb et =>
  statement_ofTagged rfl (by decide) rfl ⟨vd.isLt, va.isLt, pa.isLt, vb.isLt, pb.isLt, et.isLt, by decide, trivial⟩
theorem vxor : ∀ t vd va pa vb pb et, Statement (.vxor t vd va pa vb pb et) := fun t vd va pa vb pb et =>
  statement_ofTagged rfl (by decide) rfl ⟨vd.isLt, va.isLt, pa.isLt, vb.isLt, pb.isLt, et.isLt, by decide, trivial⟩
theorem vnot : ∀ t vd va pa et, Statement (.vnot t vd va pa et) := fun t vd va pa et =>
  statement_ofTagged rfl (by decide) rfl ⟨vd.isLt, va.isLt, pa.isLt, by decide, et.isLt, by decide, trivial⟩
theorem vshl : ∀ t vd va pa vb pb et, Statement (.vshl t vd va pa vb pb et) := fun t vd va pa vb pb et =>
  statement_ofTagged rfl (by decide) rfl ⟨vd.isLt, va.isLt, pa.isLt, vb.isLt, pb.isLt, et.isLt, by decide, trivial⟩
theorem vshr : ∀ t vd va pa vb pb et, Statement (.vshr t vd va pa vb pb et) := fun t vd va pa vb pb et =>
  statement_ofTagged rfl (by decide) rfl ⟨vd.isLt, va.isLt, pa.isLt, vb.isLt, pb.isLt, et.isLt, by decide, trivial⟩
theorem vsar : ∀ t vd va pa vb pb et, Statement (.vsar t vd va pa vb pb et) := fun t vd va pa vb pb et =>
  statement_ofTagged rfl (by decide) rfl ⟨vd.isLt, va.isLt, pa.isLt, vb.isLt, pb.isLt, et.isLt, by decide, trivial⟩
theorem vcmp : ∀ t vd va pa vb pb fmt cc, Statement (.vcmp t vd va pa vb pb fmt cc) := fun t vd va pa vb pb fmt cc =>
  statement_ofTagged rfl (by decide) rfl ⟨vd.isLt, va.isLt, pa.isLt, vb.isLt, pb.isLt, fmt.isLt, cc.isLt, trivial⟩
theorem vsel : ∀ t vd pd va pa vb pb et, Statement (.vsel t vd pd va pa vb pb et) := fun t vd pd va pa vb pb et =>
  statement_ofTagged rfl (by decide) rfl ⟨vd.isLt, pd.isLt, va.isLt, pa.isLt, vb.isLt, pb.isLt, et.isLt, trivial⟩
theorem vcvt : ∀ t vd va pa fd fs rm sat part, Statement (.vcvt t vd va pa fd fs rm sat part) := fun t vd va pa fd fs rm sat part =>
  statement_ofTagged rfl (by decide) rfl ⟨vd.isLt, va.isLt, pa.isLt, fd.isLt, fs.isLt, rm.isLt, sat.isLt, part.isLt, by decide, trivial⟩
theorem vbcst : ∀ t vd xa et, Statement (.vbcst t vd xa et) := fun t vd xa et =>
  statement_ofTagged rfl (by decide) rfl ⟨vd.isLt, xa.isLt, et.isLt, by decide, trivial⟩
theorem vperm : ∀ t vd va pa vb pb et, Statement (.vperm t vd va pa vb pb et) := fun t vd va pa vb pb et =>
  statement_ofTagged rfl (by decide) rfl ⟨vd.isLt, va.isLt, pa.isLt, vb.isLt, pb.isLt, et.isLt, by decide, trivial⟩
theorem vins : ∀ t vd pd xa ew idx, Statement (.vins t vd pd xa ew idx) := fun t vd pd xa ew idx =>
  statement_ofTagged rfl (by decide) rfl ⟨vd.isLt, pd.isLt, xa.isLt, ew.isLt, idx.isLt, by decide, trivial⟩
theorem vext : ∀ t xd va pa et idx, Statement (.vext t xd va pa et idx) := fun t xd va pa et idx =>
  statement_ofTagged rfl (by decide) rfl ⟨xd.isLt, va.isLt, pa.isLt, et.isLt, by decide, idx.isLt, by decide, trivial⟩
theorem vred : ∀ t xd va pa et op, Statement (.vred t xd va pa et op) := fun t xd va pa et op =>
  statement_ofTagged rfl (by decide) rfl ⟨xd.isLt, va.isLt, pa.isLt, et.isLt, op.isLt, by decide, trivial⟩
theorem vamax : ∀ t xd va pa et, Statement (.vamax t xd va pa et) := fun t xd va pa et =>
  statement_ofTagged rfl (by decide) rfl ⟨xd.isLt, va.isLt, pa.isLt, et.isLt, by decide, trivial⟩
theorem vargmx : ∀ t xd va pa et, Statement (.vargmx t xd va pa et) := fun t xd va pa et =>
  statement_ofTagged rfl (by decide) rfl ⟨xd.isLt, va.isLt, pa.isLt, et.isLt, by decide, trivial⟩
theorem vexp2 : ∀ t vd va pa et, Statement (.vexp2 t vd va pa et) := fun t vd va pa et =>
  statement_ofTagged rfl (by decide) rfl ⟨vd.isLt, va.isLt, pa.isLt, by decide, et.isLt, by decide, trivial⟩
theorem vlog2 : ∀ t vd va pa et, Statement (.vlog2 t vd va pa et) := fun t vd va pa et =>
  statement_ofTagged rfl (by decide) rfl ⟨vd.isLt, va.isLt, pa.isLt, by decide, et.isLt, by decide, trivial⟩
theorem vrcp : ∀ t vd va pa et, Statement (.vrcp t vd va pa et) := fun t vd va pa et =>
  statement_ofTagged rfl (by decide) rfl ⟨vd.isLt, va.isLt, pa.isLt, by decide, et.isLt, by decide, trivial⟩
theorem vrsq : ∀ t vd va pa et, Statement (.vrsq t vd va pa et) := fun t vd va pa et =>
  statement_ofTagged rfl (by decide) rfl ⟨vd.isLt, va.isLt, pa.isLt, by decide, et.isLt, by decide, trivial⟩
theorem vmask : ∀ t vd va pa vb pb et, Statement (.vmask t vd va pa vb pb et) := fun t vd va pa vb pb et =>
  statement_ofTagged rfl (by decide) rfl ⟨vd.isLt, va.isLt, pa.isLt, vb.isLt, pb.isLt, et.isLt, by decide, trivial⟩
theorem vsprs : ∀ t vd va pa fmt, Statement (.vsprs t vd va pa fmt) := fun t vd va pa fmt =>
  statement_ofTagged rfl (by decide) rfl ⟨vd.isLt, va.isLt, pa.isLt, fmt.isLt, by decide, trivial⟩
theorem ld : ∀ t xv xa sz imm, Statement (.ld t xv xa sz imm) := fun t xv xa sz imm =>
  statement_ofTagged rfl (by decide) rfl ⟨xv.isLt, xa.isLt, sz.isLt, imm.isLt, trivial⟩
theorem st : ∀ t xv xa sz imm, Statement (.st t xv xa sz imm) := fun t xv xa sz imm =>
  statement_ofTagged rfl (by decide) rfl ⟨xv.isLt, xa.isLt, sz.isLt, imm.isLt, trivial⟩
theorem lda : ∀ t xv xa sz scope imm, Statement (.lda t xv xa sz scope imm) := fun t xv xa sz scope imm =>
  statement_ofTagged rfl (by decide) rfl ⟨xv.isLt, xa.isLt, sz.isLt, scope.isLt, imm.isLt, trivial⟩
theorem stl : ∀ t xv xa sz scope imm, Statement (.stl t xv xa sz scope imm) := fun t xv xa sz scope imm =>
  statement_ofTagged rfl (by decide) rfl ⟨xv.isLt, xa.isLt, sz.isLt, scope.isLt, imm.isLt, trivial⟩
theorem vld : ∀ t vv xa imm, Statement (.vld t vv xa imm) := fun t vv xa imm =>
  statement_ofTagged rfl (by decide) rfl ⟨vv.isLt, by decide, xa.isLt, imm.isLt, trivial⟩
theorem vst : ∀ t vv pv xa imm, Statement (.vst t vv pv xa imm) := fun t vv pv xa imm =>
  statement_ofTagged rfl (by decide) rfl ⟨vv.isLt, pv.isLt, xa.isLt, imm.isLt, trivial⟩
theorem amo : ∀ t xd xa xb op w ord scope, Statement (.amo t xd xa xb op w ord scope) := fun t xd xa xb op w ord scope =>
  statement_ofTagged rfl (by decide) rfl ⟨xd.isLt, xa.isLt, xb.isLt, op.isLt, w.isLt, ord.isLt, scope.isLt, by decide, trivial⟩
theorem acas : ∀ t xd xa xb xc ord scope, Statement (.acas t xd xa xb xc ord scope) := fun t xd xa xb xc ord scope =>
  statement_ofTagged rfl (by decide) rfl ⟨xd.isLt, xa.isLt, xb.isLt, xc.isLt, ord.isLt, scope.isLt, by decide, trivial⟩
theorem fence : ∀ t scope src dst, Statement (.fence t scope src dst) := fun t scope src dst =>
  statement_ofTagged rfl (by decide) rfl ⟨scope.isLt, src.isLt, dst.isLt, by decide, trivial⟩
theorem drain : ∀ t paths, Statement (.drain t paths) := fun t paths =>
  statement_ofTagged rfl (by decide) rfl ⟨paths.isLt, by decide, trivial⟩
theorem scfg : ∀ t va pa sd, Statement (.scfg t va pa sd) := fun t va pa sd =>
  statement_ofTagged rfl (by decide) rfl ⟨by decide, va.isLt, pa.isLt, sd.isLt, by decide, trivial⟩
theorem srel : ∀ t sd, Statement (.srel t sd) := fun t sd => statement_ofTagged rfl (by decide) rfl ⟨by decide, sd.isLt, by decide, trivial⟩
theorem dcp : ∀ t tag vs ps vd pd, Statement (.dcp t tag vs ps vd pd) := fun t tag vs ps vd pd =>
  statement_ofTagged rfl (by decide) rfl ⟨tag.isLt, vs.isLt, ps.isLt, vd.isLt, pd.isLt, by decide, trivial⟩
theorem dstat : ∀ t xd tag, Statement (.dstat t xd tag) := fun t xd tag =>
  statement_ofTagged rfl (by decide) rfl ⟨xd.isLt, by decide, tag.isLt, by decide, trivial⟩
theorem frd : ∀ t xd xa, Statement (.frd t xd xa) := fun t xd xa =>
  statement_ofTagged rfl (by decide) rfl ⟨xd.isLt, xa.isLt, by decide, trivial⟩
theorem fwr : ∀ t xa xb, Statement (.fwr t xa xb) := fun t xa xb =>
  statement_ofTagged rfl (by decide) rfl ⟨by decide, xa.isLt, xb.isLt, by decide, trivial⟩
theorem fclr : ∀ t xa, Statement (.fclr t xa) := fun t xa => statement_ofTagged rfl (by decide) rfl ⟨by decide, xa.isLt, by decide, trivial⟩
theorem spawn : ∀ t xe xa xb xc, Statement (.spawn t xe xa xb xc) := fun t xe xa xb xc =>
  statement_ofTagged rfl (by decide) rfl ⟨xe.isLt, xa.isLt, xb.isLt, xc.isLt, by decide, trivial⟩
theorem lnch : ∀ t xa va pa, Statement (.lnch t xa va pa) := fun t xa va pa =>
  statement_ofTagged rfl (by decide) rfl ⟨xa.isLt, va.isLt, pa.isLt, by decide, by decide, trivial⟩
theorem hfam : ∀ t va pa f, Statement (.hfam t va pa f) := fun t va pa f =>
  statement_ofTagged rfl (by decide) rfl ⟨by decide, va.isLt, pa.isLt, f.isLt, by decide, trivial⟩
theorem hprb : ∀ t sd xt xo xc qs qn pq, Statement (.hprb t sd xt xo xc qs qn pq) := fun t sd xt xo xc qs qn pq =>
  statement_ofTagged rfl (by decide) rfl ⟨sd.isLt, xt.isLt, xo.isLt, xc.isLt, qs.isLt, qn.isLt, pq.isLt, by decide, trivial⟩
theorem hins : ∀ t xt xi, Statement (.hins t xt xi) := fun t xt xi =>
  statement_ofTagged rfl (by decide) rfl ⟨by decide, xt.isLt, xi.isLt, by decide, trivial⟩
theorem hdel : ∀ t xt xi, Statement (.hdel t xt xi) := fun t xt xi =>
  statement_ofTagged rfl (by decide) rfl ⟨by decide, xt.isLt, xi.isLt, by decide, trivial⟩
theorem hreh : ∀ t xt xn, Statement (.hreh t xt xn) := fun t xt xn =>
  statement_ofTagged rfl (by decide) rfl ⟨by decide, xt.isLt, xn.isLt, by decide, trivial⟩
theorem hacc : ∀ t xa va pa, Statement (.hacc t xa va pa) := fun t xa va pa =>
  statement_ofTagged rfl (by decide) rfl ⟨xa.isLt, va.isLt, pa.isLt, by decide, by decide, trivial⟩
theorem merge : ∀ t xa sd, Statement (.merge t xa sd) := fun t xa sd =>
  statement_ofTagged rfl (by decide) rfl ⟨by decide, xa.isLt, by decide, sd.isLt, by decide, trivial⟩
theorem cred : ∀ t xa, Statement (.cred t xa) := fun t xa => statement_ofTagged rfl (by decide) rfl ⟨by decide, xa.isLt, by decide, trivial⟩
theorem tlbiAll : ∀ t, Statement (.tlbiAll t) := fun t => statement_of rfl (encTagged_lt (by decide) (by decide))
theorem tlbiAs : ∀ t xb, Statement (.tlbiAs t xb) := fun t xb =>
  statement_ofTagged rfl (by decide) rfl ⟨by decide, by decide, xb.isLt, by decide, by decide, by decide, trivial⟩
theorem tlbiPage : ∀ t xa xb, Statement (.tlbiPage t xa xb) := fun t xa xb =>
  statement_ofTagged rfl (by decide) rfl ⟨by decide, xa.isLt, xb.isLt, by decide, by decide, by decide, trivial⟩
theorem lvs : ∀ t xa xb, Statement (.lvs t xa xb) := fun t xa xb =>
  statement_ofTagged rfl (by decide) rfl ⟨by decide, xa.isLt, xb.isLt, by decide, trivial⟩
theorem lvr : ∀ t xa xb, Statement (.lvr t xa xb) := fun t xa xb =>
  statement_ofTagged rfl (by decide) rfl ⟨by decide, xa.isLt, xb.isLt, by decide, trivial⟩
theorem cprog : ∀ t pg va pa, Statement (.cprog t pg va pa) := fun t pg va pa =>
  statement_ofTagged rfl (by decide) rfl ⟨pg.isLt, va.isLt, pa.isLt, by decide, trivial⟩
theorem csel : ∀ t pg, Statement (.csel t pg) := fun t pg => statement_ofTagged rfl (by decide) rfl ⟨pg.isLt, by decide, trivial⟩
theorem aflow : ∀ t xa, Statement (.aflow t xa) := fun t xa => statement_ofTagged rfl (by decide) rfl ⟨xa.isLt, by decide, trivial⟩
theorem aldbLocal : ∀ t tv pt, Statement (.aldbLocal t tv pt) := fun t tv pt =>
  statement_ofTagged rfl (by decide) rfl ⟨by decide, tv.isLt, pt.isLt, by decide, trivial⟩
theorem aldbCluster : ∀ t xa xb, Statement (.aldbCluster t xa xb) := fun t xa xb =>
  statement_ofTagged rfl (by decide) rfl ⟨by decide, xa.isLt, xb.isLt, by decide, trivial⟩
theorem arun : ∀ t av asp an pan bsp bn pbn mm1, Statement (.arun t av asp an pan bsp bn pbn mm1) := fun t av asp an pan bsp bn pbn mm1 =>
  statement_ofTagged rfl (by decide) rfl ⟨av.isLt, asp.isLt, an.isLt, pan.isLt, bsp.isLt, bn.isLt, pbn.isLt, mm1.isLt, by decide, trivial⟩
theorem aruns : ∀ t av asp an pan mv pmv mm1, Statement (.aruns t av asp an pan mv pmv mm1) := fun t av asp an pan mv pmv mm1 =>
  statement_ofTagged rfl (by decide) rfl ⟨av.isLt, asp.isLt, an.isLt, pan.isLt, mv.isLt, pmv.isLt, mm1.isLt, by decide, trivial⟩
theorem ascl : ∀ t am ta bm tb, Statement (.ascl t am ta bm tb) := fun t am ta bm tb =>
  statement_ofTagged rfl (by decide) rfl ⟨am.isLt, ta.isLt, bm.isLt, tb.isLt, by decide, trivial⟩
theorem aclrView : ∀ t av, Statement (.aclrView t av) := fun t av =>
  statement_ofTagged rfl (by decide) rfl ⟨by decide, av.isLt, by decide, trivial⟩
theorem aclrArray : ∀ t, Statement (.aclrArray t) := fun t => statement_ofTagged rfl (by decide) rfl ⟨by decide, by decide, trivial⟩
theorem adrn : ∀ t td sk av pav sat, Statement (.adrn t td sk av pav sat) := fun t td sk av pav sat =>
  statement_ofTagged rfl (by decide) rfl ⟨td.isLt, sk.isLt, av.isLt, pav.isLt, sat.isLt, by decide, trivial⟩
theorem txin : ∀ t va pa row, Statement (.txin t va pa row) := fun t va pa row =>
  statement_ofTagged rfl (by decide) rfl ⟨va.isLt, pa.isLt, row.isLt, by decide, trivial⟩
theorem txout : ∀ t vd ci h wl, Statement (.txout t vd ci h wl) := fun t vd ci h wl =>
  statement_ofTagged rfl (by decide) rfl ⟨vd.isLt, ci.isLt, h.isLt, wl.isLt, by decide, trivial⟩
theorem txclr : ∀ t, Statement (.txclr t) := fun t => statement_of rfl (encTagged_lt (by decide) (by decide))
theorem idleBundle : ∀ a0 a1, Statement (.idleBundle a0 a1) := fun _ _ => statement_ofNone rfl
theorem resultLanding : ∀ a0 a1, Statement (.resultLanding a0 a1) := fun _ _ => statement_ofNone rfl
theorem farLoadLanding : ∀ a0 a1 a2, Statement (.farLoadLanding a0 a1 a2) := fun _ _ _ => statement_ofNone rfl
theorem farStorePerform : ∀ a0 a1 a2, Statement (.farStorePerform a0 a1 a2) := fun _ _ _ => statement_ofNone rfl
theorem windowWrite : ∀ a0 a1 a2, Statement (.windowWrite a0 a1 a2) := fun _ _ _ => statement_ofNone rfl
theorem windowRead : ∀ a0 a1 a2, Statement (.windowRead a0 a1 a2) := fun _ _ _ => statement_ofNone rfl
theorem eccCorrection : ∀ a0, Statement (.eccCorrection a0) := fun _ => statement_ofNone rfl
theorem uncorrectableError : ∀ a0, Statement (.uncorrectableError a0) := fun _ => statement_ofNone rfl
theorem walkComplete : ∀ a0, Statement (.walkComplete a0) := fun _ => statement_ofNone rfl
theorem trapEntry : ∀ a0 a1 a2 a3, Statement (.trapEntry a0 a1 a2 a3) := fun _ _ _ _ => statement_ofNone rfl
theorem userInterrupt : ∀ a0 a1, Statement (.userInterrupt a0 a1) := fun _ _ => statement_ofNone rfl
theorem budgetExpiry : ∀ a0 a1, Statement (.budgetExpiry a0 a1) := fun _ _ => statement_ofNone rfl
theorem hung : ∀ a0 a1, Statement (.hung a0 a1) := fun _ _ => statement_ofNone rfl
theorem preemption : ∀ a0 a1, Statement (.preemption a0 a1) := fun _ _ => statement_ofNone rfl
theorem timeSliceSwitch : ∀ a0 a1, Statement (.timeSliceSwitch a0 a1) := fun _ _ => statement_ofNone rfl
theorem strandSwitch : ∀ a0 a1, Statement (.strandSwitch a0 a1) := fun _ _ => statement_ofNone rfl
theorem contextSaveComplete : ∀ a0 a1, Statement (.contextSaveComplete a0 a1) := fun _ _ => statement_ofNone rfl
theorem strandResume : ∀ a0 a1, Statement (.strandResume a0 a1) := fun _ _ => statement_ofNone rfl
theorem contextSwitch : ∀ a0, Statement (.contextSwitch a0) := fun _ => statement_ofNone rfl
theorem skeinBind : ∀ a0 a1 a2 a3, Statement (.skeinBind a0 a1 a2 a3) := fun _ _ _ _ => statement_ofNone rfl
theorem pointFire : ∀ a0 a1 a2 a3 a4 a5, Statement (.pointFire a0 a1 a2 a3 a4 a5) := fun _ _ _ _ _ _ => statement_ofNone rfl
theorem pointCompletion : ∀ a0 a1 a2 a3, Statement (.pointCompletion a0 a1 a2 a3) := fun _ _ _ _ => statement_ofNone rfl
theorem launchAdmission : ∀ a0, Statement (.launchAdmission a0) := fun _ => statement_ofNone rfl
theorem doorbell : ∀ a0 a1, Statement (.doorbell a0 a1) := fun _ _ => statement_ofNone rfl
theorem taskPacketArrival : ∀ a0, Statement (.taskPacketArrival a0) := fun _ => statement_ofNone rfl
theorem taskBind : ∀ a0 a1, Statement (.taskBind a0 a1) := fun _ _ => statement_ofNone rfl
theorem spoolElementFetch : ∀ a0 a1 a2, Statement (.spoolElementFetch a0 a1 a2) := fun _ _ _ => statement_ofNone rfl
theorem storeSpoolWrite : ∀ a0 a1 a2, Statement (.storeSpoolWrite a0 a1 a2) := fun _ _ _ => statement_ofNone rfl
theorem copyElement : ∀ a0, Statement (.copyElement a0) := fun _ => statement_ofNone rfl
theorem copyCompletion : ∀ a0, Statement (.copyCompletion a0) := fun _ => statement_ofNone rfl
theorem mergeStart : ∀ a0, Statement (.mergeStart a0) := fun _ => statement_ofNone rfl
theorem mergeEnd : ∀ a0, Statement (.mergeEnd a0) := fun _ => statement_ofNone rfl
theorem probeStart : ∀ a0 a1, Statement (.probeStart a0 a1) := fun _ _ => statement_ofNone rfl
theorem probeEnd : ∀ a0 a1, Statement (.probeEnd a0 a1) := fun _ _ => statement_ofNone rfl
theorem updateStart : ∀ a0 a1, Statement (.updateStart a0 a1) := fun _ _ => statement_ofNone rfl
theorem updateEnd : ∀ a0 a1, Statement (.updateEnd a0 a1) := fun _ _ => statement_ofNone rfl
theorem arrayStart : ∀ a0 a1, Statement (.arrayStart a0 a1) := fun _ _ => statement_ofNone rfl
theorem arrayElement : ∀ a0 a1, Statement (.arrayElement a0 a1) := fun _ _ => statement_ofNone rfl
theorem arrayCompletion : ∀ a0 a1, Statement (.arrayCompletion a0 a1) := fun _ _ => statement_ofNone rfl
theorem multicastRowRead : ∀ a0, Statement (.multicastRowRead a0) := fun _ => statement_ofNone rfl
theorem collectiveStart : ∀ a0, Statement (.collectiveStart a0) := fun _ => statement_ofNone rfl
theorem collectiveEnd : ∀ a0 a1 a2, Statement (.collectiveEnd a0 a1 a2) := fun _ _ _ => statement_ofNone rfl
theorem sluiceArrival : ∀ a0 a1 a2 a3, Statement (.sluiceArrival a0 a1 a2 a3) := fun _ _ _ _ => statement_ofNone rfl
theorem fabricAccess : ∀ a0 a1 a2, Statement (.fabricAccess a0 a1 a2) := fun _ _ _ => statement_ofNone rfl
theorem fabricResponse : ∀ a0 a1 a2 a3 a4 a5, Statement (.fabricResponse a0 a1 a2 a3 a4 a5) := fun _ _ _ _ _ _ => statement_ofNone rfl
theorem fabricTimeout : ∀ a0 a1 a2, Statement (.fabricTimeout a0 a1 a2) := fun _ _ _ => statement_ofNone rfl
theorem hostAccess : ∀ a0 a1, Statement (.hostAccess a0 a1) := fun _ _ => statement_ofNone rfl
theorem syncMessage : ∀ a0 a1, Statement (.syncMessage a0 a1) := fun _ _ => statement_ofNone rfl
theorem syncTimeout : Statement (.syncTimeout) := statement_ofNone rfl
theorem waittExpiry : ∀ a0 a1, Statement (.waittExpiry a0 a1) := fun _ _ => statement_ofNone rfl
theorem powerOnBoot : Statement (.powerOnBoot) := statement_ofNone rfl
theorem quote : ∀ a0, Statement (.quote a0) := fun _ => statement_ofNone rfl
theorem securityVersionRaise : ∀ a0 a1, Statement (.securityVersionRaise a0 a1) := fun _ _ => statement_ofNone rfl
theorem identityRead : ∀ a0 a1, Statement (.identityRead a0 a1) := fun _ _ => statement_ofNone rfl
theorem devctl : ∀ a0, Statement (.devctl a0) := fun _ => statement_ofNone rfl
theorem svpoolAppend : ∀ a0 a1, Statement (.svpoolAppend a0 a1) := fun _ _ => statement_ofNone rfl
theorem ptpcfg : ∀ a0, Statement (.ptpcfg a0) := fun _ => statement_ofNone rfl
theorem hostRegisterWrite : ∀ a0 a1, Statement (.hostRegisterWrite a0 a1) := fun _ _ => statement_ofNone rfl
theorem halt : Statement (.halt) := statement_ofNone rfl
theorem debugResume : Statement (.debugResume) := statement_ofNone rfl
theorem step : Statement (.step) := statement_ofNone rfl
theorem debuggerHalt : ∀ a0, Statement (.debuggerHalt a0) := fun _ => statement_ofNone rfl
theorem dbgdata : ∀ a0, Statement (.dbgdata a0) := fun _ => statement_ofNone rfl
theorem go : Statement (.go) := statement_ofNone rfl
theorem abort : Statement (.abort) := statement_ofNone rfl
theorem recv : Statement (.recv) := statement_ofNone rfl
theorem evacStopComplete : Statement (.evacStopComplete) := statement_ofNone rfl
theorem evacStreamComplete : Statement (.evacStreamComplete) := statement_ofNone rfl
theorem evacDrainComplete : Statement (.evacDrainComplete) := statement_ofNone rfl
theorem evacTimeout : Statement (.evacTimeout) := statement_ofNone rfl
theorem adopted : ∀ a0, Statement (.adopted a0) := fun _ => statement_ofNone rfl
theorem throttle : ∀ a0 a1, Statement (.throttle a0 a1) := fun _ _ => statement_ofNone rfl
theorem thermalShutdown : ∀ a0, Statement (.thermalShutdown a0) := fun _ => statement_ofNone rfl
theorem powerOff : Statement (.powerOff) := statement_ofNone rfl
theorem stationDown : ∀ a0 a1, Statement (.stationDown a0 a1) := fun _ _ => statement_ofNone rfl
theorem loadComplete : ∀ a0 a1, Statement (.loadComplete a0 a1) := fun _ _ => statement_ofNone rfl

end Encoding

end Sys2Proof.Laws
end

