-- ==== Sys2Proof/Laws/Words.lean ====
section
/-!
SUPPORT. The functions of scalar words are those of the library's bit vectors.
-/
namespace Sys2Proof.Laws

open Sys2Proof Sys2Proof.Machine

theorem w64_wrap (x : Int) : w64 (wrap 64 x) = BitVec.ofInt 64 x := by
  apply BitVec.eq_of_toNat_eq
  simp only [w64, wrap, BitVec.toNat_ofNat, BitVec.toNat_ofInt]
  have h1 : 0 ≤ x % 2 ^ 64 := Int.emod_nonneg _ (by norm_num)
  have h2 : x % 2 ^ 64 < 2 ^ 64 := Int.emod_lt_of_pos _ (by norm_num)
  push_cast
  omega

theorem satInt_unsigned (v : Int) : w64 (satInt 7 v) = BitVec.ofNat 64 (min (2 ^ 64 - 1) v.toNat) := by
  rw [satInt, intEncode]
  refine (w64_wrap _).trans ?_
  apply BitVec.eq_of_toNat_eq
  simp only [BitVec.toNat_ofNat, BitVec.toNat_ofInt]
  have : intClamp 7 v = max 0 (min (2 ^ 64 - 1) v) := rfl
  rw [this]
  omega

theorem addWords_wrap (a b : Word) : addWords 0 a b = a + b := by
  simp only [addWords, clampMode]
  apply BitVec.eq_of_toNat_eq
  simp only [BitVec.toNat_ofInt, BitVec.toNat_add]
  push_cast
  omega

theorem subWords_wrap (a b : Word) : subWords 0 a b = a - b := by
  simp only [subWords, clampMode]
  apply BitVec.eq_of_toNat_eq
  simp only [BitVec.toNat_ofInt, BitVec.toNat_sub]
  push_cast
  have := a.isLt
  have := b.isLt
  omega

theorem satInt_signed (v : Int) : w64 (satInt 3 v) = BitVec.ofInt 64 (max (-2 ^ 63) (min (2 ^ 63 - 1) v)) := by
  rw [satInt, intEncode]
  exact w64_wrap _

theorem addWords_unsigned (a b : Word) : addWords 2 a b = BitVec.ofNat 64 (min (2 ^ 64 - 1) (a.toNat + b.toNat)) := by
  simp only [addWords, clampMode]
  exact satInt_unsigned _

theorem subWords_unsigned (a b : Word) : subWords 2 a b = BitVec.ofNat 64 (a.toNat - b.toNat) := by
  simp only [subWords, clampMode]
  refine (satInt_unsigned _).trans ?_
  have := a.isLt
  congr 1
  omega

theorem mulHighN_eq (a b : Word) : mulHighN a b = (a.zeroExtend 128 * b.zeroExtend 128).extractLsb' 64 64 := by
  apply BitVec.eq_of_toNat_eq
  simp only [mulHighN, w64, BitVec.toNat_ofNat, BitVec.extractLsb'_toNat, Nat.shiftRight_eq_div_pow, BitVec.toNat_mul, BitVec.truncate_eq_setWidth, BitVec.toNat_setWidth]
  have ha := a.isLt
  have hb := b.isLt
  have : a.toNat * b.toNat < 2 ^ 128 := by nlinarith
  rw [Nat.mod_eq_of_lt (by omega : a.toNat < 2 ^ 128), Nat.mod_eq_of_lt (by omega : b.toNat < 2 ^ 128), Nat.mod_eq_of_lt this]

theorem shift_amount (b : Word) : (b.extractLsb' 0 6).toNat = b.toNat % 64 := by
  simp [BitVec.extractLsb'_toNat]

theorem minWord_eq (a b : Word) : minWord a b = if a.slt b then a else b := by
  unfold minWord
  simp only [BitVec.slt, decide_eq_true_eq]
  split <;> split <;> first | rfl | omega | (apply BitVec.eq_of_toInt_eq; omega)

theorem maxWord_eq (a b : Word) : maxWord a b = if a.slt b then b else a := by
  unfold maxWord
  simp only [BitVec.slt, decide_eq_true_eq]

theorem minWordN_eq (a b : Word) : minWordN a b = if a.ult b then a else b := by
  unfold minWordN
  simp only [BitVec.ult, decide_eq_true_eq]
  split <;> split <;> first | rfl | omega | (apply BitVec.eq_of_toNat_eq; omega)

theorem maxWordN_eq (a b : Word) : maxWordN a b = if a.ult b then b else a := by
  unfold maxWordN
  simp only [BitVec.ult, decide_eq_true_eq]

theorem shlWord_eq (a b : Word) : shlWord a b = a <<< (b.extractLsb' 0 6).toNat := by rw [shift_amount]; rfl

theorem shrWord_eq (a b : Word) : shrWord a b = a >>> (b.extractLsb' 0 6).toNat := by rw [shift_amount]; rfl

theorem sarWord_eq (a b : Word) : sarWord a b = a.sshiftRight (b.extractLsb' 0 6).toNat := by rw [shift_amount]; rfl

theorem divWords_eq (a b : Word) : divWords a b = a.sdiv b := by
  apply BitVec.eq_of_toInt_eq
  rw [divWords, BitVec.toInt_ofInt, BitVec.toInt_sdiv]

theorem divWordsN_eq (a b : Word) : divWordsN a b = a / b := by
  apply BitVec.eq_of_toNat_eq
  simp [divWordsN, w64]
  exact Nat.lt_of_le_of_lt (Nat.div_le_self _ _) a.isLt

theorem remWordsN_eq (a b : Word) : remWordsN a b = a % b := by
  apply BitVec.eq_of_toNat_eq
  simp [remWordsN, w64]
  exact Nat.lt_of_le_of_lt (Nat.mod_le _ _) a.isLt

theorem mulHigh_eq (a b : Word) : mulHigh a b = (a.signExtend 128 * b.signExtend 128).extractLsb' 64 64 := by
  apply BitVec.eq_of_toNat_eq
  simp only [mulHigh, BitVec.toNat_ofInt, BitVec.extractLsb'_toNat, Nat.shiftRight_eq_div_pow]
  have h1 : (a.signExtend 128 * b.signExtend 128).toInt = (a.toInt * b.toInt).bmod (2 ^ 128) := by
    rw [BitVec.toInt_mul, BitVec.toInt_signExtend_of_le (by norm_num), BitVec.toInt_signExtend_of_le (by norm_num)]
  have h3 : (a.signExtend 128 * b.signExtend 128).toNat = ((a.toInt * b.toInt) % 2 ^ 128).toNat := by
    conv_lhs => rw [← BitVec.ofInt_toInt (x := a.signExtend 128 * b.signExtend 128)]
    rw [BitVec.toNat_ofInt, h1]
    congr 1
    exact_mod_cast Int.bmod_emod
  rw [h3]
  generalize a.toInt * b.toInt = x
  omega

theorem remWords_eq (a b : Word) : remWords a b = a.srem b := by
  apply BitVec.eq_of_toInt_eq
  rw [remWords, BitVec.toInt_ofInt, BitVec.toInt_srem]
  rw [← BitVec.toInt_srem]
  have := BitVec.toInt_bmod_cancel (a.srem b)
  exact this

theorem popcWord_eq (a : Word) : popcWord a = a.cpop := by
  apply BitVec.eq_of_toNat_eq
  simp only [popcWord, w64, BitVec.cpop, BitVec.toNat_ofNat]
  congr 1
  have h : ∀ n acc, BitVec.cpopNatRec a n acc = acc + ((List.range n).filter fun i => a.getLsbD i).length := by
    intro n
    induction n with
    | zero => intro acc; simp [BitVec.cpopNatRec]
    | succ n ih =>
      intro acc
      rw [BitVec.cpopNatRec, ih, List.range_succ, List.filter_append, List.length_append]
      cases h : a.getLsbD n <;> simp [List.filter, h] <;> omega
  rw [h]
  simp

theorem bfxWord_zero (a : Word) (pos lm1 : BitVec 6) : bfxWord a pos.toNat (lm1.toNat+1) false = (a.extractLsb' pos.toNat (lm1.toNat + 1)).zeroExtend 64 := by
  apply BitVec.eq_of_toNat_eq
  simp [bfxWord, w64, Nat.shiftRight_eq_div_pow]

theorem bfxWord_sign (a : Word) (pos lm1 : BitVec 6) : bfxWord a pos.toNat (lm1.toNat+1) true = (a.extractLsb' pos.toNat (lm1.toNat + 1)).signExtend 64 := by
  have : signedOf (lm1.toNat + 1) (a.toNat / 2 ^ pos.toNat % 2 ^ (lm1.toNat + 1)) = (a.extractLsb' pos.toNat (lm1.toNat + 1)).toInt := by
    simp only [signedOf, BitVec.toInt, BitVec.extractLsb'_toNat, Nat.shiftRight_eq_div_pow, Nat.mod_mod]
    push_cast
    rfl
  simp only [bfxWord, this, BitVec.signExtend, if_true]

theorem bitLength_le {m n : Nat} (h : m < 2 ^ n) : bitLength m ≤ n := by
  unfold bitLength
  by_cases h0 : m = 0
  · simp [h0]
  · have := (Nat.log2_lt h0).2 h
    simp [h0]; omega

theorem bitLength_top {m n : Nat} (h : m < 2 ^ (n + 1)) (h2 : 2 ^ n ≤ m) : bitLength m = n + 1 := by
  have h0 : m ≠ 0 := by have := Nat.two_pow_pos n; omega
  have h3 : n ≤ m.log2 := (Nat.le_log2 h0).2 h2
  have h4 := (Nat.log2_lt h0).2 h
  simp [bitLength, h0]; omega

theorem clz_aux (a : Word) : ∀ n, n < 64 → a.toNat < 2 ^ (n + 1) → a.clzAuxRec n = BitVec.ofNat 64 (64 - bitLength a.toNat) := by
  intro n
  induction n with
  | zero =>
    intro _ h
    have : a.toNat = 0 ∨ a.toNat = 1 := by omega
    rcases this with h | h
    · have : a = 0 := BitVec.eq_of_toNat_eq (by simpa using h)
      subst this
      decide
    · have : a = 1 := BitVec.eq_of_toNat_eq (by simpa using h)
      subst this
      decide
  | succ n ih =>
    intro hn h
    unfold BitVec.clzAuxRec
    by_cases hb : a.getLsbD (n + 1)
    · have h2 : 2 ^ (n + 1) ≤ a.toNat := Nat.ge_two_pow_of_testBit hb
      rw [bitLength_top h h2]
      simp only [hb, if_true]
      congr 1
      omega
    · simp only [hb]
      have h2 : a.toNat < 2 ^ (n + 1) := by
        have hb' : a.toNat.testBit (n + 1) = false := by simpa [BitVec.getLsbD] using hb
        refine Nat.lt_pow_two_of_testBit _ fun j hj => ?_
        by_cases hj1 : j = n + 1
        · rw [hj1]; exact hb'
        · exact Nat.testBit_lt_two_pow (lt_of_lt_of_le h (Nat.pow_le_pow_right (by norm_num) (by omega)))
      simpa using ih (by omega) h2

theorem clzWord_eq (a : Word) : clzWord a = a.clz := by
  have := clz_aux a 63 (by norm_num) a.isLt
  simp only [clzWord, w64, BitVec.clz]
  exact this.symm

theorem ctzWord_eq (a : Word) : ctzWord a = a.ctz := by
  rw [BitVec.ctz, ← clzWord_eq]
  unfold ctzWord clzWord
  cases hf : (List.range 64).find? fun i => a.getLsbD i with
  | none =>
    have h0 : a = 0 := by
      rw [List.find?_eq_none] at hf
      apply BitVec.eq_of_getLsbD_eq
      intro i hi
      have := hf i (List.mem_range.2 hi)
      simpa using this
    have hr : (0 : Word).reverse = 0 := by
      apply BitVec.eq_of_getLsbD_eq
      intro i hi
      rw [BitVec.getLsbD_reverse]
      simp
    rw [h0, hr]
    rfl
  | some k =>
    have hk : k < 64 := List.mem_range.1 (List.mem_of_find?_eq_some hf)
    have hb : a.getLsbD k = true := by simpa using List.find?_some hf
    have hlow : ∀ j, j < k → a.getLsbD j = false := by
      intro j hj
      rw [List.find?_range_eq_some] at hf
      simpa using hf.2.2 j hj
    have h1 : bitLength a.reverse.toNat = (63 - k) + 1 := by
      apply bitLength_top
      · refine Nat.lt_pow_two_of_testBit _ fun j hj => ?_
        show a.reverse.getLsbD j = false
        rw [BitVec.getLsbD_reverse, BitVec.getMsbD]
        by_cases h64 : j < 64
        · simp [h64, hlow (64 - 1 - j) (by omega)]
        · simp [h64]
      · apply Nat.ge_two_pow_of_testBit
        show a.reverse.getLsbD (63 - k) = true
        rw [BitVec.getLsbD_reverse, BitVec.getMsbD]
        have : 64 - 1 - (63 - k) = k := by omega
        rw [this, hb]
        simp; omega
    rw [h1]
    congr 1
    simp; omega

end Sys2Proof.Laws
end

