-- ==== Sys2Proof/Tests/Slice0.lean ====
section
/-!
SUPPORT. The model's own tests: a refused term for every check of well-formedness, words written out from the encodings of the
manual, single steps with results worked out by hand from its rules, and for every statement a state and operands that meet its
hypotheses.
-/
open Sys2Proof Sys2Proof.Machine Sys2Proof.Claims

namespace Sys2Proof.Tests

set_option Elab.async false

def tag0 : Tag := ⟨false, 0, 0, 0⟩
def tagB : Tag := ⟨true, 0, 0, 0⟩

/-! ### Every check of well-formedness refuses something (R53, R305-R320) -/

/-- The tag: PATH 6, predicate p96 as guard; and a second slot where there is one only. -/
theorem test_refused_tags :
    [Instr.clz ⟨false, 6, 0, 0⟩ 1 2, .clz ⟨false, 0, 96, 0⟩ 1 2, .ld tagB 1 2 3 0, .vmask tagB 1 2 0 3 0 0, .vsprs tagB 1 2 0 0,
      .csel tagB 0, .txclr tagB, .div tag0 1 2 3, .remn tag0 1 2 3, .vexp2 tag0 1 2 0 0].all (fun i => !wellFormed i) = true := by
  decide

/-- The C slot: a leaf's predicate, MOVB's unused fields, LOOPS' run and its count register, LEAVE's levels, predicates of p96 and
more, queue endpoints as operands, BAR's paths without order, and a system register that the map does not name. -/
theorem test_refused_control :
    [Instr.btree ⟨96, 0, 0⟩ ⟨0, 0, 0⟩ ⟨0, 0, 0⟩ ⟨0, 0, 0⟩, .movb 0 1 2 0, .movb 1 1 2 4, .movb 1 1 56 0, .loopX 4 56, .loops 4 0 0 0 3,
      .loops 4 7 89 0 3, .loops 4 0 1 1 56, .leave 0, .leave 7, .pand 0 0 96 1 1, .por 0 0 1 96 1, .pxor 0 0 1 1 96, .pnot 96 1,
      .pmov 0 1 96, .waitt 56, .bar 1 0, .bar 0 1, .mfs 1 0x006, .mts 1 0x012, .mfs 56 0, .mts 60 0].all
        (fun i => !wellFormed i) = true := by
  decide

/-- The A and B slots: modes, condition codes, formats, bit fields, rounding codes, and a select by p96. -/
theorem test_refused_scalar :
    [Instr.add tag0 1 2 3 3, .sub tag0 1 2 3 3, .cmp tag0 1 2 3 6 0, .cmp tag0 1 2 3 0 8, .cmp tag0 96 2 3 0 0, .cmpi tag0 1 2 6 0,
      .cmpi tag0 1 2 14 0, .cmpi tag0 96 2 0 0, .sel tag0 1 2 3 96, .bfx tag0 1 2 63 1 0, .bfi tag0 1 2 1 63, .fadd tag0 1 2 3 7 0,
      .fadd tag0 1 2 3 8 5, .ffma tag0 1 2 3 4 11 0, .fmin tag0 1 2 3 11, .fcmp tag0 1 2 3 8 8, .fcmp tag0 1 2 3 0 12, .fcvt tag0 1 2 14 8 0 0,
      .fcvt tag0 1 2 8 14 0 0, .fcvt tag0 1 2 8 9 5 0].all (fun i => !wellFormed i) = true := by
  decide

/-- The V and W slots: element types of each class, saturation of a float, ports of spools, conversions of more than fourfold width,
parts and rounding that a conversion does not have, lanes past the last, reductions of the other class. -/
theorem test_refused_vector :
    [Instr.vadd tag0 1 2 0 3 0 20 0, .vadd tag0 1 2 0 3 0 0 1, .vsub tag0 1 496 1 3 0 0 0, .vsub tag0 1 2 0 511 2 0 0,
      .vmul tag0 1 2 0 3 0 22, .vfma tag0 1 0 2 0 3 0 3, .vfma tag0 1 0 2 0 3 0 20, .vmin tag0 1 2 0 3 0 4, .vmax tag0 1 2 0 3 0 8,
      .vabs tag0 1 2 0 4, .vneg tag0 1 500 1 0, .vand tag0 1 2 0 3 0 0, .vperm tag0 1 2 0 3 0 1, .vsel tag0 1 0 2 0 3 0 2, .vnot tag0 1 2 0 0,
      .vcmp tag0 1 2 0 3 0 11 0, .vcmp tag0 1 2 0 3 0 7 6, .vcvt tag0 1 2 0 13 8 0 0 0, .vcvt tag0 1 2 0 8 13 0 0 0,
      .vcvt tag0 1 2 0 3 0 0 0 0, .vcvt tag0 1 2 0 8 9 0 0 2, .vcvt tag0 1 2 0 8 9 5 0 0, .vcvt tag0 1 2 0 0 1 1 0 0, .vbcst tag0 1 56 0,
      .vbcst tag0 1 2 4, .vins tag0 1 0 2 3 16, .vins tag0 1 0 56 0 0, .vins tag0 496 1 2 0 0, .vext tag0 56 2 0 3 0, .vext tag0 1 2 0 0 0,
      .vext tag0 1 2 0 15 16, .vred tag0 1 2 0 0 3, .vred tag0 1 2 0 3 6, .vred tag0 56 2 0 3 0, .vamax tag0 1 2 0 4, .vargmx tag0 56 2 0 0,
      .vexp2 tagB 1 2 0 3, .vmask tag0 1 2 0 3 0 4, .vsprs tag0 1 2 0 1].all (fun i => !wellFormed i) = true := by
  decide

/-- The M slot: queue endpoints as operands, spools as destinations of loads, scopes above 11, a scope with no order, operations above
8, odd pairs, empty path sets, family numbers above 7, and ports of spools. -/
theorem test_refused_memory :
    [Instr.ld tag0 56 1 0 0, .st tag0 1 56 0 0, .lda tag0 1 2 0 12 0, .stl tag0 1 2 0 12 0, .vld tag0 496 1 0, .vld tag0 1 56 0,
      .vst tag0 496 1 1 0, .amo tag0 1 2 3 9 0 0 0, .amo tag0 1 2 3 0 0 0 1, .amo tag0 1 2 56 0 0 0 0, .acas tag0 1 2 4 6 0 0,
      .acas tag0 2 2 5 6 0 0, .acas tag0 2 2 4 56 0 0, .acas tag0 2 2 4 6 1 12, .fence tag0 12 1 1, .fence tag0 0 0 1, .fence tag0 0 1 0,
      .drain tag0 0, .scfg tag0 496 1 0, .srel tagB 0, .dcp tag0 0 496 1 2 0, .dcp tag0 0 2 0 496 1, .dstat tag0 56 0, .frd tag0 56 1,
      .fwr tag0 1 56, .fclr tag0 56, .cred tag0 56, .spawn tag0 1 2 3 56, .lnch tag0 56 1 0, .hacc tag0 1 500 1, .hfam tag0 1 0 8,
      .hprb tag0 0 1 2 3 1 0 1, .hprb tag0 0 1 2 56 0 0 0, .hins tag0 1 56, .hdel tag0 56 1, .hreh tag0 1 56, .merge tag0 56 0, .tlbiAll tagB,
      .tlbiAs tag0 56, .tlbiPage tag0 1 56, .lvs tag0 1 56, .lvr tag0 56 1].all (fun i => !wellFormed i) = true := by
  decide

/-- The X and T slots: ports of spool sources, scale modes above 2 and views that they do not name, drain sources above 2 and operands
that they do not have, blocks past the last; and an idle bundle of no bundle-time. -/
theorem test_refused_array :
    [Instr.cprog tag0 0 496 1, .aflow tag0 56, .aldbCluster tag0 1 56, .arun tag0 0 1 0 1 0 0 0 0, .arun tag0 0 0 0 0 1 0 1 0,
      .aruns tag0 0 1 0 1 0 0 0, .ascl tag0 3 0 0 0, .ascl tag0 0 0 3 0, .ascl tag0 1 1 0 0, .ascl tag0 0 0 1 1, .adrn tag0 0 3 0 0 0,
      .adrn tag0 0 1 1 0 0, .adrn tag0 0 1 0 1 0, .txin tag0 496 1 0, .txout tag0 1 0 0 3, .txout tag0 1 64 0 1, .txout tag0 1 0 2 1,
      .txclr tagB, .idleBundle 0 0].all (fun i => !wellFormed i) = true := by
  decide

/-! ### Words written out from the encodings of R305-R320 -/

/-- The A and B slots, with and without a guard; and opcode 0x7F stands for nothing. -/
theorem test_decode_scalar :
    [(SlotKind.a, 0x0100040C3A0000), (.a, 0x2D00040C217000), (.a, 0x3300048C391000)].map (fun p => decodeSlot p.1 p.2) =
      [some (Instr.add tag0 8 6 7 1), some (.bfx tag0 8 6 4 11 1), some (.ffma tag0 9 6 7 8 8 0)] ∧
    decodeSlot .b (0x28 * 2 ^ 48 + 2 * 2 ^ 45 + 7 * 2 ^ 38 + 2 ^ 37 + 5 * 2 ^ 31 + 77) = some (.li ⟨true, 2, 7, 1⟩ 5 77) ∧
    decodeSlot .a (0x7F * 2 ^ 48) = none := by
  decide

theorem test_decode_control :
    [0x09000120000006, 0x0B000122500003, 0x25000000006004, 0x10000000214189, 0x1A000000000006, 0x03001002049031, 0x1B0000000000A0].map
        (decodeSlot .c) =
      [some (Instr.loopX 0x12 6), some (.loops 0x12 1 0x14 0 3), some (.mts 6 4), some (.pand 0 1 5 3 9), some (.waitt 6),
        some (.btree ⟨3, 0, 1⟩ ⟨9, 0, 2⟩ ⟨0, 1, 0⟩ ⟨0, 1, 0⟩), some (.bar 1 0x20)] := by
  decide

theorem test_decode_vector :
    [0x1A000140417028, 0x040001900C0220, 0x1D0001406C0000, 0x310000A0300000].map (decodeSlot .v) =
      [some (Instr.vcvt tag0 0x14 8 0 11 8 0 1 1), some (.vfma tag0 12 2 3 0 4 1 0), some (.vins tag0 0x14 0 6 3 0),
        some (.vsprs tag0 10 6 0 0)] := by
  decide

theorem test_decode_memory :
    [0x02000395BFFFFC, 0x08000A14B31A80, 0x1400061402A800, 0x21000A51660900, 0x1B00059461A000, 0x30000014580400, 0x06000028C60080,
        0x29000014000000, 0x31000014580000, 0x32000014580000].map (decodeSlot .m) =
      [some (Instr.st tag0 7 10 6 0x3ffffc), some (.acas tag0 0x14 0x0a 0x16 0x18 3 5), some (.dcp tag0 3 0x14 0 0x15 1),
        some (.hprb tag0 5 10 11 12 0 2 1), some (.spawn tag0 11 10 12 13), some (.tlbiPage tag0 10 11), some (.vst tag0 2 2 12 0x60080),
        some (.cred tag0 10), some (.lvs tag0 10 11), some (.lvr tag0 10 11)] := by
  decide

theorem test_decode_array :
    [0x06000A62203E00, 0x09000A02000000].map (decodeSlot .x) = [some (Instr.aruns tag0 2 1 3 0 4 1 31), some (.adrn tag0 5 0 0 0 1)] ∧
      decodeSlot .t 0x020000C0AA0000 = some (.txout tag0 12 5 1 1) := by
  decide

/-- A bundle of an LI and a guarded VADD (R51, R52). -/
theorem test_decode_bundle :
    decodeBundle false [0x0A, 0x01, 0x07, 0x00, 0x00, 0x00, 0x03, 0x00, 0x28, 0x56, 0x04, 0x18, 0xA0, 0xE0, 0x01, 0x01] =
      .bundle ⟨0, true, 16, [.li tag0 6 7, .vadd ⟨false, 0, 7, 1⟩ 10 3 0 4 1 0x0b 0]⟩ := by
  decide

/-! ### Single steps, with results worked out by hand -/

/-- A page of core 0's TLB, readable, writable and executable for a user. -/
def page (va pa : Nat) : TlbEntry := ⟨0, 0, va / 65536, 16, pa, 15⟩

/-- Core 0 with a strand before its first bundle: code at 0, the core's own scratchpad at 0x10000, HBM at 0x20000, the scratchpad of
core 1 at 0x30000. -/
def start : State :=
  let s := State.reset.withFetchWord 72 0
  { s with tlb := s.tlb ++ [page 0x10000 (windowBase 0), page 0x20000 0x100000, page 0x30000 (windowBase 1)] }

/-- `start` with its strand changed. -/
def having (f : Strand → Strand) : State := start.setStrand (f start.strand)

/-- A strand with values in its scalar registers. -/
def withXs (l : List (Nat × Word)) (st : Strand) : Strand := { st with xs := l.foldl (fun v p => v.setIfInBounds p.1 p.2) st.xs }

/-- The state after a step on the bundle of one slot, by its mask bit (C 1, A 2, B 4, V 8, M 32) and its word. -/
def ran (mask slot : Nat) (f : Strand → Strand) : Option State :=
  match step ((having f).withFetchWord 72 (mask + slot * 2 ^ 16)) with
  | .next t => some t
  | _ => none

/-- R408: ADD with MODE 1 stops at the greatest i64; control goes on 9 bytes behind. -/
theorem test_add_saturates :
    ((ran 2 0x0100040C3A0000 (withXs [(6, 0x7FFFFFFFFFFFFFFF), (7, 1)])).map fun t => (t.x 8, t.strand.pos.pc)) =
      some (0x7FFFFFFFFFFFFFFF, 73) := by
  decide +kernel

/-- R418: BFX of bits 14 to 4, signed: 0x7FF at bits 14-4 is -1. -/
theorem test_bfx_signed : ((ran 2 0x2D00040C217000 (withXs [(6, 0xFFFFFFFFFFF0FFF5)])).map fun t => t.x 8) =
    some (BitVec.ofInt 64 (-1)) := by
  decide +kernel

/-- R405, R102: FRM takes bits 1 and 0. -/
theorem test_mts_frm : ((ran 1 0x25000000006004 (withXs [(6, 0xFE)])).map fun t => readSys t 4) = some 2 := by
  decide +kernel

/-- R410: PAND with NB: p3 holds and p9 does not. -/
theorem test_pand_negates :
    ((ran 1 0x10000000214189 fun st => { st with ps := 2 ^ 3 }).map fun t => (t.p 5, t.p 0, t.p 9)) = some (true, true, false) := by
  decide +kernel

/-- R391, R3: ST of 4 bytes at x10 - 4, lowest byte first. -/
theorem test_st_bytes :
    ((ran 32 0x02000395BFFFFC (withXs [(7, 0x1122334455667788), (10, 0x10008)])).map fun t => t.readPhys (windowBase 0 + 3) 6) =
      some [0, 0x88, 0x77, 0x66, 0x55, 0] := by
  decide +kernel

/-- R397, R85: LOOP with a count in x6 pushes a level whose body starts at the header behind it, an idle bundle's, and whose end lies
0x12 bytes past its own header. -/
theorem test_loop_level :
    (match step ((having (withXs [(6, 5)])).withFetchWord 88 (1 + 0x09000120000006 * 2 ^ 16 + 0x0200 * 2 ^ 72)) with
      | .next t => some t.strand.pos.loops
      | _ => none) = some [⟨73, 64 + 0x12, 5, 0, 0, 0, 0, false⟩] := by
  decide +kernel

/-- R370, R271: DIV by 0 takes a trap; with TVEC disabled that is a double fault, and the strand is frozen for good. -/
theorem test_div_by_zero :
    ((ran 4 (0x07 * 2 ^ 48 + 8 * 2 ^ 31 + 6 * 2 ^ 25 + 7 * 2 ^ 19) (withXs [(6, 5)])).map fun t => (t.x 8, t.strand.dead)) = some (0, true) := by
  decide +kernel

/-- R450, R228: WAITT of a time to come freezes its strand before it. -/
theorem test_waitt_freezes :
    ((ran 1 0x1A000000000006 (withXs [(6, 5)])).map fun t => (t.strand.frozen, t.strand.pos.pc)) = some (some .time, 64) := by
  decide +kernel

/-- R432: VADD of i8 with SX: 0x7F + 1 stays 0x7F in lane 0 and 1 + 1 is 2 in lane 1; the result is 2 bundle-times under way. -/
theorem test_vadd_saturates :
    let s := ((State.reset.setStrandAt 0 Strand.init).writePhys (regSpaceBase 0) [0x7F, 1]).writePhys (regSpaceBase 0 + 128) [1, 1]
    (match step (s.withFetchWord 72 (8 + (0x01 * 2 ^ 48 + 2 * 2 ^ 28 + 1 * 2 ^ 8 + 1 * 2 ^ 6 + 3 * 2 ^ 1 + 1) * 2 ^ 16)) with
      | .next t => t.flights.map fun f => (f.due, match f.eff with | .bytes _ b => b.take 3 | _ => [])
      | _ => []) = [(2, [0x7F, 2, 0])] := by
  decide +kernel

/-! ### For every statement, a state and operands that meet its hypotheses together, clause by clause -/

/-- What an operation answers, and what it leaves. -/
def val {α : Type} [Inhabited α] (op : Op α) (s : State) : α := ((through op s).map Prod.fst).getD default
def aft {α : Type} (op : Op α) (s : State) : State := ((through op s).map Prod.snd).getD s

theorem goes {α : Type} [Inhabited α] {op : Op α} {s : State} (h : (through op s).isSome = true) :
    through op s = some (val op s, aft op s) := by
  unfold val aft
  cases hh : through op s with
  | none => simp [hh] at h
  | some r => rfl

theorem witness_IntegerResults :
    (∃ a b s1 s2 s3, (Instr.add tag0 3 1 2 0, 1, a + b) ∈ twoWords tag0 3 1 2 0 0 a b ∧ start.issuing = true ∧
      passes tag0 start = true ∧ through (getXQ 1) (enter (.add tag0 3 1 2 0) start) = some (a, s1) ∧
      through (getXQ 2) s1 = some (b, s2) ∧ through (putXQ 1 3 (a + b)) s2 = some ((), s3)) ∧
    (∃ a s1 s2, (Instr.addi tag0 3 1 5, 1, a + (5 : BitVec 25).signExtend 64) ∈ oneWord tag0 3 1 5 0 a ∧
      through (getXQ 1) (enter (.addi tag0 3 1 5) start) = some (a, s1) ∧
      through (putXQ 1 3 (a + (5 : BitVec 25).signExtend 64)) s1 = some ((), s2)) :=
  ⟨⟨_, _, _, _, _, .head _, by decide +kernel, by decide +kernel, goes (by decide +kernel), goes (by decide +kernel), goes (by decide +kernel)⟩,
    ⟨_, _, _, .head _, goes (by decide +kernel), goes (by decide +kernel)⟩⟩

theorem witness_SelectImmediateCompareResults :
    (∃ a b p s1 s2 s3 s4, through (getXQ 1) (enter (.sel tag0 3 1 2 4) start) = some (a, s1) ∧ through (getXQ 2) s1 = some (b, s2) ∧
      through (getP 4) s2 = some (p, s3) ∧ through (putXQ 1 3 (if p then a else b)) s3 = some ((), s4)) ∧
    (∃ a s1 s2, (Instr.bfx tag0 3 1 63 0 1, 1, (a.extractLsb' 63 1).signExtend 64) ∈ fields tag0 3 1 63 0 a ∧
      through (getXQ 1) (enter (.bfx tag0 3 1 63 0 1) start) = some (a, s1) ∧
      through (putXQ 1 3 ((a.extractLsb' 63 1).signExtend 64)) s1 = some ((), s2)) ∧ 96 ≤ (96 : PReg).toNat ∧
    (∃ s1, through (putXQ 1 3 ((7 : BitVec 31).signExtend 64)) (enter (.li tag0 3 7) start) = some ((), s1)) ∧
    (∃ d s1 s2, through (getXQ 3) (enter (.lih tag0 3 7) start) = some (d, s1) ∧
      through (putXQ 1 3 ((d <<< 31) ||| (7 : BitVec 31).zeroExtend 64)) s1 = some ((), s2)) ∧
    (let s := having (withXs [(1, 0xABC)]);
      ∃ d s1 s2 s3, (∀ k, k < 64 → (0xABC : Word).getLsbD k =
        if (0 : BitVec 6).toNat ≤ k ∧ k ≤ (0 : BitVec 6).toNat + (63 : BitVec 6).toNat then (0xABC : Word).getLsbD (k - (0 : BitVec 6).toNat)
          else d.getLsbD k) ∧
        through (getXQ 1) (enter (.bfi tag0 3 1 0 63) s) = some (0xABC, s1) ∧ through (getXQ 3) s1 = some (d, s2) ∧
        through (putXQ 1 3 0xABC) s2 = some ((), s3)) ∧
    (∃ a b s1 s2 s3, through (getXQ 1) (enter (.cmp tag0 95 1 2 5 7) start) = some (a, s1) ∧ through (getXQ 2) s1 = some (b, s2) ∧
      through (putP 1 95 (compares 5 7 a b)) s2 = some ((), s3)) ∧
    (∃ a s1 s2, through (getXQ 1) (enter (.cmpi tag0 95 1 13 1) start) = some (a, s1) ∧
      through (putP 1 95 (compares 5 7 a ((1 : BitVec 20).signExtend 64))) s1 = some ((), s2)) := by
  refine ⟨⟨_, _, _, _, _, _, _, goes (by decide +kernel), goes (by decide +kernel), goes (by decide +kernel), goes (by decide +kernel)⟩,
    ⟨_, _, _, .tail _ (.head _), goes (by decide +kernel), goes (by decide +kernel)⟩, by decide,
    ⟨_, goes (by decide +kernel)⟩, ⟨_, _, _, goes (by decide +kernel), goes (by decide +kernel)⟩,
    ⟨_, _, _, _, fun k h => ?_, goes (by decide +kernel), goes (by decide +kernel), goes (by decide +kernel)⟩,
    ⟨_, _, _, _, _, goes (by decide +kernel), goes (by decide +kernel), goes (by decide +kernel)⟩,
    ⟨_, _, _, goes (by decide +kernel), goes (by decide +kernel)⟩⟩
  rw [if_pos (by simp; omega)]; rfl

/-- A divisor of 3, and one of 0. -/
theorem witness_Divisions :
    (let s := having (withXs [(1, 7), (2, 3)]);
      s.issuing = true ∧ passes tagB s = true ∧ (Instr.div tagB 3 1 2, (7 : Word).sdiv 3) ∈ quotients tagB 3 1 2 7 3 ∧
      ∃ s1 s2 s3, through (getXQ 1) (enter (.div tagB 3 1 2) s) = some (7, s1) ∧ through (getXQ 2) s1 = some (3, s2) ∧
        through (putXQ 18 3 ((7 : Word).sdiv 3)) s2 = some ((), s3)) ∧
    (let s := having (withXs [(1, 7)]);
      ∃ s1 s2, through (getXQ 1) (enter (.div tagB 3 1 2) s) = some (7, s1) ∧ through (getXQ 2) s1 = some (0, s2) ∧
        (through (putXQ 18 3 0) s2).isSome = true) :=
  ⟨⟨by decide +kernel, by decide +kernel, .head _, _, _, _, goes (by decide +kernel), goes (by decide +kernel), goes (by decide +kernel)⟩,
    ⟨_, _, goes (by decide +kernel), goes (by decide +kernel), by decide +kernel⟩⟩

theorem goesTo {α : Type} {op : Op α} {s : State} {v : α} (h : (through op s).map Prod.fst = some v) :
    through op s = some (v, aft op s) := by
  unfold aft
  cases hh : through op s with
  | none => simp [hh] at h
  | some r => simp [hh] at h ⊢; simp [← h]

/-- An operation that goes through with an answer and a state that meet a test; and one that leaves the state as it was. -/
theorem meets {α : Type} {op : Op α} {s : State} {Q : α → State → Prop} [∀ a t, Decidable (Q a t)]
    (h : (match through op s with | some r => decide (Q r.1 r.2) | none => false) = true) : ∃ a t, through op s = some (a, t) ∧ Q a t := by
  cases hh : through op s with
  | none => simp [hh] at h
  | some r => exact ⟨r.1, r.2, rfl, by simpa [hh] using h⟩

theorem finds {α : Type} {op : Op α} {s : State} {Q : α → Prop} [∀ a, Decidable (Q a)]
    (h : (match through op s with | some r => decide (r.2 = s ∧ Q r.1) | none => false) = true) : ∃ a, through op s = some (a, s) ∧ Q a := by
  cases hh : through op s with
  | none => simp [hh] at h
  | some r =>
    simp only [hh, decide_eq_true_eq] at h
    exact ⟨r.1, by rw [← h.1], h.2⟩

theorem goesTo' {α : Type} {op : Op α} {s : State} {v : α} (h : (through op s).map Prod.fst = some v) (e : aft op s = s) :
    through op s = some (v, s) := by
  rw [goesTo h, e]

theorem goesStill {α : Type} {op : Op α} {s : State} (h : (match through op s with | some r => decide (r.2 = s) | none => false) = true) :
    ∃ a, through op s = some (a, s) := by
  obtain ⟨a, e, -⟩ := finds (op := op) (s := s) (Q := fun _ => True) (by simpa using h)
  exact ⟨a, e⟩

theorem writes {α β : Type} {p : Option α × β} (h : p.1.isNone = true) : ∃ b, p = (none, b) :=
  ⟨p.2, Prod.ext (Option.isNone_iff_eq_none.mp h) rfl⟩

theorem written {α β : Type} {p : Option α × β} {Q : β → Prop} [∀ t, Decidable (Q t)] (h : (p.1.isNone && decide (Q p.2)) = true) :
    ∃ b, p = (none, b) ∧ Q b := by
  rw [Bool.and_eq_true, decide_eq_true_eq] at h
  obtain ⟨b, e⟩ := writes h.1
  exact ⟨b, e, by rw [e] at h; exact h.2⟩

theorem witness_FloatResults :
    (∃ s1 s2 s3 s4 s5, (Instr.fadd tag0 3 1 2 8 4, 0, 0) ∈ floatOps tag0 3 1 2 8 4 .rne (floatLow 8 0) (floatLow 8 0) ∧
      scalarFloat 8 = true ∧ through (getXQ 1) (enter (.fadd tag0 3 1 2 8 4) start) = some (0, s1) ∧ through (getXQ 2) s1 = some (0, s2) ∧
      through (getRound 4) s2 = some (.rne, s3) ∧ through (putXQ 4 3 (BitVec.ofNat 64 0)) s3 = some ((), s4) ∧
      through (emitFlags 4 0) s4 = some ((), s5)) ∧
    (∃ s1 s2 s3 s4 s5 s6, through (getXQ 1) (enter (.ffma tag0 3 1 2 4 10 1) start) = some (0, s1) ∧ through (getXQ 2) s1 = some (0, s2) ∧
      through (getXQ 4) s2 = some (0, s3) ∧ through (getRound 1) s3 = some (Round.ofCode 1, s4) ∧
      through (putXQ 4 3 (BitVec.ofNat 64 (fFma 10 (Round.ofCode 1) 0 0 0).1)) s4 = some ((), s5) ∧
      through (emitFlags 4 (fFma 10 (Round.ofCode 1) 0 0 0).2) s5 = some ((), s6)) ∧
    (∃ a b s1 s2 s3, Instr.fmin tag0 3 1 2 9 = (if false then .fmax tag0 3 1 2 9 else .fmin tag0 3 1 2 9) ∧
      through (getXQ 1) (enter (.fmin tag0 3 1 2 9) start) = some (a, s1) ∧ through (getXQ 2) s1 = some (b, s2) ∧
      through (putXQ 4 3 (BitVec.ofNat 64 (fMinMax 9 false (floatLow 9 a) (floatLow 9 b)))) s2 = some ((), s3)) ∧
    (∃ a b s1 s2 s3, through (getXQ 1) (enter (.fcmp tag0 3 1 2 7 8) start) = some (a, s1) ∧ through (getXQ 2) s1 = some (b, s2) ∧
      through (putP 4 3 (floatCompare 8 7 (floatLow 8 a) (floatLow 8 b))) s2 = some ((), s3)) ∧
    (∃ s1 s2 s3 s4, convert 13 0 (Round.ofCode 3) true 0 = (0, 0) ∧ through (getXQ 1) (enter (.fcvt tag0 3 1 13 0 3 1) start) = some (0, s1) ∧
      through (getRound 3) s1 = some (Round.ofCode 3, s2) ∧ through (putXQ 4 3 (BitVec.ofNat 64 0)) s2 = some ((), s3) ∧
      through (emitFlags 4 0) s3 = some ((), s4)) :=
  ⟨⟨_, _, _, _, _, .head _, by decide, goesTo (by decide +kernel), goesTo (by decide +kernel), goesTo (by decide +kernel), goes (by decide +kernel),
      goes (by decide +kernel)⟩,
    ⟨_, _, _, _, _, _, goesTo (by decide +kernel), goesTo (by decide +kernel), goesTo (by decide +kernel), goesTo (by decide +kernel),
      goes (by decide +kernel), goes (by decide +kernel)⟩,
    ⟨_, _, _, _, _, rfl, goes (by decide +kernel), goes (by decide +kernel), goes (by decide +kernel)⟩,
    ⟨_, _, _, _, _, goes (by decide +kernel), goes (by decide +kernel), goes (by decide +kernel)⟩,
    ⟨_, _, _, _, by decide +kernel, goesTo (by decide +kernel), goesTo (by decide +kernel), goes (by decide +kernel), goes (by decide +kernel)⟩⟩

/-- The signalling NaN of least value of f32, and the greatest pattern of the last format. -/
theorem witness_RoundingKeepsEncodings : (8 ≤ 8 ∧ 8 ≤ 12 ∧ 0x7F800001 < 2 ^ floatBits 8) ∧ (8 ≤ 12 ∧ 12 ≤ 12 ∧ 255 < 2 ^ floatBits 12) := by decide

/-- Register 0 as destination, and register 55. -/
theorem witness_IntegerFrame : (∀ xd ∈ [(0 : XReg), 55],
      (Instr.add tag0 xd 1 2 0, 1, start.x 1 + start.x 2) ∈ twoWords tag0 xd 1 2 0 0 (start.x 1) (start.x 2) ++
        oneWord tag0 xd 1 0 0 (start.x 1) ++ fields tag0 xd 1 0 63 (start.x 1) ++ [(.li tag0 xd 0, 1, (0 : BitVec 31).signExtend 64), (.lih tag0 xd 0, 1, 0)] ∧
      xd.toNat < 56) ∧ calm start = true ∧ passes tag0 start = true :=
  ⟨fun xd h => ⟨List.mem_append_left _ (List.mem_append_left _ (List.mem_append_left _ (.head _))), by revert xd; decide⟩, by decide +kernel, by decide +kernel⟩

theorem witness_LatencyFrame :
    ((Instr.mul tag0 0 1 2, 3, start.x 1 * start.x 2) ∈ twoWords tag0 0 1 2 0 0 (start.x 1) (start.x 2) ∧ 3 ≠ 1 ∧ calm start = true ∧
      passes tag0 start = true) ∧
    (let s := having (withXs [(1, 7), (2, 3)]);
      s.x (2 : XReg).toNat ≠ 0 ∧ (Instr.div tagB 55 1 2, (s.x 1).sdiv (s.x 2)) ∈ quotients tagB 55 1 2 (s.x 1) (s.x 2) ∧ calm s = true ∧
      passes tagB s = true) :=
  ⟨⟨.tail _ (.tail _ (.tail _ (.tail _ (.tail _ (.tail _ (.head _)))))), by decide, by decide +kernel, by decide +kernel⟩,
    by decide +kernel, .head _, by decide +kernel, by decide +kernel⟩

/-- A strand of call depth 2 with one address on its return stack. -/
def called : State := having fun st => { st with ident := { st.ident with callDepth := 2 }, pos := { st.pos with rets := [64] } }

/-- Every leaf is taken somewhere: predicates 1 to 4 hold one at a time. -/
theorem witness_BranchesAndCalls :
    start.issuing = true ∧
    ([1, 2, 3, 4].map fun k => leafTaken (having fun st => { st with ps := 2 ^ k }) ⟨1, 0, 1⟩ ⟨2, 0, 2⟩ ⟨3, 0, 3⟩ ⟨4, 0, 4⟩) = [1, 2, 3, 4] ∧
    leafTaken start ⟨1, 0, 1⟩ ⟨2, 0, 2⟩ ⟨3, 0, 3⟩ ⟨4, 0, 4⟩ = 5 ∧
    (called.issuing = true ∧ inProgram called = true ∧ called.strand.pos.rets.length ≠ called.strand.ident.callDepth ∧
      called.strand.pos.rets = 64 :: []) ∧
    (inProgram start = true ∧ start.strand.pos.rets.length = start.strand.ident.callDepth ∧ start.strand.pos.rets = []) := by
  decide +kernel

theorem witness_PredicateAndBranchRegisterResults :
    (Instr.pand 0 1 5 3 9, false) ∈ predicateOps 0 1 5 3 9 (start.p 3) (start.p 9) ∧ start.issuing = true ∧
    ∃ a s1, through (getX 55) (enter (.movb 1 3 55 0) start) = some (a, s1) :=
  ⟨by decide +kernel, by decide +kernel, _, _, goes (by decide +kernel)⟩

theorem witness_PredicateFrame :
    wellFormed (.pand 0 1 0 3 95) = true ∧ calm start = true ∧ passes tag0 start = true ∧
      (Instr.pand 0 1 0 3 95, false) ∈ predicateOps 0 1 0 3 95 (start.p 3) (start.p 95) ∧
      wellFormed (.cmpi tag0 95 1 13 0) = true := by
  decide +kernel

theorem witness_ControlFrame :
    (calm start = true ∧ calm called = true ∧ inProgram called = true ∧
      called.strand.pos.rets.length ≠ called.strand.ident.callDepth ∧ called.strand.pos.rets = 64 :: []) ∧
    ((Instr.brLabel 64, relative start 64, start.strand.pos.rets) ∈ [(Instr.brLabel 64, relative start 64, start.strand.pos.rets)]) :=
  ⟨by decide +kernel, .head _⟩

/-- The descriptor of a linear spool of kind `k` and format `f` over `n` elements from `a`, and the spool right after SCFG. -/
def desc (k f a n : Nat) : Nat := a + k * 2 ^ 64 + f * 2 ^ 68 + (n - 1) * 2 ^ 256 + 128 * 2 ^ 352
def spool (d : Nat) : Spool :=
  { desc := d, banks := [], priv := false, fent := 0, seq := 0, buf := [], moved := 0, count := 0, issued := 0, idxBase := 0, idxEnd := none, ended := false, counts := []
    area := 0, published := 0, ids := 0, closed := false, failure := none, job := none }
def withSpool (n : Nat) (sp : Spool) (st : Strand) : Strand := { st with spools := st.spools.setIfInBounds n (some sp) }
/-- `k` levels of loops, ending at 100, 101 and so on. -/
def nest (k : Nat) : State :=
  having fun st => { st with pos := { st.pos with loops := (List.range k).map fun n => ⟨64, 100 + n, 3, 0, 0, 0, 0, false⟩ } }

/-- Core 0 with so much code from 64 on, its strand at an address of it with walks that have ended, and pages beside those of `start`. -/
def coded (len pc : Nat) (walked : List Walked) (pages : List TlbEntry) : State :=
  let s := having fun st => { st with ident := { st.ident with codeLen := len }, pos := { st.pos with pc := pc }, walked := walked }
  { s with tlb := s.tlb ++ pages }
/-- `nest 5` with a spool of counts. -/
def counting (l : List Nat) : State := (nest 5).setStrand (withSpool 3 { spool (desc 0 6 0 1) with counts := l } (nest 5).strand)
/-- `start` with a header at an address of its code. -/
def headed (a h : Nat) : State := start.writePhys a (leBytes 2 h)

theorem free {s : State} (h : (decide (s.strand.pos.loops.length < 6) && s.strand.pos.loops.all fun l => l.stop != s.issue.pc) = true) :
    loopFree s := by
  simpa [loopFree] using h

theorem stands {s : State} {a : Nat} (h : (match fetchOp s with | .ok r => r.1.1 == a | .error _ => false) = true) :
    ∃ r s1, fetchOp s = .ok ((a, r), s1) := by
  cases e : fetchOp s with
  | error _ => simp [e] at h
  | ok r => exact ⟨r.1.2, r.2, by rw [show a = r.1.1 by simpa [e] using (show r.1.1 = a by simpa [e] using h).symm]⟩

theorem skips {s : State} {e : BitVec 20} (h : loopFree s) : passesOver s (.loopImm e 0) (s.issue.pc + e.toNat) (enter (.loopImm e 0) s) :=
  .inl ⟨h, e, 0, 0, rfl, .inl (.inl ⟨0, rfl, rfl, rfl⟩)⟩

/-- A loop inside five others by immediate, register and spool, LOOPS by immediate and register, with counts at the ends of their ranges;
counts of 0 and LEAVE of all six levels; the last byte of a line, an empty header and a header of one slot; a body on the line behind; a
seventh level, a loop at an active end, a count of 2^32, LEAVE of one level too many; ends on both sides of the code, with no page, with
one that no one may fetch from and beyond bit 56; and every way of R52 to rule a header out. -/
theorem witness_Loops :
    (∀ s ∈ [nest 5, counting [9, 2], counting [0]], s.issuing = true ∧ inProgram s = true ∧ loopFree s) ∧
    (countTaken (nest 5) (.loopImm 64 1) 64 1 (enter (.loopImm 64 1) (nest 5)) ∧
      (∃ s1, countTaken (nest 5) (.loopX 64 6) 64 0 s1) ∧ (∃ s1, countTaken (counting [9, 2]) (.loopSpool 64 3) 64 9 s1) ∧
      stagedTaken (nest 5) (.loops 64 0 89 0 0x1FFFF) 64 0 89 0x1FFFF (enter (.loops 64 0 89 0 0x1FFFF) (nest 5)) ∧
      ∃ s1, stagedTaken (having (withXs [(6, 0xFFFFFFFF)])) (.loops 64 6 1 1 6) 64 6 1 0xFFFFFFFF s1) ∧
    ((∃ s1 a s2, passesOver (counting [0]) (.loopSpool 64 3) 64 s1 ∧ through (afterEnd 64) s1 = some (a, s2)) ∧
      (∃ s1 a s2, passesOver (nest 5) (.loops 127 0 89 1 6) 127 s1 ∧ through (afterEnd 127) s1 = some (a, s2)) ∧
      ∃ a s2, passesOver (nest 6) (.leave 6) 100 (enter (.leave 6) (nest 6)) ∧ through (afterEnd 100) (enter (.leave 6) (nest 6)) = some (a, s2)) ∧
    (codeBounds start = (64, 128) ∧ 64 - 127 % 64 < 2 ∧
      (∃ b, through (fetchBytes 64) start = some (b, start) ∧ ¬ ruledOut b ∧ behind 64 b = 128) ∧
      ∃ b, through (fetchBytes 66) (headed 66 2) = some (b, headed 66 2) ∧ ¬ ruledOut b ∧ behind 66 b = 75) ∧
    (∀ pc ∈ [64, 127], ∃ r s1, fetchOp ((coded 128 pc [] []).writePhys ((pc + 1) / 64 * 64) [0, 2]) = .ok (((pc + 1) / 64 * 64, r), s1)) ∧
    (6 ≤ (nest 6).strand.pos.loops.length ∧ unfrozen (.loopImm 64 1) (nest 6) = true ∧
      (let s := { nest 1 with issue := { (nest 1).issue with pc := 100 } };
        (∃ l ∈ s.strand.pos.loops, l.stop = s.issue.pc) ∧ unfrozen (.loops 64 0 1 0 1) s = true) ∧
      (let s := having (withXs [(6, 0x100000000)]);
        (∃ s1, countTaken s (.loopX 64 6) 64 0x100000000 s1) ∧ (∃ s1, stagedTaken s (.loops 64 0 1 1 6) 64 0 1 0x100000000 s1) ∧
        unfrozen (.loopX 64 6) s = true ∧ unfrozen (.loops 64 0 1 1 6) s = true)) ∧
    ((nest 5).strand.pos.loops.length < (6 : BitVec 3).toNat ∧ unfrozen (.leave 6) (nest 5) = true) ∧
    (passesOver start (.loopImm 63 0) 63 (enter (.loopImm 63 0) start) ∧ 63 < (codeBounds start).1 ∧
      passesOver start (.loopImm 128 0) 128 (enter (.loopImm 128 0) start) ∧ (codeBounds start).2 ≤ 128) ∧
    (∀ s ∈ [coded 0x50000 64 [] [⟨0, 0, 4, 16, 0, 11⟩], coded 0x50000 64 [⟨0, 4, 16, 0, 0, false⟩] [],
        (let s := coded (2 ^ 57) 64 [] [page (2 ^ 57) 0]; { s with issue := { s.issue with pc := 2 ^ 57 - 0x40000 } })],
      ∃ stop m s2, stop = s.issue.pc + 0x40000 ∧ passesOver s (.loopImm 0x40000 0) stop (enter (.loopImm 0x40000 0) s) ∧
        (codeBounds s).1 ≤ stop ∧ stop < (codeBounds s).2 ∧ 2 ≤ 64 - stop % 64 ∧
        through (strandMap stop) (enter (.loopImm 0x40000 0) s) = some (m, s2) ∧
        (2 ^ 57 ≤ stop ∨ m = none ∨ ∃ q, m = some q ∧ permitted .x s.priv q.perms = false)) ∧
    (∀ p ∈ [((66 : BitVec 20), 0x1000), (66, 0x100), (126, 2)],
      passesOver (headed p.1.toNat p.2) (.loopImm p.1 0) p.1.toNat (enter (.loopImm p.1 0) (headed p.1.toNat p.2)) ∧
      2 ≤ 64 - p.1.toNat % 64 ∧ ∃ b s2, through (fetchBytes p.1.toNat) (enter (.loopImm p.1 0) (headed p.1.toNat p.2)) = some (b, s2) ∧ ruledOut b) := by
  refine ⟨fun s h => ⟨?_, ?_, free ?_⟩, ⟨.inl ⟨1, rfl, rfl, rfl⟩, ⟨_, .inr (.inl ⟨6, 0, rfl, goesTo (by decide +kernel), rfl⟩)⟩,
      ⟨_, .inr (.inr ⟨3, rfl, by decide +kernel, goesTo (by decide +kernel)⟩)⟩, .inl ⟨0x1FFFF, rfl, rfl, rfl⟩,
      ⟨_, .inr ⟨6, 0xFFFFFFFF, rfl, goesTo (by decide +kernel), rfl⟩⟩⟩, ⟨⟨_, _, _, .inl ⟨free (by decide +kernel), 64, 0, 0, by decide +kernel,
        .inl (.inr (.inr ⟨3, rfl, by decide +kernel, goesTo (by decide +kernel)⟩))⟩, goes (by decide +kernel)⟩,
      ⟨_, _, _, .inl ⟨free (by decide +kernel), 127, 0, 89, by decide +kernel, .inr (.inr ⟨6, 0, rfl, goesTo (by decide +kernel), rfl⟩)⟩,
        goes (by decide +kernel)⟩,
      _, _, .inr ⟨6, ⟨64, 100, 3, 0, 0, 0, 0, false⟩, rfl, rfl, by decide, by decide +kernel, by decide +kernel, rfl⟩, goes (by decide +kernel)⟩,
    ⟨by decide +kernel, by decide, by unfold ruledOut; exact finds (by decide +kernel), by unfold ruledOut; exact finds (by decide +kernel)⟩, fun pc h => ?_,
    ⟨by decide +kernel, by decide +kernel, by decide +kernel, ⟨_, .inr (.inl ⟨6, 0x100000000, rfl, goesTo (by decide +kernel), rfl⟩)⟩,
      ⟨_, .inr ⟨6, 0x100000000, rfl, goesTo (by decide +kernel), rfl⟩⟩, by decide +kernel, by decide +kernel⟩, by decide +kernel,
    ⟨skips (free (by decide +kernel)), by decide +kernel, skips (free (by decide +kernel)), by decide +kernel⟩, fun s h => ?_, fun p h => ?_⟩
  iterate 3 revert s; decide +kernel
  · exact stands (by revert pc; decide +kernel)
  · fin_cases h
    · exact ⟨_, _, _, rfl, skips (free (by decide +kernel)), by decide +kernel, by decide +kernel, by decide +kernel, goes (by decide +kernel),
        .inr (.inr ⟨_, rfl, by decide +kernel⟩)⟩
    · exact ⟨_, _, _, rfl, skips (free (by decide +kernel)), by decide +kernel, by decide +kernel, by decide +kernel, goes (by decide +kernel),
        .inr (.inl (by decide +kernel))⟩
    · exact ⟨_, _, _, rfl, skips (free (by decide +kernel)), by decide +kernel, by decide +kernel, by decide +kernel, goes (by decide +kernel),
        .inl (by decide +kernel)⟩
  · unfold ruledOut
    fin_cases h <;> exact ⟨skips (free (by decide +kernel)), by decide +kernel, meets (by decide +kernel)⟩

theorem witness_DoneYieldWaitt :
    (start.issuing = true ∧ inProgram start = true ∧ noReport 0x7F start = true ∧ retirable (enter .done start) ∧
      start.strand.ident.work ∈ [Work.none, .firmware]) ∧
    (let s := having fun st => { st with pos := { st.pos with line := ⟨0, 0, [⟨2, 0, 1, .flags 1⟩]⟩ } };
      s.issuing = true ∧ inProgram s = true ∧ s.flights ≠ []) ∧
    (start.strand.trapFrame = none ∧ start.issue.q = false ∧ start.strand.pos.backEdge = false ∧ start.strand.pos.loopQuiet = false) ∧
    (having fun st => { st with resumed := true }).strand.resumed = true ∧
    (having fun st => { st with sys := { st.sys with uih := true } }).strand.sys.uih = true ∧ coreWanted (enter .yield start) start.focus = false ∧
    (∃ s1, through (getX 6) (enter (.waitt 6) start) = some (0, s1)) ∧ (0 : Word).toNat ≤ start.time.now.toNat ∧
    (∃ s1, through (getX 6) (enter (.waitt 6) (having (withXs [(6, 1)]))) = some (1, s1)) ∧
      (having (withXs [(6, 1)])).time.now.toNat < (1 : Word).toNat := by
  refine ⟨⟨by decide +kernel, by decide +kernel, by decide +kernel, ?_, by decide +kernel⟩, by decide +kernel, by decide +kernel, by decide +kernel,
    by decide +kernel, by decide +kernel, ⟨_, goesTo (by decide +kernel)⟩, by decide +kernel, ⟨_, goesTo (by decide +kernel)⟩, by decide +kernel⟩
  unfold retirable; decide +kernel

/-- A strand with a far store outstanding, one with a far load, and one with a POLDER of cluster level, enabled, of `m` members. -/
def withStore (st : Strand) : Strand := { st with far := [⟨1, 0, 0x30000, [(windowBase 1, 4)], .store [0, 0, 0, 0], false, 0⟩], pos := { st.pos with seq := 5 } }
def withLoad (st : Strand) : Strand := { st with far := [⟨1, 0, 0x30000, [(windowBase 1, 4)], .load (.x .main 3 6), false, 0⟩] }
def inPolder (m : Nat) (st : Strand) : Strand := { st with sys := { st.sys with polder := BitVec.ofNat 64 (1 + m * 2 ^ 20) } }

/-- Member 0 of a skein that reads endpoint q1 and writes endpoint q2, member 1 at the other ends; with an element there, and with
member 1 done. -/
def piped (l : List Word) (done : List Nat) : State :=
  let s := having fun st => { st with ident := { st.ident with skein := some 1, work := .member 0 0 0 0 0 } }
  { s with skeins := [{ id := 1, slot := 0, launch := 0, x := 0, y := 0, z := 0, members := [0, 2], done := done, trigs := []
                        pipes := [(1 * 2 ^ 8 + 1 * 2 ^ 6 + 0 * 2 ^ 3 + 1 * 2 ^ 1, l), (0 * 2 ^ 8 + 2 * 2 ^ 6 + 1 * 2 ^ 3 + 2 * 2 ^ 1, [])] }] }

theorem witness_OrderingAndBarriers :
    (start.issuing = true ∧ passes tag0 start = true ∧ noReport 0x7F start = true ∧
      pathsClear (enter (.fence tag0 11 0x7F 1) start) (some 11) 0x7F ∧
      bit 1 0 = true ∧ unfinished (enter (.drain tag0 1) (having withStore)) (having withStore).strand none 0 = true) ∧
    (∀ s ∈ [start, having withLoad], noReport 0x7F s = true ∧ s.strand.ident.work ∈ [Work.none, .firmware] ∧
      clearOf (enter .trig s) (withoutLoads s.strand) (some (bits s.strand.sys.trigscope.toNat 3 0)) 0x7F) ∧
    (∀ done ∈ [[], [1]], (piped [] done).issuing = true ∧ noReport 0x7F (piped [] done) = true ∧
      clearOf (enter .trig (piped [] done)) (withoutLoads (piped [] done).strand) (some 0) 0x7F ∧
      (piped [] done).strand.ident.work = .member 0 0 0 0 0 ∧
      ∃ k ∈ (piped [] done).skeins, skeinOf (enter .trig (piped [] done)) (piped [] done).strand = some k ∧
        ((∀ i, i < k.members.length → i ∈ k.done ∨ i ∈ k.trigs ∨ i = 0) ↔ done = [1])) ∧
    (∀ w ∈ [Work.task 1, .point 3 1 2 0], (having fun st => { st with ident := { st.ident with work := w } }).strand.ident.work = w) ∧
    (start.strand.trapFrame = none ∧ polderEn start.strand.sys.polder = false) ∧
    (∀ m ∈ [1, 2, 2 ^ 20], polderEn (having (inPolder m)).strand.sys.polder = true ∧ (having (inPolder m)).strand.waits.arrived = none ∧
      pathsClear (enter (.bar 1 0x7F) (having (inPolder m))) (some 8) 0x7F ∧ polderLevel (having (inPolder m)).strand.sys.polder < 3 ∧ polderMembers (having (inPolder m)).strand.sys.polder = m ∧
      (polderAt (having (inPolder m)) (polderKey 0 (having (inPolder m)).strand.sys.polder)).count = 0) ∧
    (∀ phase ∈ [0, 5],
      let s0 := having fun st => { inPolder 2 st with waits := { WaitState.none with arrived := some phase } };
      let s := setPolder s0 { polderAt s0 (polderKey 0 s0.strand.sys.polder) with count := 1, members := 2 };
      let p := polderAt s (polderKey s.focus s.strand.sys.polder);
      s.issuing = true ∧ s.strand.trapFrame = none ∧ polderEn s.strand.sys.polder = true ∧ s.strand.waits.arrived = some phase ∧
      polderLevel s.strand.sys.polder < 3 ∧ p.count < p.members ∧ (p.phase = phase ↔ phase = 0)) := by
  unfold pathsClear clearOf
  refine ⟨?_, ?_, ?_, ?_, ?_, ?_, ?_⟩ <;> decide +kernel

/-- A strand before an idle bundle. -/
def idling (f : Strand → Strand) : State := (having f).withFetchWord 72 0x200
/-- Core 0 with its trap area in its scratchpad, and there in trap mode after a division by zero. -/
def trapReady : State := start.setCore 0 { start.core 0 with tvec := 0x10001 }
def inTrap : State := takeTrap trapReady 0 ⟨0x1E, 0, false⟩ false [] 64
/-- In the user handler, which returns to 73. -/
def inHandler : State := having fun st =>
  { st with sys := { st.sys with uih := true }, shadowX := st.shadowX.setIfInBounds 1 73
            pos := { st.pos with susp := [⟨.user, ⟨4, 0, []⟩, false, false, none, .none, 0⟩] } }

theorem witness_CallTraps :
    start.issuing = true ∧
    (let s := idling fun st => { st with call := some ⟨0x20, 5, false⟩ };
      s.strandAt (2 * 0 + 0) = some s.strand ∧ (s.ctx (2 * 0 + 0)).state = .issuing ∧ s.strand.dead = false ∧ s.strand.halted = false ∧
      s.strand.draining = false ∧ s.strand.pos.line.busy = 0 ∧ s.strand.reports = [] ∧ s.strand.faults = [] ∧ s.strand.call = some ⟨0x20, 5, false⟩ ∧
      fetchAt s (2 * 0 + 0) = some (.ok ⟨64, .idle 1 false⟩) ∧
      portConflict { s with focus := 2 * 0 + 0 } (standingOps (some ⟨64, .idle 1 false⟩)) = false) := by
  decide +kernel

theorem witness_TrapEntered :
    (trapReady.strandAt 0 = some trapReady.strand ∧ trapReady.strand.trapFrame = none ∧
      bit (trapReady.core (keyCore 0)).tvec.toNat 0 = true ∧
      ∃ s1, engineWrite trapReady { agentFor 0 trapReady.strand with priv := true } (trapArea (trapReady.core (keyCore 0)) + 0 % 2 * 2048)
        (frameBytes (tcauseWord 0x1E 0 false false) 0 64 (statusWord 0 trapReady.strand) trapReady.strand.pos.line.bt []) = (none, s1)) ∧
    (inTrap.strandAt 0 = some inTrap.strand ∧ inTrap.strand.trapFrame.isSome = true) ∧
    (start.strandAt 0 = some start.strand ∧ bit (start.core (keyCore 0)).tvec.toNat 0 = false) :=
  ⟨⟨by decide +kernel, by decide +kernel, by decide +kernel, writes (by decide +kernel)⟩,
    by decide +kernel, by decide +kernel⟩

/-- An engine's access that answers something, which meets a test, and leaves the state as it was. -/
theorem reads {α : Type} {p : Except Raise α × State} {s : State} {Q : α → Prop} [∀ b, Decidable (Q b)]
    (h : (match p.1 with | .ok b => decide (p.2 = s ∧ Q b) | .error _ => false) = true) : ∃ b, p = (.ok b, s) ∧ Q b := by
  obtain ⟨r, t⟩ := p
  cases r with
  | error e => simp at h
  | ok b => simp only [decide_eq_true_eq] at h; exact ⟨b, by rw [← h.1], h.2⟩

/-- A strand whose handlers began at a bundle of this number. -/
def takenAt (n : Nat) (st : Strand) : Strand := { st with pos := { st.pos with susp := st.pos.susp.map fun p => { p with seq := n } } }
/-- A result of the handler in flight, and a far access of the handler and one of the program before it. -/
def busyTrap (l : List Flight) (far : List FarOp) : State :=
  let st := takenAt 3 inTrap.strand
  inTrap.setStrand { st with pos := { st.pos with line := { st.pos.line with flights := l } }, far := far }
def farOf (seq : Nat) : FarOp := ⟨1, 0, 0x30000, [(windowBase 1, 4)], .load .none, false, seq⟩

theorem begins {α : Type} {l : List α} (h : l.isEmpty = false) : ∃ a r, l = a :: r := by
  cases l with
  | nil => simp at h
  | cons a r => exact ⟨a, r, rfl⟩

theorem witness_TrapAndHandlerReturn :
    (∀ far ∈ [[], [farOf 2]], ∃ s, s = busyTrap [] far ∧ s.issuing = true ∧ s.strand.trapFrame = some 0x10000 ∧ s.flights = [] ∧
      (∀ f ∈ s.strand.far, f.seq < s.strand.handlerFrom) ∧
      (∃ top rest, s.strand.pos.susp = top :: rest) ∧ s.strand.replay = [] ∧
      (∃ a, through (strandAccess 0x10000 64 .r false) (enter .rft s) = some (a, enter .rft s)) ∧
      (∃ b, engineRead (enter .rft s) (agentFor s.focus s.strand) 0x10000 64 = (.ok b, enter .rft s) ∧ frameOk b 0 = true) ∧
      (enter .rft s).focus = s.focus ∧ (enter .rft s).strand = s.strand ∧ (enter .rft s).issuing = true) ∧
    (start.issuing = true ∧ start.strand.trapFrame = none ∧ start.strand.sys.uih = false) ∧
    (∀ s ∈ [busyTrap [⟨6, 0, 0, .flags 1⟩] [], busyTrap [] [farOf 3]], s.issuing = true ∧ s.strand.trapFrame.isSome = true ∧
      handlerBusy s.strand = true) ∧
    (let s := inHandler.setStrand { inHandler.strand with
        pos := { inHandler.strand.pos with line := { inHandler.strand.pos.line with flights := [⟨6, 0, 0, .flags 1⟩] } } };
      s.issuing = true ∧ s.strand.trapFrame = none ∧ s.strand.sys.uih = true ∧ handlerOpen (enter .uret s) s.strand = true) ∧
    (inHandler.issuing = true ∧ inHandler.strand.trapFrame = none ∧ inHandler.strand.sys.uih = true ∧
      handlerOpen (enter .uret inHandler) inHandler.strand = false ∧
      inHandler.strand.pos.susp = ⟨.user, ⟨4, 0, []⟩, false, false, none, .none, 0⟩ :: []) := by
  refine ⟨fun far h => ⟨_, rfl, ?_⟩, by decide +kernel, by decide +kernel, by decide +kernel, by decide +kernel⟩
  fin_cases h <;> exact ⟨by decide +kernel, by decide +kernel, by decide +kernel, by decide +kernel, begins (by decide +kernel), by decide +kernel,
    goesStill (by decide +kernel), reads (by decide +kernel), by decide +kernel, by decide +kernel, by decide +kernel⟩

/-- A register for each side of each condition: the last view register, TVEC at user privilege, STATUS's neighbours that no one writes. -/
theorem witness_SystemRegisterMoves :
    (start.issuing = true ∧ sysRegMapped 0x077 = true ∧ supervisorRead 0x077 = false ∧ start.priv = false ∧
      ∃ s1, through (putX 1 55 (readSys start 0x077)) (enter (.mfs 55 0x077) start) = some ((), s1)) ∧
    ((supervisorRead 0x020 = true ∧ supervisorRead 0x022 = true ∧ inTrap.priv = true) ∧
      (sysRegMapped 0x000 = true ∧ neverWritten 0x000 = false ∧ supervisorWrite 0x000 = false) ∧
      (sysRegMapped 0x057 = true ∧ neverWritten 0x057 = false ∧ supervisorWrite 0x057 = false) ∧
      (sysRegMapped 0x003 = true ∧ neverWritten 0x003 = true ∧ neverWritten 0x077 = true) ∧
      (sysRegMapped 0x001 = true ∧ supervisorWrite 0x001 = true ∧ sysRegMapped 0x032 = true ∧ supervisorWrite 0x032 = true)) ∧
    (∃ v s1, through (getX 55) (enter (.mts 55 0) start) = some (v, s1)) :=
  ⟨⟨by decide +kernel, by decide +kernel, by decide +kernel, by decide +kernel, _, goes (by decide +kernel)⟩, by decide +kernel,
    _, _, goes (by decide +kernel)⟩

theorem witness_SystemRegisterFrame :
    calm start = true ∧ sysRegMapped (0x057 : BitVec 12).toNat = true ∧ neverWritten (0x057 : BitVec 12).toNat = false ∧
    supervisorWrite (0x057 : BitVec 12).toNat = false ∧ calm inTrap = true ∧ inTrap.priv = true ∧ neverWritten (0x020 : BitVec 12).toNat = false ∧
    sysRegMapped (0x020 : BitVec 12).toNat = true := by
  decide +kernel

/-- Addresses for loads and stores: the last bytes of the page of the own scratchpad, an odd one, and one of core 1. -/
def own : State := having (withXs [(1, 0x1FFFC), (2, 0x10000), (3, 0x55)])
def odd : State := having (withXs [(1, 0x10001)])
def far : State := having (withXs [(1, 0x30000), (3, 0x55)])

theorem witness_LocalLoads :
    ((Instr.ld tag0 3 1 6 0, 0x1FFFC, 1, none) ∈ loads own tag0 3 1 6 11 0 0 ∧ own.issuing = true ∧ passes tag0 own = true ∧
      noneFar own = true ∧
      ∃ a, through (strandAccess 0x1FFFC (sizeBytes 6) .r (sizeBytes 6 == 8)) (enter (.ld tag0 3 1 6 0) own) = some (a, enter (.ld tag0 3 1 6 0) own) ∧
        (localSpace own a.space = true ∧ a.poison own = none)) ∧
    (vectorFits own (255 : VReg).toNat = true ∧ VReg.isSpool 255 = false ∧
      ∃ a, through (strandAccess (own.x 2 + (0 : BitVec 20).signExtend 64).toNat 128 .r false) (enter (.vld tag0 255 2 0) own) =
          some (a, enter (.vld tag0 255 2 0) own) ∧ (localSpace own a.space = true ∧ a.poison own = none)) ∧
    (odd.issuing = true ∧ passes tag0 odd = true ∧ noneFar odd = true ∧ odd.strand.reports = [] ∧
      unfrozen (.lda tag0 3 1 6 0 0) odd = true ∧ unfrozen (.stl tag0 3 1 6 0 0) odd = true ∧ (odd.x 1 + (0 : BitVec 18).signExtend 64).toNat % sizeBytes 6 ≠ 0) :=
  ⟨⟨by decide +kernel, by decide +kernel, by decide +kernel, by decide +kernel, finds (by decide +kernel)⟩,
    ⟨by decide +kernel, by decide, finds (by decide +kernel)⟩, by decide +kernel⟩

theorem witness_LocalStores :
    (((Instr.st tag0 3 1 6 0, 0x1FFFC, 1, none) ∈ stores own tag0 3 1 6 11 0 0 ∧ own.issuing = true ∧ passes tag0 own = true ∧
        noneFar own = true ∧ own.strand.reports = [] ∧ own.collectives = []) ∧
      ∃ a, through (strandAccess 0x1FFFC (sizeBytes 6) .w (sizeBytes 6 == 8)) (enter (.st tag0 3 1 6 0) own) = some (a, enter (.st tag0 3 1 6 0) own) ∧
        (localSpace own a.space = true ∧ a.pieces = [(windowBase 0 + 0xFFFC, sizeBytes 6)] ∧
          own.partialPoison (windowBase 0 + 0xFFFC) (sizeBytes 6) = none)) ∧
    (∃ v s1, through (getV 0) (enter (.vst tag0 0 0 2 0) own) = some (v, s1) ∧
      s1.strand.far = [] ∧ s1.strand.bad = [] ∧ s1.issue.mode = 0 ∧
      ∃ a, through (strandAccess (s1.x 2 + (0 : BitVec 20).signExtend 64).toNat 128 .w false) s1 = some (a, s1) ∧
        (localSpace s1 a.space = true ∧ a.pieces = [(windowBase 0, 128)] ∧
          s1.partialPoison (windowBase 0) 128 = none)) :=
  ⟨⟨by decide +kernel, finds (by decide +kernel)⟩,
    _, _, goes (by decide +kernel), by decide +kernel, by decide +kernel, by decide +kernel, finds (by decide +kernel)⟩

theorem witness_StoreFrame :
    (Instr.st tag0 3 1 6 0, 0x1FFFC, 1, none) ∈ stores own tag0 3 1 6 11 0 0 ∧ calm own = true ∧ passes tag0 own = true ∧
    Memory.wf own.mem = true ∧ own.strand.reports = [] ∧
    ∃ a, through (strandAccess 0x1FFFC (sizeBytes 6) .w (sizeBytes 6 == 8)) (enter (.st tag0 3 1 6 0) own) = some (a, enter (.st tag0 3 1 6 0) own) ∧
      (localSpace own a.space = true ∧ (∀ p ∈ a.pieces, own.partialPoison p.1 p.2 = none) ∧
        a.pieces = [(windowBase 0 + 0xFFFC, sizeBytes 6)] ∧ isBlock a.space = false) :=
  ⟨by decide +kernel, by decide +kernel, by decide +kernel, by decide +kernel, by decide +kernel, finds (by decide +kernel)⟩

theorem witness_FarAccessesSent :
    (((Instr.ld tag0 3 1 6 0, 0x30000, 1, none) ∈ loads far tag0 3 1 6 11 0 0 ∧ far.issuing = true ∧ passes tag0 far = true ∧
        noneFar far = true ∧ far.strand.reports = [] ∧ far.collectives = []) ∧
      ∃ a, through (strandAccess 0x30000 (sizeBytes 6) .r (sizeBytes 6 == 8)) (enter (.ld tag0 3 1 6 0) far) = some (a, enter (.ld tag0 3 1 6 0) far) ∧
        localSpace far a.space = false) ∧
    (vectorFits far (0 : VReg).toNat = true ∧
      ∃ a, through (strandAccess (far.x 1 + (0 : BitVec 20).signExtend 64).toNat 128 .r false) (enter (.vld tag0 0 1 0) far) =
          some (a, enter (.vld tag0 0 1 0) far) ∧ localSpace far a.space = false) ∧
    ((Instr.st tag0 3 1 6 0, 0x30000, 1, none) ∈ stores far tag0 3 1 6 11 0 0 ∧
      ∃ a, through (strandAccess 0x30000 (sizeBytes 6) .w (sizeBytes 6 == 8)) (enter (.st tag0 3 1 6 0) far) = some (a, enter (.st tag0 3 1 6 0) far) ∧
        localSpace far a.space = false) :=
  ⟨⟨by decide +kernel, finds (by decide +kernel)⟩,
    ⟨by decide +kernel, finds (by decide +kernel)⟩, by decide +kernel, finds (by decide +kernel)⟩

/-- The last word of the page, a misaligned one, and the pair at the start of the scratchpad. -/
theorem witness_LocalAtomics :
    (own.issuing = true ∧ passes tag0 own = true ∧ noneFar own = true ∧ (own.x 1).toNat % 4 = 0 ∧
      (own.x 2).toNat % 16 = 0 ∧ (own.x 1).toNat % 16 ≠ 0 ∧ (own.x 1).toNat % 8 ≠ 0 ∧ unfrozen (.amo tag0 3 1 2 8 1 0 0) own = true ∧
      unfrozen (.acas tag0 54 1 4 6 0 0) own = true ∧ pathsClear (enter (.amo tag0 3 1 2 8 0 3 11) own) (some 11) 0x61) ∧
    (∃ a, through (strandAccess (own.x 1).toNat 4 .rw false) (enter (.amo tag0 3 1 2 8 0 3 11) own) = some (a, enter (.amo tag0 3 1 2 8 0 3 11) own) ∧
      (localSpace own a.space = true ∧ a.pieces = [(windowBase 0 + 0xFFFC, 4)] ∧ a.poison own = none)) ∧
    (pairOk 54 = true ∧ ∃ a, through (strandAccess (own.x 2).toNat 16 .rw false) (enter (.acas tag0 54 2 4 6 0 0) own) =
        some (a, enter (.acas tag0 54 2 4 6 0 0) own) ∧
      (localSpace own a.space = true ∧ a.pieces = [(windowBase 0, 16)] ∧ a.poison own = none)) :=
  ⟨by unfold pathsClear clearOf; decide +kernel, finds (by decide +kernel), by decide, finds (by decide +kernel)⟩

/-- The first reads of a vector instruction of two operands, all zeroes. -/
theorem readsZeroes {i : Instr} {va vb : VReg} {s : State}
    (h : (through (getV va) (enter i s)).map Prod.fst = some 0 ∧ (through (getV vb) (aft (getV va) (enter i s))).map Prod.fst = some 0) :
    ∃ t, readsTwo i va vb s 0 0 t ∧ t = aft (getV vb) (aft (getV va) (enter i s)) :=
  ⟨_, ⟨_, goesTo h.1, goesTo h.2⟩, rfl⟩

theorem sends {lat : Nat} {vd : VReg} {v fl : Nat} {s : State}
    (h : (through (putV lat vd v) s).isSome = true ∧ (through (emitFlags lat fl) (aft (putV lat vd v) s)).isSome = true) :
    ∃ t, sendsVector lat vd v fl s t :=
  ⟨_, _, goes h.1, goes h.2⟩

/-- Of integers, into the last register of the partition; and of f32. -/
theorem witness_LaneResults :
    ∀ p ∈ [((255 : VReg), (11 : ElemType)), (2, 0)], ∃ (lat : Nat) (f : Nat → Nat → Nat × Nat) (s2 s3 s4 : State) (r : Round),
      (Instr.vadd tag0 p.1 0 0 1 1 p.2 0, lat, f) ∈ laneOps tag0 p.1 0 0 1 1 p.2 0 r ∧ wellFormed (.vadd tag0 p.1 0 0 1 1 p.2 0) = true ∧
      start.issuing = true ∧ passes tag0 start = true ∧ portsAgree (.vadd tag0 p.1 0 0 1 1 p.2 0) start = true ∧
      readsTwo (.vadd tag0 p.1 0 0 1 1 p.2 0) 0 1 start 0 0 s2 ∧ through (etRound p.2) s2 = some (r, s3) ∧
      vectorOf (ElemType.bytes p.2) (fun k => f (elemOf (ElemType.bytes p.2) k 0) (elemOf (ElemType.bytes p.2) k 0)) 0 0 ∧
      sendsVector lat p.1 0 0 s3 s4 := by
  intro p hp
  fin_cases hp
  · obtain ⟨t, h, e⟩ := readsZeroes (i := .vadd tag0 255 0 0 1 1 11 0) (va := 0) (vb := 1) (s := start) (by decide +kernel)
    obtain ⟨u, g⟩ := sends (lat := 2) (vd := 255) (v := 0) (fl := 0) (s := aft (etRound 11) t) (by subst e; decide +kernel)
    exact ⟨2, _, t, _, u, .rne, .head _, by decide, by decide +kernel, by decide +kernel, by decide +kernel, h,
      goesTo (by subst e; decide +kernel), by unfold vectorOf; decide +kernel, g⟩
  · obtain ⟨t, h, e⟩ := readsZeroes (i := .vadd tag0 2 0 0 1 1 0 0) (va := 0) (vb := 1) (s := start) (by decide +kernel)
    obtain ⟨u, g⟩ := sends (lat := 4) (vd := 2) (v := 0) (fl := 0) (s := aft (etRound 0) t) (by subst e; decide +kernel)
    exact ⟨4, _, t, _, u, .rne, .head _, by decide, by decide +kernel, by decide +kernel, by decide +kernel, h,
      goesTo (by subst e; decide +kernel), by unfold vectorOf; decide +kernel, g⟩

theorem zero_vec : (0 : Vec).toNat = 0 := by decide +kernel

theorem witness_LaneResultsOfOneAndBits :
    (∃ (f : Nat → Nat × Nat) (s1 s2 s3 : State), (Instr.vabs tag0 2 0 0 11, 2, f) ∈ laneOps1 tag0 2 0 0 11 .rne ∧
      wellFormed (.vabs tag0 2 0 0 11) = true ∧ portsAgree (.vabs tag0 2 0 0 11) start = true ∧
      through (getV 0) (enter (.vabs tag0 2 0 0 11) start) = some (0, s1) ∧ through (etRound 11) s1 = some (.rne, s2) ∧
      vectorOf (ElemType.bytes 11) (fun k => f (elemOf (ElemType.bytes 11) k 0)) 0 0 ∧ sendsVector 2 2 0 0 s2 s3) ∧
    (∃ s2 s3, (∀ a b : Vec, (Instr.vand tag0 2 0 0 1 1 3, a &&& b) ∈ bitOps tag0 2 0 0 1 1 3 a b) ∧ portsAgree (.vand tag0 2 0 0 1 1 3) start = true ∧
      readsTwo (.vand tag0 2 0 0 1 1 3) 0 1 start (0 : Vec).toNat (0 : Vec).toNat s2 ∧
      through (putV 2 2 ((0 : Vec) &&& 0).toNat) s2 = some ((), s3)) ∧
    (∃ s1 s2, portsAgree (.vnot tag0 2 0 0 3) start = true ∧
      through (getV 0) (enter (.vnot tag0 2 0 0 3) start) = some ((0 : Vec).toNat, s1) ∧
      through (putV 2 2 (~~~(0 : Vec)).toNat) s1 = some ((), s2)) := by
  refine ⟨?_, ?_, ⟨_, _, by decide +kernel, goesTo (by decide +kernel), goes (by decide +kernel)⟩⟩
  · obtain ⟨u, g⟩ := sends (lat := 2) (vd := 2) (v := 0) (fl := 0)
      (s := aft (etRound 11) (aft (getV 0) (enter (.vabs tag0 2 0 0 11) start))) (by decide +kernel)
    exact ⟨_, _, _, u, .head _, by decide, by decide +kernel, goesTo (by decide +kernel), goesTo (by decide +kernel),
      by unfold vectorOf; decide +kernel, g⟩
  · obtain ⟨t, h, e⟩ := readsZeroes (i := .vand tag0 2 0 0 1 1 3) (va := 0) (vb := 1) (s := start) (by decide +kernel)
    exact ⟨t, _, fun _ _ => .head _, by decide +kernel, by rw [zero_vec]; exact h, goes (by subst e; decide +kernel)⟩

theorem witness_LaneSelections :
    (∃ s2 s3 s4 s5, portsAgree (.vfma tag0 2 2 0 0 1 1 0) start = true ∧ readsTwo (.vfma tag0 2 2 0 0 1 1 0) 0 1 start 0 0 s2 ∧
      through (getV (shortV 2)) s2 = some (0, s3) ∧ through (etRound 0) s3 = some (.rne, s4) ∧
      vectorOf (ElemType.bytes 0) (fun k => fFma (etFmt 0) .rne (elemOf (ElemType.bytes 0) k 0) (elemOf (ElemType.bytes 0) k 0)
        (elemOf (ElemType.bytes 0) k 0)) 0 0 ∧ sendsVector 4 (shortV 2) 0 0 s4 s5) ∧
    (∃ s2 s3 s4, portsAgree (.vsel tag0 2 2 0 0 1 1 3) start = true ∧ readsTwo (.vsel tag0 2 2 0 0 1 1 3) 0 1 start 0 0 s2 ∧
      through (getV (shortV 2)) s2 = some (0, s3) ∧
      vectorOf (ElemType.bytes 3) (fun k => (if elemOf (ElemType.bytes 3) k 0 ≠ 0 then elemOf (ElemType.bytes 3) k 0
        else elemOf (ElemType.bytes 3) k 0, 0)) 0 0 ∧ through (putV 2 (shortV 2) 0) s3 = some ((), s4)) ∧
    (∃ s2 s3, wellFormed (.vcmp tag0 2 0 0 1 1 10 1) = true ∧ portsAgree (.vcmp tag0 2 0 0 1 1 10 1) start = true ∧
      readsTwo (.vcmp tag0 2 0 0 1 1 10 1) 0 1 start 0 0 s2 ∧
      vectorOf (fmtBytes (10 : Fmt).toNat) (fun k =>
        let x := elemOf (fmtBytes (10 : Fmt).toNat) k 0
        let y := elemOf (fmtBytes (10 : Fmt).toNat) k 0
        (if (if (10 : Fmt).toNat < 8 then compares (1 : BitVec 3).toNat (10 : Fmt).toNat (BitVec.ofNat 64 x) (BitVec.ofNat 64 y)
            else floatCompare (10 : Fmt).toNat (1 : BitVec 3).toNat x y) then 2 ^ (8 * fmtBytes (10 : Fmt).toNat) - 1 else 0, 0)) 0 0 ∧
      through (putV 2 (shortV 2) 0) s2 = some ((), s3)) ∧
    (∃ s2 s3, portsAgree (.vperm tag0 2 0 0 1 1 3) start = true ∧ readsTwo (.vperm tag0 2 0 0 1 1 3) 0 1 start 0 0 s2 ∧
      vectorOf (ElemType.bytes 3) (fun k =>
        let j := elemOf (ElemType.bytes 3) k 0
        (if j < 128 / ElemType.bytes 3 then elemOf (ElemType.bytes 3) j 0 else 0, 0)) 0 0 ∧
      through (putV 3 2 0) s2 = some ((), s3)) ∧
    (∃ v s2 s3, wellFormed (.vmask tag0 2 0 0 1 1 0) = true ∧ portsAgree (.vmask tag0 2 0 0 1 1 0) start = true ∧
      readsTwo (.vmask tag0 2 0 0 1 1 0) 0 1 start 0 0 s2 ∧
      vectorOf (ElemType.bytes 0)
        (fun k => (if (0 : Nat).testBit k then elemOf (ElemType.bytes 0) k 0 else minusInfinity (etFmt 0), 0)) v 0 ∧
      through (putV 2 2 v) s2 = some ((), s3)) ∧
    (∃ s1 s2 s3, portsAgree (.vins tag0 2 2 1 3 15) start = true ∧ through (getV 2) (enter (.vins tag0 2 2 1 3 15) start) = some (0, s1) ∧
      through (getX 1) s1 = some (0, s2) ∧
      vectorOf (2 ^ (3 : BitVec 2).toNat) (fun k => (if k = (15 : BitVec 7).toNat then (0 : Word).toNat
        else elemOf (2 ^ (3 : BitVec 2).toNat) k 0, 0)) 0 0 ∧ through (putV 2 2 0) s2 = some ((), s3)) ∧
    (∃ s1 s2, through (getX 1) (enter (.vbcst tag0 2 1 15) start) = some (0, s1) ∧
      vectorOf (ElemType.bytes 15) (fun _ => ((0 : Word).toNat, 0)) 0 0 ∧ through (putV 2 2 0) s1 = some ((), s2)) := by
  unfold vectorOf
  refine ⟨?_, ?_, ?_, ?_, ?_, ?_, ?_⟩
  · obtain ⟨t, h, e⟩ := readsZeroes (i := .vfma tag0 2 2 0 0 1 1 0) (va := 0) (vb := 1) (s := start) (by decide +kernel)
    obtain ⟨u, g⟩ := sends (lat := 4) (vd := shortV 2) (v := 0) (fl := 0) (s := aft (etRound 0) (aft (getV (shortV 2)) t))
      (by subst e; decide +kernel)
    exact ⟨t, _, _, u, by decide +kernel, h, goesTo (by subst e; decide +kernel), goesTo (by subst e; decide +kernel), by decide +kernel, g⟩
  · obtain ⟨t, h, e⟩ := readsZeroes (i := .vsel tag0 2 2 0 0 1 1 3) (va := 0) (vb := 1) (s := start) (by decide +kernel)
    exact ⟨t, _, _, by decide +kernel, h, goesTo (by subst e; decide +kernel), by decide +kernel, goes (by subst e; decide +kernel)⟩
  · obtain ⟨t, h, e⟩ := readsZeroes (i := .vcmp tag0 2 0 0 1 1 10 1) (va := 0) (vb := 1) (s := start) (by decide +kernel)
    exact ⟨t, _, by decide, by decide +kernel, h, by decide +kernel, goes (by subst e; decide +kernel)⟩
  · obtain ⟨t, h, e⟩ := readsZeroes (i := .vperm tag0 2 0 0 1 1 3) (va := 0) (vb := 1) (s := start) (by decide +kernel)
    exact ⟨t, _, by decide +kernel, h, by decide +kernel, goes (by subst e; decide +kernel)⟩
  · obtain ⟨t, h, e⟩ := readsZeroes (i := .vmask tag0 2 0 0 1 1 0) (va := 0) (vb := 1) (s := start) (by decide +kernel)
    exact ⟨leNat ((List.replicate 32 [0, 0, 0x80, 0xFF]).flatten), t, _, by decide, by decide +kernel, h, by decide +kernel,
      goes (by subst e; decide +kernel)⟩
  · exact ⟨_, _, _, by decide +kernel, goesTo (by decide +kernel), goesTo (by decide +kernel), by decide +kernel, goes (by decide +kernel)⟩
  · exact ⟨_, _, goesTo (by decide +kernel), by decide +kernel, goes (by decide +kernel)⟩

/-- `start` with values in vector registers. -/
def vecs (l : List (Nat × Nat)) : State := l.foldl (fun s p => s.writePhys (regSpaceBase 0 + 128 * p.1) (leBytes 128 p.2)) start

/-- A vector of f32 NaNs; what VSPRS leaves of zeros, whose first four codes of every group it keeps. -/
def nans : Nat := leNat (List.replicate 32 [0, 0, 0xC0, 0x7F]).flatten
def keptZeros : Nat := leNat (List.replicate 64 (0 : Byte) ++ (List.replicate 16 (leBytes 2 0x688)).flatten)

theorem compressed_zeros : compressed 0 0 keptZeros :=
  ⟨by decide +kernel, fun g k hg hk =>
      (show ∀ g, g < 16 → ∀ k, k < 4 → elemOf 1 (4 * g + k) keptZeros = elemOf 1 (8 * g + (keeps 0 0 g).getD k 0) 0 by decide +kernel) g hg k hk,
    by decide +kernel, by intro k h1 h2; exact (show ∀ k, k < 128 → 96 ≤ k → elemOf 1 k keptZeros = 0 by decide +kernel) k h2 h1⟩

theorem noLane {k : Nat} (hk : counts 8 4 nans k) : False :=
  (show ∀ k, k < 32 → ¬ ((8 : Nat) < 8 ∨ (floatValue 8 (elemOf 4 k nans)).isNaN = false) by decide +kernel) k hk.1 hk.2

theorem largest_found : isLargest 8 4 0 0 ∧ isLargest 8 4 nans 0x7FC00000 :=
  ⟨.inl ⟨0, ⟨by decide, by decide +kernel⟩, by decide +kernel,
      fun j hj => (show ∀ j, j < 32 → magnitude 8 4 (elemOf 4 j 0) ≤ 0 by decide +kernel) j hj.1⟩,
    .inr ⟨fun _ => noLane, by decide +kernel⟩⟩

theorem argmax_found : isArgmax 8 4 0 0 ∧ isArgmax 8 4 nans 0 :=
  ⟨.inl ⟨⟨by decide, by decide +kernel⟩, fun j hj => .inr ⟨(show ∀ j, j < 32 → ordered 8 4 (elemOf 4 j 0) = ordered 8 4 (elemOf 4 0 0)
      by decide +kernel) j hj.1, Nat.zero_le _⟩⟩, .inr ⟨fun _ => noLane, rfl⟩⟩

theorem witness_ConversionsAndReductions :
    (∃ (r : Round) (s1 s2 s3 : State), wellFormed (.vcvt tag0 2 0 0 8 11 0 0 3) = true ∧ portsAgree (.vcvt tag0 2 0 0 8 11 0 0 3) start = true ∧
      through (getV 0) (enter (.vcvt tag0 2 0 0 8 11 0 0 3) start) = some (0, s1) ∧ through (getRound 0) s1 = some (r, s2) ∧
      vectorOf (fmtBytes 8) (convPlaced 8 11 r false 3 0) 0 0 ∧ sendsVector 3 2 0 0 s2 s3) ∧
    ((7 < 8 ∧ 0xFFFFFFFFFFFFFFFF < 2 ^ (8 * fmtBytes 7)) ∧ (0x7FC00000 < 2 ^ floatBits 8 ∧ (floatValue 8 0x7FC00000).isNaN = true) ∧
      (12 ≤ 12 ∧ 0xFC < 2 ^ floatBits 12 ∧ floatValue 12 0xFC = .inf true) ∧ ∃ neg m e, floatValue 11 0x7E = .fin neg m e) ∧
    (∃ s1 s2, wellFormed (.vsprs tag0 2 0 0 0) = true ∧ through (getV 0) (enter (.vsprs tag0 2 0 0 0) start) = some (0, s1) ∧
      compressed 0 0 keptZeros ∧ through (putV 6 2 keptZeros) s1 = some ((), s2)) ∧
    (∃ a s1 s2, wellFormed (.vext tag0 3 0 0 3 127) = true ∧ through (getV 0) (enter (.vext tag0 3 0 0 3 127) start) = some (a, s1) ∧
      through (putX 2 3 (BitVec.ofInt 64 (laneInt (etFmt 3) (ElemType.bytes 3) (elemOf (ElemType.bytes 3) 127 a)))) s1 = some ((), s2)) ∧
    (∃ s1 s2 s3 s4, wellFormed (.vred tag0 3 0 0 11 0) = true ∧ through (getV 0) (enter (.vred tag0 3 0 0 11 0) start) = some (0, s1) ∧
      through (etRound 11) s1 = some (.rne, s2) ∧
      tree (vredNode (etFmt 11) 0 .rne) (Nat.log2 (128 / ElemType.bytes 11))
        (fun k => (widened (etFmt 11) (ElemType.bytes 11) (elemOf (ElemType.bytes 11) k 0), 0)) = (0, 0) ∧
      through (putX 6 3 (BitVec.ofNat 64 0)) s2 = some ((), s3) ∧ through (emitFlags 6 0) s3 = some ((), s4)) ∧
    (∀ p ∈ [(0, 0), (nans, 0x7FC00000)], ∃ s1 s2, wellFormed (.vamax tag0 3 0 0 0) = true ∧ portsAgree (.vamax tag0 3 0 0 0) (vecs [(0, p.1)]) = true ∧
      through (getV 0) (enter (.vamax tag0 3 0 0 0) (vecs [(0, p.1)])) = some (p.1, s1) ∧ isLargest (etFmt 0) (ElemType.bytes 0) p.1 p.2 ∧
      through (putX 5 3 (BitVec.ofNat 64 p.2)) s1 = some ((), s2)) ∧
    (∀ a ∈ [0, nans], ∃ s1 s2, wellFormed (.vargmx tag0 3 0 0 0) = true ∧ portsAgree (.vargmx tag0 3 0 0 0) (vecs [(0, a)]) = true ∧
      through (getV 0) (enter (.vargmx tag0 3 0 0 0) (vecs [(0, a)])) = some (a, s1) ∧ isArgmax (etFmt 0) (ElemType.bytes 0) a 0 ∧
      through (putX 6 3 (BitVec.ofNat 64 0)) s1 = some ((), s2)) := by
  unfold vectorOf
  refine ⟨?_, ⟨by decide, by decide +kernel, by decide +kernel, _, _, _, rfl⟩, ⟨_, _, by decide, goesTo (by decide +kernel), compressed_zeros, goes (by decide +kernel)⟩,
    ⟨_, _, _, by decide, goes (by decide +kernel), goes (by decide +kernel)⟩,
    ⟨_, _, _, _, by decide, goesTo (by decide +kernel), goesTo (by decide +kernel), by decide +kernel, goes (by decide +kernel), goes (by decide +kernel)⟩,
    fun p h => ⟨_, _, by decide, ?_, goesTo ?_, ?_, goes ?_⟩, fun a h => ⟨_, _, by decide, ?_, goesTo ?_, ?_, goes ?_⟩⟩
  · obtain ⟨u, g⟩ := sends (lat := 3) (vd := 2) (v := 0) (fl := 0)
      (s := aft (getRound 0) (aft (getV 0) (enter (.vcvt tag0 2 0 0 8 11 0 0 3) start))) (by decide +kernel)
    exact ⟨.rne, _, _, u, by decide, by decide +kernel, goesTo (by decide +kernel), goesTo (by decide +kernel), by decide +kernel, g⟩
  iterate 2 revert p; decide +kernel
  · simp only [List.mem_cons, List.not_mem_nil, or_false] at h
    rcases h with rfl | rfl
    exacts [largest_found.1, largest_found.2]
  · revert p; decide +kernel
  iterate 2 revert a; decide +kernel
  · rcases List.mem_pair.mp h with e | e
    · exact e ▸ argmax_found.1
    · exact e ▸ argmax_found.2
  · revert a; decide +kernel

/-- `start` with bytes in memory. -/
def bytes (l : List (Nat × List Byte)) (s : State) : State := l.foldl (fun s p => s.writePhys p.1 p.2) s

theorem readsBoth {i : Instr} {va vb : VReg} {s : State} {a b : Nat}
    (h : (through (getV va) (enter i s)).map Prod.fst = some a ∧ (through (getV vb) (aft (getV va) (enter i s))).map Prod.fst = some b) :
    readsTwo i va vb s a b (aft (getV vb) (aft (getV va) (enter i s))) :=
  ⟨_, goesTo h.1, goesTo h.2⟩

/-- A strand that may use every spool; an index spool 14 serves spool 15, which is INDIRECT. -/
def spooled : State := having fun st =>
  withSpool 14 (spool (desc 0 6 0 4)) (withSpool 15 (spool (desc 2 0 0 1 + 14 * 2 ^ 80)) { st with ident := { st.ident with spoolMask := 0xFFFF } })

theorem witness_SpoolSetup :
    (∃ s1, portsAgree (.scfg tag0 0 0 13) spooled = true ∧ noAcquire spooled = true ∧
      through (getV 0) (enter (.scfg tag0 0 0 13) spooled) = some (0, s1) ∧
      (spoolDescOk 0 && bankAgrees s1 s1.focus 0 && bit s1.strand.ident.spoolMask (13 : SpoolNo).toNat
        && !isBound s1.strand (13 : SpoolNo).toNat && (!spIsIndirect 0 || indexOk s1.strand (13 : SpoolNo).toNat (spIdx 0))) = true) ∧
    (∃ s1, through (getV 0) (enter (.scfg tag0 0 0 14) spooled) = some (0, s1) ∧ isBound s1.strand (14 : SpoolNo).toNat = true) ∧
    (spooled.strandAt 0 = some spooled.strand ∧ spooled.strand.spools.getD 0 none = none ∧
      isBound spooled.strand (15 : SpoolNo).toNat = false ∧ isBound spooled.strand (14 : SpoolNo).toNat = true ∧
      spooled.strand.spools.getD 14 none = some (spool (desc 0 6 0 4)) ∧ spIsStore (desc 0 6 0 4) = false ∧
      spIsIndirect (desc 0 6 0 4) = false ∧ (⟨0, 0, 0, .spoolConfig 0 0 [] true 7⟩ : Flight).eff = .spoolConfig 0 0 [] true 7 ∧
      (⟨0, 0, 0, .spoolRelease 14⟩ : Flight).eff = .spoolRelease 14) :=
  ⟨⟨_, by decide +kernel, by decide +kernel, goesTo (by decide +kernel), by decide +kernel⟩,
    ⟨_, goesTo (by decide +kernel), by decide +kernel⟩, by decide +kernel⟩

/-- A plain layout record; one with a reserved bit, one whose PERM is no permutation, one of two points. -/
def plain : Nat := 0xE4 * 2 ^ 72
def records : List (Nat × Nat) :=
  [(plain + 2 ^ 71, plain), (plain, plain + 2 ^ 127), (0, plain), (plain, 0), (plain, plain + 2 ^ 512), (plain, plain)]

/-- A copy in an engine, of tag 15. -/
def copying (src next : Nat) : Copy :=
  { id := 8, cluster := 0, ctx := 0, uid := 0, tag := 15, src := src, dst := plain + 0x10000, asid := 0, priv := false, fent := 0, banks := []
    engine := some 0, next := next, seq := 0 }
/-- `start` with some copies of tag 3 outstanding. -/
def tagging (out : Nat) : State := having fun st => { st with tags := st.tags.setIfInBounds 3 ⟨0, out, false, 0⟩ }

theorem witness_CopyIssue :
    (∀ p ∈ records, ∃ s2, readsTwo (.dcp tag0 3 0 0 1 1) 0 1 (vecs [(0, p.1), (1, p.2)]) p.1 p.2 s2 ∧
      through (tlBaseOk (p.1 % 2 ^ 768) .r) s2 = some (true, s2) ∧ through (tlBaseOk (p.2 % 2 ^ 768) .w) s2 = some (true, s2) ∧
      (tlOwnOk (p.1 % 2 ^ 768) = false → unfrozen (.dcp tag0 3 0 0 1 1) (vecs [(0, p.1), (1, p.2)]) = true) ∧
      s2.issuing = true ∧ passes tag0 s2 = true ∧ portsAgree (.dcp tag0 3 0 0 1 1) s2 = true ∧ noAcquire s2 = true ∧
      (s2.strand.tags.getD 3 ⟨0, 0, false, 0⟩).out ≠ 255 ∧ copyQueue s2 (clusterOf s2.coreNo) < 64) ∧
    (records.map fun p => (tlReserved p.1, tlReserved p.2, tlOwnOk p.1, tlOwnOk p.2, tlAgree p.1 p.2)) =
      [(some 71, none, true, true, true), (none, some 127, true, true, true), (none, none, false, true, true),
        (none, none, true, false, true), (none, none, true, true, false), (none, none, true, true, true)] ∧
    ((tagOf (tagging 255) 3).out = 255 ∧ noAcquire (tagging 255) = true ∧ portsAgree (.dcp tag0 3 0 0 1 1) (tagging 255) = true ∧
      64 ≤ copyQueue { start with copies := List.replicate 64 { copying plain 0 with engine := none } } (clusterOf start.coreNo)) ∧
    (∀ p ∈ [(0, (0 : Word)), (1, 2 ^ 48)], calm (tagging p.1) = true ∧ passes tag0 (tagging p.1) = true ∧
      (tagOf (tagging p.1) 3).out = p.1 ∧ showsTag (tagOf (tagging p.1) 3) p.2 ∧
      ∃ s1, through (putX 1 55 p.2) (enter (.dstat tag0 55 3) (tagging p.1)) = some ((), s1)) ∧
    (let s := vecs [(0, plain), (1, plain)];
      calm s = true ∧ passes tag0 s = true ∧ portsAgree (.dcp tag0 3 0 0 1 1) s = true ∧ readable s 0 = true ∧ readable s 1 = true ∧
      copyOk s (s.readNat (vectorAddr s 0) 128 % 2 ^ 768) (s.readNat (vectorAddr s 1) 128 % 2 ^ 768) = true ∧
      (tagOf s 3).out ≠ 255 ∧ copyQueue s (clusterOf s.coreNo) < 64) := by
  unfold showsTag
  refine ⟨fun p hp => ⟨_, readsBoth ?_, ?_⟩, by decide +kernel, by decide +kernel, fun p hp => ?_, by decide +kernel⟩
  · revert p; decide +kernel
  · revert p; decide +kernel
  · fin_cases hp <;> exact ⟨by decide +kernel, by decide +kernel, by decide +kernel, by decide +kernel, _, goes (by decide +kernel)⟩

/-- A strand with x1 at the first cell of the own scratchpad and a value in x2; the cell empty, and full. -/
def cell (f : Strand → Strand) : State := having fun st => f (withXs [(1, 0x10000), (2, 7)] st)
def fullCell : State := bytes [(windowBase 0 + 8, [1])] (cell id)
def asTask (effect : Bool) (st : Strand) : Strand := { st with ident := { st.ident with work := .task 1, weight := 1 }, sideEffect := effect }

/-- A packet for a core. -/
def packet (core : Nat) : Packet :=
  { id := 9, addr := 0, arg0 := 0, arg1 := 0, entry := 0, weight := 1, region := 0, core := core, parkedOn := none, arrived := false
    ident := Ident.init, launchWord := 0, arg := 0 }

theorem parked_replicate (s : State) (p : Packet) (h : p.parkedOn.isSome = true) (n : Nat) :
    parkedCount { s with packets := List.replicate n p } = n := by
  simp [parkedCount, h]

theorem witness_Futures :
    (∀ s ∈ [fullCell, cell id, cell (asTask true), cell (asTask false)], s.issuing = true ∧ passes tag0 s = true ∧ noneFar s = true ∧
      s.strand.waits.kind ≠ 2 ∧ s.strand.waits.kind ≠ 3 ∧
      pathsClear (enter (.fwr tag0 1 2) s) (some 5) 0x61 ∧ parkedCount s < 65536 ∧
      ∃ pc, through (futureCell (s.x 1).toNat) (enter (.frd tag0 3 1) s) = some (pc, enter (.frd tag0 3 1) s) ∧
        (pc.1 = windowBase 0 ∧ bit pc.2 64 = (s == fullCell))) ∧
    (isTask (cell id) = false ∧ isTask (cell (asTask true)) = true ∧ (cell (asTask true)).strand.sideEffect = true ∧
      (cell (asTask false)).strand.sideEffect = false) ∧
    (∀ n ∈ [2, 3],
      let s := cell fun st => { st with waits := { WaitState.none with kind := n, arg := 0x10000, value := 5 } };
      s.issuing = true ∧ passes tag0 s = true ∧ noneFar s = true ∧ s.strand.waits.arg = (s.x 1).toNat ∧ s.strand.waits.kind = n) ∧
    (let s := { cell (asTask false) with packets := List.replicate 65536 { packet 0 with parkedOn := some 0 } };
      isTask s = true ∧ s.strand.sideEffect = false ∧ 65536 ≤ parkedCount s) ∧
    (let s := { start with waiters := [⟨0, 0, 64, 0⟩] };
      (⟨0, 0, 64, 0⟩ : Waiter) ∈ s.waiters ∧ s.strandAt 0 = some start.strand ∧ start.strand.ident.uid = 0 ∧ start.strand.pos.susp.length = 0) := by
  unfold pathsClear clearOf
  refine ⟨?_, by decide +kernel, by decide +kernel, ⟨by decide +kernel, by decide +kernel, (parked_replicate (cell (asTask false)) { packet 0 with parkedOn := some 0 } rfl 65536).ge⟩, by decide +kernel⟩
  intro s hs
  refine ⟨?_, ?_, ?_, ?_, ?_, ?_, ?_, finds ?_⟩ <;> revert s <;> decide +kernel

/-- A descriptor of a queue of two records from 0x20000, and core 0 with it as queue 0: empty, and full. -/
def queueWord : Nat := 3 + 1 * 2 ^ 4 + 1 * 2 ^ 9 + 0x20000 * 2 ^ 64
def queueing (tail : Nat) : State :=
  { bytes [(0x300000, leBytes 32 queueWord)] start with
    host := { start.host with qtab := 0x300000 }, queues := tabSet start.queues 0 ⟨tail, [], Vector.replicate 8 0⟩ }
theorem witness_SpawnAndLaunch :
    (∀ s ∈ [cell id, { cell id with packets := List.replicate 256 (packet 0) }, cell (asTask true)], s.issuing = true ∧ passes tag0 s = true ∧
      s.strand.trapFrame = none ∧ noneFar s = true ∧ pathsClear (enter (.spawn tag0 55 1 2 3) s) none 0x61 ∧ (s.x 1).toNat < 2 ^ 57 ∧
      through (strandMap (s.x 1).toNat) (enter (.spawn tag0 55 1 2 3) s) =
        some (some ⟨16, windowBase 0, 15⟩, enter (.spawn tag0 55 1 2 3) s) ∧ bit 15 3 = true ∧
      ownerCore s ((⟨16, windowBase 0, 15⟩ : PageMap).phys (s.x 1).toNat) = some 0) ∧
    (let s := cell fun st => { asTask true st with ident := { (asTask true st).ident with weight := 1 } };
      s.strand.ident.weight = 1 ∧ unfrozen (.spawn tag0 55 1 2 3) s = true ∧ pathsClear (enter (.spawn tag0 55 1 2 3) s) none 0x61) ∧
    ((cell id).strand.ident.weight = 0 ∧ isTask (cell id) = false ∧ inboxLoad (cell id) 0 < 256 ∧ (cell (asTask true)).strand.ident.weight = 1 ∧
      256 ≤ inboxLoad { cell id with packets := List.replicate 256 (packet 0) } 0) ∧
    (∀ tail ∈ [0, 1, 2], ∃ q r s1 s2, through (getX 1) (enter (.lnch tag0 1 0 0) (queueing tail)) = some (q, s1) ∧
      through (getV 0) s1 = some (r, s2) ∧ pathsClear s2 none 0x61 ∧ q.toNat < 16384 ∧
      (qdDev (queueDesc s2 q.toNat) && qdEn (queueDesc s2 q.toNat) && queueDescOk (queueDesc s2 q.toNat)) = true ∧
      (s2.queue q.toNat).tail = tail ∧ (pendingOf (queueDesc s2 q.toNat) tail < 2 ^ qdLog2n (queueDesc s2 q.toNat) ↔ tail < 2) ∧
      ∃ s3, engineWrite s2 { agentFor s2.focus s2.strand with asid := qdAsid (queueDesc s2 q.toNat) }
        (recordAddr (queueDesc s2 q.toNat) tail) (leBytes 128 (r % 2 ^ 1024)) = (none, s3)) ∧
    (∃ s1 s2, through (getX 1) (enter (.lnch tag0 1 0 0) (having (withXs [(1, 16384)]))) = some (16384, s1) ∧
      through (getV 0) s1 = some (0, s2) ∧ pathsClear s2 none 0x61 ∧ 16384 ≤ (16384 : Word).toNat) ∧
    (∃ s1 s2, through (getX 1) (enter (.lnch tag0 1 0 0) (having (withXs [(1, 16383)]))) = some (16383, s1) ∧
      through (getV 0) s1 = some (0, s2) ∧ pathsClear s2 none 0x61 ∧ unfrozen (.lnch tag0 1 0 0) (having (withXs [(1, 16383)])) = true ∧
      (qdDev (queueDesc s2 16383) && qdEn (queueDesc s2 16383) && queueDescOk (queueDesc s2 16383)) = false) ∧
    (calm (cell id) = true ∧ passes tag0 (cell id) = true ∧ (cell id).strand.trapFrame = none ∧
      tlbFind (cell id) (cell id).coreNo (cell id).strand.ident.asid ((cell id).x 1).toNat = some ⟨16, windowBase 0, 15⟩ ∧
      (2 : Nat) ^ 63 ≠ 1 ∧ 2 ^ 63 < 2 ^ 64) ∧
    (let s := queueing 1;
      (calm s = true ∧ passes tag0 s = true ∧ portsAgree (.lnch tag0 1 0 0) s = true ∧ s.strand.trapFrame = none ∧ readable s 0 = true ∧
        noAcquire s = true ∧ pathsClear (enter (.lnch tag0 1 0 0) s) none 0x61 ∧ (s.x 1).toNat = 0 ∧
        (qdDev (queueDesc s 0) && qdEn (queueDesc s 0) && queueDescOk (queueDesc s 0)) = true ∧
        pendingOf (queueDesc s 0) (s.queue 0).tail < 2 ^ qdLog2n (queueDesc s 0)) ∧
      ∃ s3, engineWrite (enter (.lnch tag0 1 0 0) s) { agentFor s.focus s.strand with asid := qdAsid (queueDesc s 0) }
        (recordAddr (queueDesc s 0) (s.queue 0).tail) (leBytes 128 (s.readNat (vectorAddr s 0) 128 % 2 ^ 1024)) = (none, s3) ∧
        s3.strand = s.strand) := by
  unfold pathsClear clearOf
  refine ⟨?_, by decide +kernel, by decide +kernel, ?_, ⟨_, _, goesTo (by decide +kernel), goesTo (by decide +kernel), by decide +kernel⟩,
    ⟨_, _, goesTo (by decide +kernel), goesTo (by decide +kernel), by decide +kernel⟩, by decide +kernel, ?_⟩
  · intro s hs
    refine ⟨?_, ?_, ?_, ?_, ?_, ?_, goesTo' ?_ ?_, ?_, ?_⟩ <;> revert s <;> decide +kernel
  · intro tail ht
    refine ⟨0, 0, _, _, goesTo ?_, goesTo ?_, ?_, ?_, ?_, ?_, ?_, writes ?_⟩ <;> revert tail <;> decide +kernel
  · exact ⟨by decide +kernel, written (by decide +kernel)⟩

/-- A strand with PROBE spool 5 and MERGE spool 6 configured, x1 at its scratchpad and PROBE's control word in x3. -/
def armed (st : Strand) : Strand :=
  withSpool 5 (spool (6 * 2 ^ 64)) (withSpool 6 (spool (5 * 2 ^ 64)) (withXs [(1, 0x10000), (2, 0x10040), (3, 2 ^ 32)] st))
def request : ProbeReq :=
  { id := 4, uid := 0, ctx := 0, asid := 0, priv := false, fent := 0, seq := 0, instr := .hins tag0 1 2, kind := 1, table := 0x10000, arg := 0
    area := 0, control := 0, spool := 0, qfmt := 0, qlen := 0, qdata := 0, fams := [], banks := [], started := false, progress := 0
    claim := none, plan := none, found := [], failed := false, union := none }
/-- A state with a queue of requests in core 0's probe engine. -/
def probing (l : List ProbeReq) (s : State) : State := s.setCore 0 { s.core 0 with probes := l }
def ready : State := having armed
def crowded : State := probing (List.replicate 8 request) ready

theorem witness_RetrievalIssue :
    (∀ d ∈ [2 ^ 48, 0], ∃ s1, portsAgree (.hfam tag0 0 0 7) (vecs [(0, d)]) = true ∧
      through (getV 0) (enter (.hfam tag0 0 0 7) (vecs [(0, d)])) = some (d, s1) ∧ familyOk (d % 2 ^ 512) = (d != 0)) ∧
    (∀ s ∈ [ready, crowded, having (withXs [(1, 0x10020)])],
      s.issuing = true ∧ passes tag0 s = true ∧ noneFar s = true ∧ noAcquire s = true ∧ portsAgree (.hacc tag0 1 0 0) s = true ∧
      portsAgree (.hprb tag0 5 1 2 3 0 0 0) s = true) ∧
    ((requests ready).length < 8 ∧ (ready.x 1).toNat % 64 = 0 ∧ ((having (withXs [(1, 0x10020)])).x 1).toNat % 64 ≠ 0 ∧
      8 ≤ (requests crowded).length ∧ requests (having (withXs [(1, 0x10020)])) = []) ∧
    (∃ v s1, through (getV 0) (enter (.hacc tag0 1 0 0) ready) = some (v, s1)) ∧
    (ready.strand.spools.getD (5 : SpoolNo).toNat none = some (spool (6 * 2 ^ 64)) ∧ spKind (spool (6 * 2 ^ 64)).desc = 6 ∧
      isBound ready.strand (5 : SpoolNo).toNat = false ∧ jobDelivered (spool (6 * 2 ^ 64)) = true ∧
      viewOk (tileOf ready 0) (partBytes ready) = true ∧ (ready.x 3).toNat / 2 ^ 48 = 0 ∧
      (ready.x 3).toNat / 2 ^ 5 % 2 ^ 27 = 0 ∧ (ready.x 3).toNat / 2 ^ 32 % 2 ^ 16 ≠ 0 ∧ (ready.x 2).toNat % 64 = 0) ∧
    (∃ fnd s1, through (takeQuery (ready.x 1).toNat 0 0) (enter (.hprb tag0 5 1 2 3 0 0 0) ready) = some (fnd, s1) ∧
      s1.issue.mode = 0) := by
  refine ⟨fun d hd => ⟨_, ?_, goesTo ?_, ?_⟩, by decide +kernel, by decide +kernel, ⟨_, _, goes (by decide +kernel)⟩, by decide +kernel,
    _, _, goes (by decide +kernel), by decide +kernel⟩
  all_goals revert d; decide +kernel

/-- A merge of one fibre of i32; a collective of package 0 of one i32, its mask at address 0. -/
def mergeWord : Nat := 2 * 2 ^ 8 + 1 * 2 ^ 16 + 1 * 2 ^ 64
def castWord : Nat := 1 * 2 ^ 256 + 2 * 2 ^ 304

/-- Core 0 with a merge descriptor, or with a collective's descriptor and mask, and with what the bundle at issue has asked for. -/
def merging (asked : List (Nat × Bool)) (d : Nat) : State :=
  bytes [(windowBase 0, leBytes 64 d)] (having fun st => { armed st with asked := asked })
def casting (asked : List (Nat × Bool)) (mask : Nat) : State :=
  bytes [(windowBase 0, leBytes 64 castWord), (0, leBytes 8 mask)] (having fun st => { armed st with asked := asked })

/-- What a bundle has asked for: nothing, data that have still to come, data that have come. -/
theorem witness_MergeAndCollectiveIssue :
    (∀ d ∈ [mergeWord, 0], ∃ s1, mergeSpoolOk (merging [(0x10000, true)] d).strand 6 = true ∧ s1.issue.mode = 0 ∧
      through (readWaited 0x10000 64) (enter (.merge tag0 1 6) (merging [(0x10000, true)] d)) = some (d, s1) ∧ mergeDescOk d = (d != 0)) ∧
    (let s := (merging [(0x10000, true)] mergeWord).setStrand { (merging [(0x10000, true)] mergeWord).strand with spools := start.strand.spools };
      mergeSpoolOk s.strand 6 = false ∧ unfrozen (.merge tag0 1 6) s = true) ∧
    (let s := bytes [(windowBase 0 + 1, leBytes 64 mergeWord)] (having fun st => { withXs [(1, 0x10001)] (armed st) with asked := [(0, true), (0x10001, true)] });
      (s.x 1).toNat % 64 ≠ 0 ∧ mergeSpoolOk s.strand 6 = true ∧ mergeDescOk mergeWord = true ∧
      (∃ s1, through (readWaited 0x10001 64) (enter (.merge tag0 1 6) s) = some (mergeWord, s1)) ∧ unfrozen (.cred tag0 1) s = true) ∧
    (∀ d ∈ [castWord + 1 * 2 ^ 192, castWord + 1 * 2 ^ 128], ∃ s, s = bytes [(windowBase 0, leBytes 64 d), (0, leBytes 8 1), (1, leBytes 128 1)]
        (having fun st => { armed st with asked := [(0, true), (1, true)] }) ∧ unfrozen (.cred tag0 1) s = true ∧
      (cdCmpl d % 8 ≠ 0 ∨ cdCmpl d % 8 = 0 ∧ cdPart d % 8 ≠ 0)) ∧
    (∀ l ∈ [[], [(0x10000, false)]], (merging l mergeWord).issuing = true ∧ (merging l mergeWord).x 1 = 0x10000 ∧
      askedOf (merging l mergeWord) 0x10000 = l.head? ∧
      ∃ a, through (strandAccess 0x10000 64 .r false) (enter (.merge tag0 1 6) (merging l mergeWord)) =
        some (a, enter (.merge tag0 1 6) (merging l mergeWord)) ∧ a.va = 0x10000) ∧
    (∀ l ∈ [[], [(0, false)], [(0, true)]], ∃ a, through (strandAccess ((casting l 1).x 1).toNat 64 .r false) (enter (.cred tag0 1) (casting l 1)) =
        some (a, enter (.cred tag0 1) (casting l 1)) ∧
      (a.space = .scratch (casting l 1).coreNo ∧ a.poison (casting l 1) = none ∧ castWord = leNat ((casting l 1).readPieces a.pieces))) ∧
    (∀ l ∈ [[], [(0, false)], [(0, true)]], calm (casting l 1) = true ∧ passes tag0 (casting l 1) = true ∧ noneFar (casting l 1) = true ∧
      askedOf (casting l 1) 0 = l.head? ∧
      ∃ a, through (strandAccess (cdPart castWord) 128 .r false) (enter (.cred tag0 1) (casting l 1)) =
        some (a, enter (.cred tag0 1) (casting l 1)) ∧ a.va = 0) ∧
    (cdCmpl castWord % 8 = 0 ∧ cdPart castWord % 8 = 0 ∧ cdPart castWord = 0) ∧
    (∀ m ∈ [0, 1], ∃ s1, through (readWaited 0 128) (enter (.cred tag0 1) (casting [(0, true)] m)) = some (m, s1) ∧ s1.issue.mode = 0 ∧
      collectiveOk s1 castWord m = (m == 1)) ∧
    (let s := merging [(0x10000, true)] mergeWord;
      calm s = true ∧ passes tag0 s = true ∧ askedOf s 0x10000 = some (0x10000, true) ∧
      ∃ b, engineRead (enter (.merge tag0 1 6) s) (agentFor s.focus s.strand) 0x10000 64 = (.ok b, enter (.merge tag0 1 6) s) ∧
        mergeDescOk (leNat b) = true) ∧
    (let s := casting [(0, true)] 1;
      ∃ b, engineRead (enter (.cred tag0 1) s) (agentFor s.focus s.strand) 0 128 = (.ok b, enter (.cred tag0 1) s) ∧
        collectiveOk s castWord (leNat b) = true) := by
  refine ⟨fun d h => ⟨_, ?_, ?_, goesTo ?_, ?_⟩, by decide +kernel,
    ⟨by decide +kernel, by decide +kernel, by decide +kernel, ⟨_, goesTo (by decide +kernel)⟩, by decide +kernel⟩,
    fun d h => ⟨_, rfl, ?_⟩, fun l h => ?_, fun l h => ?_, fun l h => ?_, by decide +kernel,
    fun m h => ⟨_, goesTo ?_, ?_⟩, ?_⟩
  iterate 5 revert d; decide +kernel
  · fin_cases h <;> exact ⟨by decide +kernel, by decide +kernel, by decide +kernel, finds (by decide +kernel)⟩
  · fin_cases h <;> exact finds (by decide +kernel)
  · fin_cases h <;> exact ⟨by decide +kernel, by decide +kernel, by decide +kernel, by decide +kernel, finds (by decide +kernel)⟩
  iterate 2 revert m; decide +kernel
  exact ⟨⟨by decide +kernel, by decide +kernel, by decide +kernel, reads (by decide +kernel)⟩, reads (by decide +kernel)⟩

/-- A strand at supervisor privilege with values in its registers. -/
def supervisor (l : List (Nat × Word)) : State :=
  having fun st => { withXs l st with sys := { st.sys with priv := true } }

theorem witness_TranslationInvalidation :
    ((tlbis (supervisor []) tag0 55 2).map Prod.fst = [Instr.tlbiAll tag0, .tlbiAs tag0 2, .tlbiPage tag0 55 2]) ∧
    calm (supervisor []) = true ∧ (supervisor []).issuing = true ∧ passes tag0 (supervisor []) = true ∧ noneFar (supervisor []) = true ∧
    (supervisor []).priv = true ∧
    (let s := { supervisor [] with walks := [⟨7, 0, [0], [], 0, 0x50000, false⟩] };
      s.issuing = true ∧ passes tag0 s = true ∧ noneFar s = true ∧ s.priv = true ∧ (s.x 2).toNat % 2 ^ 12 = 0) ∧
    start.issuing = true ∧ passes tag0 start = true ∧ start.priv = false := by
  decide +kernel

/-- A launch of four points in one dimension on cluster 0, its kernel at 0; an image of its frontier with nothing fired, with a status,
and with a wrong magic number. -/
def launchWord : Nat := 1 * 2 ^ 128 + 4 * 2 ^ 256 + 1 * 2 ^ 352
def kernelWord : Nat := 0x4B4C5A4E + 1 * 2 ^ 32 + 64 * 2 ^ 64 + 4096 * 2 ^ 128
def frontierWord : Nat := 0x56535A4E + 1 * 2 ^ 32 + 1 * 2 ^ 96
/-- Page tables that map the first GiB onto itself in address space 0, and the kernel image. -/
def tables (s : State) : State :=
  bytes [(0x200000, leBytes 8 0x201001), (0x201000, leBytes 8 0x202001), (0x202000, leBytes 8 0x203001), (0x203000, leBytes 8 0x3F),
    (0, leBytes 64 kernelWord)] { s with host := { s.host with astab := 0x200000 } }
def image (header : Nat) (s : State) : State :=
  bytes [(0x100000, leBytes 64 header), (0x100040, leBytes 128 launchWord)] (tables s)
def slotted (state : SlotState) (saving : Bool) (s : State) : State :=
  s.setSlot 63 { LaunchSlot.init with state := state, saving := saving, record := launchWord }
def asking : State := supervisor [(1, 0x20000), (2, 63)]
def frontierOf (header : Nat) : Frontier := ⟨launchWord, bits header 95 88, bit header 80, [0], []⟩
def headers : List Nat := [frontierWord, frontierWord + 0x22 * 2 ^ 88, 0]

theorem goesOn {op : Op Unit} {s : State} (h : (through op s).isSome = true) : ∃ t, through op s = some ((), t) :=
  ⟨_, goes h⟩

theorem witness_FrontierSaveRestore :
    (asking.issuing = true ∧ passes tag0 asking = true ∧ noneFar asking = true ∧ asking.priv = true ∧ (asking.x 2).toNat = 63 ∧
      (asking.x 1).toNat % 64 = 0 ∧ 63 < ((supervisor [(2, 64)]).x 2).toNat ∧ (asking.slot 63).state = .free ∧ leveeAhead asking 63 asking.strand.ident.uid = [] ∧
      ((slotted .waiting false asking).slot 63).state = .waiting ∧ ((slotted .waiting false asking).slot 63).saving = false ∧
      ((slotted .running true asking).slot 63).state = .running ∧ ((slotted .running true asking).slot 63).saving = true ∧
      leveeAhead (slotted .waiting false asking) 63 asking.strand.ident.uid = [] ∧ leveeAhead (slotted .running true asking) 63 asking.strand.ident.uid = [] ∧
      (let s := { slotted .running true asking with leveeOps := [(63, 5)] };
        let st := { Strand.init with ident := { Ident.init with uid := 5 }, frozen := some .levee };
        leveeAhead (s.setCtx 2 { s.ctx 2 with state := .issuing, strand := some st }) 63 asking.strand.ident.uid ≠ []) ∧
      saveSettled (slotted .running true asking) 63 = true ∧
      saveSettled ((slotted .running true asking).setSlot 63
        { (slotted .running true asking).slot 63 with flying := [⟨0, 0, 0, 0, false, false, false, false⟩] }) 63 = false) ∧
    (∃ s1, through (writeFrontier ((slotted .running true asking).x 1).toNat 63)
      (leaveLine (finishSave (enter (.lvs tag0 1 2) (slotted .running true asking)) 63) asking.strand.ident.uid) = some ((), s1)) ∧
    (∀ h ∈ headers, ∃ s : State, s = image h asking ∧ ∃ head body, (s.slot 63).state = .free ∧ (s.x 1).toNat % 64 = 0 ∧
      through (readFrontier (s.x 1).toNat 192) (enter (.lvr tag0 1 2) s) = some (head, enter (.lvr tag0 1 2) s) ∧
      leNat (head.take 64) = h ∧ leNat (head.drop 64) = launchWord ∧ recordOk s launchWord = true ∧
      through (readFrontier ((s.x 1).toNat + 192) (8 * 1 + 16 * 0)) (enter (.lvr tag0 1 2) s) = some (body, enter (.lvr tag0 1 2) s) ∧
      splitEvery 8 1 body = [0]) ∧
    (headers.take 2 |>.map fun h => (bits h 127 96, bits h 159 128)) = [(columnCount launchWord, 0), (1, 0)] ∧
    (headers.map fun h => (frontierOk h (frontierOf h), (frontierOf h).status)) = [(true, 0), (true, 0x22), (false, 0)] ∧
    (start.issuing = true ∧ passes tag0 start = true ∧ noneFar start = true ∧ start.priv = false) := by
  refine ⟨by decide +kernel, goesOn (by decide +kernel), ?_, by decide +kernel, by decide +kernel, by decide +kernel⟩
  intro h hh
  refine ⟨_, rfl, leBytes 64 h ++ leBytes 128 launchWord, leBytes 8 0, ?_, ?_, goesTo' ?_ ?_, ?_, ?_, ?_, goesTo' ?_ ?_, ?_⟩ <;> revert h <;>
    decide +kernel

/-- The program image of the worked case of R169, and a DOT4 program of i8 into i32; views and latches of one row for them. -/
def worked : Nat := leNat [0x88, 0x10, 0x48, 0x00, 0x20, 0x64]
def dots : Nat := leNat [0x00, 0x10, 0x42, 0x00, 0x40, 0x60]
def withArray (prog f a : Nat) (st : Strand) : Strand :=
  { withXs [(1, 0x10000), (2, 1 * 2 ^ 40 + 1 * 2 ^ 56)] st with
    arr := { st.arr with progs := st.arr.progs.setIfInBounds 0 prog, active := some ⟨f, 1, 1, [], none⟩ }
    sys := { st.sys with
             tviews := (Vector.replicate 16 (BitVec.ofNat 64 (f * 2 ^ 60 + (if f = 0 then 7 else 0) * 2 ^ 50))).setIfInBounds 1 (5 * 2 ^ 60)
             aviews := Vector.replicate 8 (BitVec.ofNat 64 (a * 2 ^ 60)) } }

theorem witness_ArraySettingsAndTransposer :
    (∀ v ∈ [worked, 0, worked + 2 ^ 96], ∃ s1, portsAgree (.cprog tag0 3 0 0) (vecs [(0, v)]) = true ∧ inProgram (vecs [(0, v)]) = true ∧
      through (getV 0) (enter (.cprog tag0 3 0 0) (vecs [(0, v)])) = some (v, s1) ∧ v < 2 ^ 1024) ∧
    ([worked, 0, worked + 2 ^ 96].map fun v => (decide (v < 2 ^ 96), progValid (v % 2 ^ 96))) = [(true, true), (true, false), (false, true)] ∧
    (∃ s1, through (getX 1) (enter (.aflow tag0 1) (having (withXs [(1, 5)]))) = some (5, s1)) ∧
    (∃ s1, through (getX 1) (enter (.aflow tag0 1) (having (withXs [(1, 2)]))) = some (2, s1)) ∧
    ((5 : Word) ∈ [0#64, 1#64, 4#64, 5#64] ∧ (2 : Word) ∉ [0#64, 1#64, 4#64, 5#64]) ∧
    (portsAgree (.txin tag0 0 0 127) start = true ∧
      ∃ v s1, through (if VReg.isSpool 0 then getV 0 else transposerRead (0 : VReg).toNat) (enter (.txin tag0 0 0 127) start) = some (v, s1)) ∧
    (∃ s1, vectorOf (2 ^ (2 : BitVec 2).toNat)
        (fun m => (elemOf 4 (31 : BitVec 7).toNat ((tabGet start.strand.arr.tbuf (3 * (128 / 4) + m)).getD 0), 0)) 0 0 ∧
      through (putV 4 2 0) (enter (.txout tag0 2 31 3 2) start) = some ((), s1)) ∧
    (inXorT (.txclr tag0) = true ∧ inTrap.issuing = true ∧ passes tag0 inTrap = true ∧ portsAgree (.txclr tag0) inTrap = true ∧
      unfrozen (.txclr tag0) inTrap = true ∧ unfrozen (.txclr tag0) inHandler = true ∧
      inProgram inTrap = false ∧ inProgram inHandler = false ∧ inHandler.issuing = true) := by
  unfold vectorOf
  refine ⟨fun v h => ⟨_, ?_, ?_, goesTo ?_, ?_⟩, by decide +kernel, ⟨_, goesTo (by decide +kernel)⟩,
    ⟨_, goesTo (by decide +kernel)⟩, by decide,
    ⟨by decide +kernel, _, _, goes (by decide +kernel)⟩, ⟨_, by decide +kernel, goes (by decide +kernel)⟩, by decide +kernel⟩
  all_goals revert v; decide +kernel

/-- Every kind of array instruction passes its checks, with the queue empty and full; and a view of a row beyond the partition. -/
def fullQueue (st : Strand) : Strand :=
  let o : ArrOp :=
    { seq := 0, sword := 0, kind := .clearArray, set := capturedSettings st, base := 0, size := 0, issued := 0, start := none, done := 0
      rows := 0, cols := 0, lat := none, codes := [], ascale := [], bscale := [], tag0 := 0, aelems := [], belems := [], cast := none
      paused := none, held := [] }
  { st with arr := { st.arr with ops := List.replicate 4 o } }

theorem witness_ArrayIssue :
    ((arrayIssues (having (withArray worked 1 1)) tag0 0 0 0 0 0 0 0 0 1 2 0 0 0 0 0 0).map fun p => p.2.2) =
      [true, true, true, false, true, true, true] ∧
    ((arrayIssues (having (withArray dots 0 2)) tag0 0 0 1 0 0 0 0 0 1 2 0 0 0 0 2 0).map fun p => p.2.2) =
      [true, true, true, true, true, true, true] ∧
    ((arrayIssues (having (withArray dots 0 2)) tag0 0 0 1 0 0 0 0 0 1 2 0 0 0 0 0 0).all fun p =>
      portsAgree p.1 (having (withArray dots 0 2))) = true ∧
    (having (withArray dots 0 2)).issuing = true ∧ passes tag0 (having (withArray dots 0 2)) = true ∧
    inProgram (having (withArray dots 0 2)) = true ∧ ((having (withArray dots 0 2)).strand.arr.ops.filter fun o => o.start.isNone).length < 4 ∧
    4 ≤ ((having fun st => fullQueue (withArray dots 0 2 st)).strand.arr.ops.filter fun o => o.start.isNone).length ∧
    (let s := having fun st => { st with sys := { st.sys with tviews := st.sys.tviews.setIfInBounds 15 (0x7FFF0) } };
      viewOk (tileOf s 15) (partBytes s) = false) := by
  decide +kernel

/-- Spool 3 of the strand, as a load spool with some elements in its buffer, and as a store spool. -/
def popping (buf : List SpoolElem) (ended : Bool) : Spool := { spool (desc 0 6 0 4) with buf := buf, ended := ended }

/-- Core 0 with an entry of sluice 0, bound or not, with its tail pointer. -/
def ring (bound tail : Nat) : State :=
  bytes [(0x300000, leBytes 32 (bound + 4 * 2 ^ 64 + tail * 2 ^ 192))] { start with host := { start.host with sltab := 0x300000 } }

theorem witness_OperandForms :
    (start.issue.mode = 0 ∧ noneFar start = true ∧ start.strand.trapFrame = none) ∧
    (∀ l ∈ [[(7 : Word)], []], ∀ done ∈ [[], [1]], ∃ k, skeinOf (piped l done) (piped l done).strand = some k ∧
      findPipe k false (memberOf (piped l done).strand) 1 = some 0 ∧
      k.pipes[0]? = some (1 * 2 ^ 8 + 1 * 2 ^ 6 + 0 * 2 ^ 3 + 1 * 2 ^ 1, l) ∧
      partnerDone k (pipeWM (1 * 2 ^ 8 + 1 * 2 ^ 6 + 0 * 2 ^ 3 + 1 * 2 ^ 1)) = (done == [1]) ∧
      findPipe k true (memberOf (piped l done).strand) 2 = some 1 ∧
      k.pipes[1]? = some (0 * 2 ^ 8 + 2 * 2 ^ 6 + 1 * 2 ^ 3 + 2 * 2 ^ 1, []) ∧
      partnerDone k (pipeRM (0 * 2 ^ 8 + 2 * 2 ^ 6 + 1 * 2 ^ 3 + 2 * 2 ^ 1)) = (done == [1])) ∧
    (∀ buf ∈ [[⟨5, none, some 0, [], 0⟩], []], ∀ ended ∈ [true, false],
      (having (withSpool 3 (popping buf ended))).strand.spools.getD 3 none = some (popping buf ended) ∧
      spIsStore (popping buf ended).desc = false ∧ isBound (having (withSpool 3 (popping buf ended))).strand 3 = false) ∧
    (let s := having (withSpool 15 (spool (desc 1 6 0 4)));
      s.strand.spools.getD 15 none = some (spool (desc 1 6 0 4)) ∧ spIsStore (desc 1 6 0 4) = true ∧
      (spool (desc 1 6 0 4)).failure = none ∧ (spool (desc 1 6 0 4)).issued < spTotal (desc 1 6 0 4)) ∧
    (∀ sp ∈ [{ spool (desc 1 6 0 4) with issued := 4 }, { spool (desc 2 6 0 1) with failure := some ⟨0x0A, 0, false⟩ }],
      (having (withSpool 15 sp)).strand.spools.getD 15 none = some sp ∧
      (sp.failure ≠ none ∨ spKind sp.desc = 1 ∧ spTotal sp.desc ≤ sp.issued)) ∧
    (∀ p ∈ [(1, 3), (1, 0), (0, 0)], (ring p.1 p.2).issue.mode = 0 ∧ (ring p.1 p.2).strand.trapFrame = none ∧ noneFar (ring p.1 p.2) = true ∧
      sluiceEntryAddr (ring p.1 p.2) (ring p.1 p.2).strand.ident.asid 0 = 0x300000 ∧
      sluiceBound ((ring p.1 p.2).readNat 0x300000 32) = (p.1 == 1) ∧
      bits ((ring p.1 p.2).readNat 0x300000 32) 223 192 = p.2 ∧ bits ((ring p.1 p.2).readNat 0x300000 32) 255 224 = 0) ∧
    (vectorFits start (495 : VReg).toNat = true ∧ start.poisoned (vectorAddr start (495 : VReg).toNat) 128 = none ∧
      vectorFits (start.setCtx 0 { start.ctx 0 with part := 0 }) (0 : VReg).toNat = false) := by
  refine ⟨by decide +kernel, fun l hl d hd => ?_, by decide +kernel, by decide +kernel, by decide +kernel, by decide +kernel, by decide +kernel⟩
  fin_cases hl <;> fin_cases hd <;>
    exact ⟨_, rfl, by decide +kernel⟩

/-- A predicate that does not hold, and its negation that does not; and a PATH that is none of the five leaves taken. -/
theorem witness_SquelchedOperations :
    (∀ t ∈ [(⟨false, 0, 5, 0⟩ : Tag), ⟨false, 0, 0, 1⟩], Instr.tag? (.clz t 1 2) = some t ∧ t.path = 0 ∧ start.p t.gp.toNat = (t.gn == 1) ∧
      start.issuing = true ∧ portsAgree (.clz t 1 2) start = true ∧ calm start = true) ∧
    ∀ k ∈ [1, 2, 3, 4, 5],
      let s := having fun st => { st with ps := if k < 5 then 2 ^ k else 0 };
      let i := Instr.clz ⟨false, if k = 1 then 5 else 1, 0, 0⟩ 1 2;
      let c := Instr.btree ⟨1, 0, 1⟩ ⟨2, 0, 2⟩ ⟨3, 0, 3⟩ ⟨4, 0, 4⟩;
      leafTaken s ⟨1, 0, 1⟩ ⟨2, 0, 2⟩ ⟨3, 0, 3⟩ ⟨4, 0, 4⟩ = k ∧ ((Instr.tag? i).map fun t => (decide (t.path ≠ 0), decide (t.path.toNat ≠ k))) = some (true, true) ∧
      s.issuing = true ∧ portConflict (beginIssue s) [c, i] = false ∧
      ([(⟨1, 0, 1⟩ : LeafTest), ⟨2, 0, 2⟩, ⟨3, 0, 3⟩, ⟨4, 0, 4⟩][k - 1]?).isSome = decide (k < 5) := by
  decide +kernel

/-- A strand whose last bundle still occupies it, with nothing in flight, and with a result due at the next bundle-time. -/
def occupied (l : List Flight) : State := having fun st => { st with pos := { st.pos with line := ⟨4, 2, l⟩ } }

theorem witness_BundleTime :
    (calm start = true ∧ 1 ≤ (1 : BitVec 3).toNat) ∧
    (∀ l ∈ [[], [⟨6, 0, 0, .flags 1⟩], [⟨5, 3, 1, .x .main 55 9⟩], [⟨5, 3, 1, .p .main 95 true⟩], [⟨5, 3, 1, .b 7 64⟩],
        [⟨5, 3, 1, .sys 0x031 7⟩], [⟨5, 3, 1, .bytes (windowBase 0) [1, 2]⟩], [⟨5, 3, 1, .flags 16⟩],
        [⟨5, 3, 1, .flags 16⟩, ⟨5, 4, 0, .sys 0x005 1⟩], [⟨5, 3, 1, .sys 0x005 1⟩, ⟨5, 4, 0, .flags 16⟩]],
      (occupied l).strandAt 0 = some (occupied l).strand ∧
      ((occupied l).ctx 0).state = .issuing ∧ (occupied l).strand.dead = false ∧ (occupied l).strand.halted = false ∧
      (occupied l).strand.frozen ≠ some .held ∧ (occupied l).strand.frozen ≠ some .blocked ∧ 0 < (occupied l).strand.pos.line.busy ∧
      quietLine (occupied l).strand = true ∧ (occupied l).strand.pos.line.flights = l ∧
      (occupied l).strand.bank = .main ∧ (occupied l).focus = 0 ∧ (occupied l).strand.faults = []) ∧
    (∀ f ∈ (occupied [⟨6, 0, 0, .flags 1⟩]).strand.pos.line.flights, (occupied []).strand.pos.line.bt + 1 < f.due) ∧
    (sysRegMapped 0x031 = true ∧ neverWritten 0x031 = false ∧ Memory.wf start.mem = true ∧ isBlock (start.space (windowBase 0)) = false) := by
  decide +kernel

/-- A far access of core 0's strand, under number 1, to 4 bytes at a physical address. -/
def outside (kind : FarKind) (path pa : Nat) : FarOp := ⟨1, path, 0x30000, [(pa, 4)], kind, false, 0⟩
def sending (f : FarOp) : State := having fun st => { st with far := [f] }
def landing : Dest := .x .main 55 6
/-- Package 0 in the fabric with package 1, sluices 0 and 1 of address space 0 bound with package 0, every window open. -/
def grouped (s : State) : State :=
  bytes [(0x300000, leBytes 32 (1 + 1 * 2 ^ 38 + 4 * 2 ^ 64)), (0x300020, leBytes 32 (1 + 4 * 2 ^ 64))]
    { s with host := { s.host with en := true, fabid := 2 ^ 15, sltab := 0x300000, fgrp := s.host.fgrp.setIfInBounds 0 3
                                   inwin := s.host.inwin.setIfInBounds 15 (0, 0x10000 * 0x10 + 3) } }
/-- Memory of package 1, by its fabric address. -/
def abroad : Nat := 2 ^ 54 + 2 ^ 44

theorem witness_FarAccessesPerform :
    (∀ kind ∈ [FarKind.load landing, .amo landing 8 4 1, .store [1, 2, 3, 4]], (sending (outside kind 0 (windowBase 1))).strandAt 0 =
        some (sending (outside kind 0 (windowBase 1))).strand ∧
      farAt (sending (outside kind 0 (windowBase 1))).strand 1 = some (outside kind 0 (windowBase 1)) ∧
      mayPerform (sending (outside kind 0 (windowBase 1))).strand (outside kind 0 (windowBase 1)) = true ∧
      foreignTo (sending (outside kind 0 (windowBase 1))) (sending (outside kind 0 (windowBase 1))).strand (outside kind 0 (windowBase 1)) = none ∧
      (outside kind 0 (windowBase 1)).pieces.map (homePiece (sending (outside kind 0 (windowBase 1)))) = [(windowBase 1, 4)] ∧
      refusedHere (sending (outside kind 0 (windowBase 1))) (outside kind 0 (windowBase 1)) = false ∧
      (⟨0x30000, [(windowBase 1, 4)], .hbm⟩ : Access).poison (sending (outside kind 0 (windowBase 1))) = none ∧
      (∀ p ∈ [(windowBase 1, 4)], (sending (outside kind 0 (windowBase 1))).partialPoison p.1 p.2 = none) ∧
      leNat ((sending (outside kind 0 (windowBase 1))).readPieces [(windowBase 1, 4)]) < 2 ^ (8 * 4) ∧ 1 < 2 ^ (8 * 4)) ∧
    (let s := { sending (outside (.load landing) 0 (windowBase 1)) with poison := [windowBase 1] };
      landing ≠ .none ∧ (⟨0x30000, [(windowBase 1, 4)], .hbm⟩ : Access).poison s = some (windowBase 1) ∧
      s.partialPoison (windowBase 1) 4 ≠ none ∧ refusedHere s (outside (.load landing) 0 (windowBase 1)) = false ∧
      foreignTo s s.strand (outside (.load landing) 0 (windowBase 1)) = none) ∧
    (let f := outside (.sluice 4 7) 5 0;
      let s := grouped (sending f);
      let e := s.readNat (sluiceEntryAddr s s.strand.ident.asid 0) 32;
      farAt s.strand 1 = some f ∧ mayPerform s.strand f = true ∧ foreignTo s s.strand f = none ∧ s.inFabric = true ∧
      sluiceBound (s.readNat (sluiceEntryAddr s (bits e 37 26) (bits e 39 38)) 32) = true ∧
      sluiceRoom s (bits e 37 26) (bits e 39 38) = true) ∧
    (∀ kind ∈ [FarKind.load landing, .store [1, 2, 3, 4]], (foreignTo (grouped (sending (outside kind 5 abroad)))
        (grouped (sending (outside kind 5 abroad))).strand (outside kind 5 abroad)).isSome = true ∧
      mayPerform (grouped (sending (outside kind 5 abroad))).strand (outside kind 5 abroad) = true ∧
      canSend (grouped (sending (outside kind 5 abroad))) (grouped (sending (outside kind 5 abroad))).strand (outside kind 5 abroad) = true) ∧
    (∀ kind ∈ [FarKind.load landing, .store [1, 2, 3, 4]],
      (foreignTo (sending (outside kind 5 abroad)) (sending (outside kind 5 abroad)).strand (outside kind 5 abroad)).isSome = true ∧
      mayPerform (sending (outside kind 5 abroad)).strand (outside kind 5 abroad) = true ∧
      canSend (sending (outside kind 5 abroad)) (sending (outside kind 5 abroad)).strand (outside kind 5 abroad) = false) ∧
    ((outside (.load landing) 5 abroad).reads = true ∧ (outside (.store []) 5 abroad).reads = false) := by
  decide +kernel

/-- An address of host memory. -/
def hostBytes : Nat := 2 ^ 48

/-- The last line of a window, over no strand and over one with a result due and one to come; the first bytes of HBM and a hole; the host's
memory; and a window of 16 times 64 KiB for packages of the group, with an aligned word of 16 bytes in it. -/
theorem witness_OutsideAccesses :
    (windowOk 511 0x47FFC0 64 = true ∧ State.reset.partialPoison (windowBase 511 + 0x47FFC0) 64 = none ∧
      (State.reset.ctx 1022).state ≠ .issuing ∧ (State.reset.ctx 1023).state ≠ .issuing ∧
      State.reset.poisoned (windowBase 511 + 0x47FFC0) 64 = none) ∧
    (let s1 := landDue (landDue (occupied [⟨4, 3, 1, .x .main 55 9⟩, ⟨5, 3, 2, .flags 1⟩]) 0) 1;
      windowOk 0 0 8 = true ∧ s1.partialPoison (windowBase 0) 8 = none ∧ s1.x 55 = 9 ∧ s1.flights = [⟨5, 3, 2, .flags 1⟩]) ∧
    (inHostMemory start hostBytes 64 = true ∧ start.poisoned hostBytes 64 = none ∧ start.partialPoison hostBytes 64 = none ∧ 16383 < 16384 ∧
      inHostMemory start (2 ^ 44 - 1) 2 = false) ∧
    (admitted (grouped start) 1 0xFFFC0 16 true = true ∧ isBlock ((grouped start).space 0xFFFC0) = false ∧
      (outerSpace (grouped start) 0xFFFC0 16).isSome = true ∧ (grouped start).poisoned 0xFFFC0 16 = none ∧ 0xFFFC0 % 16 = 0 ∧
      ∀ n ∈ [4, 8], admitted (grouped start) 1 0xFFFC0 n true = true ∧ (outerSpace (grouped start) 0xFFFC0 n).isSome = true ∧
        (grouped start).poisoned 0xFFFC0 n = none ∧ 8 ≤ 8 ∧ 5 < 2 ^ (8 * n)) ∧
    (start.host.evacState = 0 ∧ (outerSpace start 0x100 64).isSome = true ∧ start.poisoned 0x100 64 = none ∧
      start.partialPoison 0x100 64 = none ∧ outerSpace start (2 ^ 44 - 1) 2 = none) ∧
    (admitted (grouped start) 1 0xFFFC0 64 false = true ∧ admitted (grouped start) 1 0xFFFC0 64 true = true ∧
      (outerSpace (grouped start) 0xFFFC0 64).isSome = true ∧ (grouped start).poisoned 0xFFFC0 64 = none ∧
      (grouped start).partialPoison 0xFFFC0 64 = none) ∧
    (start.inFabric = false ∧ (grouped start).inFabric = true ∧ inGroup (grouped start) 2 = false ∧ (grouped start).host.evacState = 0) := by
  decide +kernel

def walking (noFill : Bool) (s : State) : State := { s with walks := [⟨7, 0, [0], [], 0, 0x50000, noFill⟩] }

theorem witness_ErrorsAndWalks :
    (start.space (windowBase 511) = .scratch 511 ∧ start.space 0x100000 = .hbm) ∧
    (∀ b ∈ [true, false], (walking b start).walks.find? (fun x => x.id == 7) = some ⟨7, 0, [0], [], 0, 0x50000, b⟩ ∧
      (walking b start).strandAt 0 = some start.strand ∧ start.strand.ident.asid = 0 ∧
      walkTables (walking b (tables start)) 0 0x50000 = some ⟨30, 0, 15⟩ ∧ walkTables (walking b start) 0 0x50000 = none) := by
  decide +kernel

/-- Before an idle bundle that is a quiescent point, with another strand READY in the context beside it. -/
def quiet (f : Strand → Strand) : State := (having f).withFetchWord 72 0x300
def beside (prio : Nat) (f : Strand → Strand) : State :=
  let s := quiet f
  s.setCtx 1 { s.ctx 1 with state := .ready, strand := some { Strand.init with ident := { Ident.init with uid := 5, prio := prio } } }
def armedBudget (st : Strand) : Strand := { st with sys := { st.sys with budget := 2 ^ 48 } }

theorem witness_InterruptsAndWatchdog :
    (let s := quiet fun st => { st with sys := { st.sys with uie := true, umask := 2 ^ 32 + 1 } };
      s.strandAt 0 = some s.strand ∧ interruptDue s 0 = true ∧ standingAt s 0 = some ⟨64, .idle 1 true⟩) ∧
    (let s := having armedBudget;
      s.strandAt 0 = some s.strand ∧ alone s.strand = true ∧ budgetOut s.strand = true ∧ s.strand.dead = false ∧ s.strand.resumed = false ∧
      s.strand.leaving ≠ some 1 ∧ s.strand.leaving ≠ some 5) ∧
    (giveWay (beside 1 id) 0 (beside 1 id).strand = some 2 ∧ alone (beside 1 id).strand = true) ∧
    (let f := fun st : Strand => { st with ran := 1048576 };
      giveWay (beside 0 f) 0 (beside 0 f).strand = some 3) ∧
    (let s := having fun st => { armedBudget st with overrun := 65536 };
      budgetOut s.strand = true ∧ s.strand.dead = false ∧ 65536 ≤ s.strand.overrun) := by
  decide +kernel

/-- A strand asked to leave, with a block in its die's pool; saved away; and being saved. -/
def leavingNow : State :=
  let s := quiet fun st => { st with leaving := some 1 }
  { s with host := { s.host with pools := s.host.pools.setIfInBounds 0 ⟨0, [0x400000, 0x500000], 0, 2⟩ } }
/-- Core 0's strand at the end of its drain span, with something under way, and with its save in hand; and a strand saved away,
with the header of its image (R279), for a partition of 64 pages. -/
def draining (f : Strand → Strand) : State := having fun st => f { st with leaving := some 3, block := 0x400000, draining := true }
def saving : State := (draining id).setCtx 0 { (draining id).ctx 0 with state := .saving }
def away : Saved := { ctx := 1, block := 0x400000, strand := start.strand, copies := [], phys := false, stamp := 0 }
def savedAway : State := bytes [(0x400000, leBytes 64 (0x43585A4E + 1 * 2 ^ 32 + 64 * 2 ^ 55))] { State.reset with saved := [away] }

theorem witness_Switches :
    (leavingNow.strandAt 0 = some leavingNow.strand ∧ alone leavingNow.strand = true ∧ (leavingNow.ctx 0).state = .issuing ∧
      readyToLeave leavingNow 0 = true ∧ leavingNow.strand.leaving ≠ some 5 ∧ ((takeBlock leavingNow (dieOf 0)).map Prod.fst) = some 0x400000) ∧
    (let s := quiet fun st => { st with leaving := some 1 };
      s.strandAt 0 = some s.strand ∧ alone s.strand = true ∧ readyToLeave s 0 = true ∧ takeBlock s (dieOf 0) = none) ∧
    ((draining id).strandAt 0 = some (draining id).strand ∧ (draining id).strand.draining = true ∧ ((draining id).ctx 0).state = .issuing ∧
      drained (draining id) (draining id).strand = true ∧ drained (draining withStore) (draining withStore).strand = false) ∧
    (saving.strandAt 0 = some saving.strand ∧ (saving.ctx 0).state = .saving ∧ drained saving saving.strand = true ∧
      saving.strand.leaving ≠ some 5) ∧
    (savedAway.saved.find? (fun y => y.block == 0x400000) = some away ∧ 0 = 2 * keyCore away.ctx + 0 ∧ takesWork savedAway = true ∧
      away.strand.ident.skein = none ∧ mayResume savedAway 0 away = true ∧ canResume savedAway away 0 = true) ∧
    ((State.reset.setCtx 1 { State.reset.ctx 1 with state := .loading }).ctx (2 * 0 + 1)).state = .loading ∧
    (let s := (beside 1 id).setCtx 0 (Context.init 0);
      nextContext s 0 = some 1 ∧ coreFree s 0 = true ∧ s.strandAt 1 = some ((s.strandAt 1).getD Strand.init)) := by
  decide +kernel

/-- The levee with queue 0 at a record in memory; the launch as a skein of two members; a point retired. -/
def levee (record : Nat) : State :=
  let s := tables { State.reset with host := { State.reset.host with en := true, qtab := 0x300000 }, queues := [(0, ⟨1, [], 0⟩)] }
  bytes [(0x300000, leBytes 32 queueWord), (0x20000, leBytes 128 record)] s
def firing : State := slotted .running false (levee launchWord)
def skeinLaunch : Nat := launchWord + 0x400
def firingSkein : State :=
  let s := bytes [(0x400, leBytes 64 (0x4B535A4E + 1 * 2 ^ 32 + 2 * 2 ^ 48))] (levee launchWord)
  s.setSlot 63 { LaunchSlot.init with state := .running, record := skeinLaunch }
def done1 : InFlight := ⟨1, 0, 0, 0, true, true, false, false⟩
def task : Packet := { packet 0 with id := 3 }
def tasked (arrived : Bool) : State :=
  let s := { levee launchWord with packets := [{ task with arrived := arrived }] }
  if arrived then s.setCore 0 { s.core 0 with inbox := [3] } else s

theorem witness_LeveeEvents :
    (((levee launchWord).queue 0).tail = 1 ∧ pendingOf (queueDesc (levee launchWord) 0) 2 ≤ 2 ^ qdLog2n (queueDesc (levee launchWord) 0) ∧
      pendingOf (queueDesc (levee launchWord) 0) 1 ≤ pendingOf (queueDesc (levee launchWord) 0) 2 ∧
      2 ^ qdLog2n (queueDesc (levee launchWord) 0) < pendingOf (queueDesc (levee launchWord) 0) 3) ∧
    (∀ r ∈ [launchWord, 0], (levee r).host.en = true ∧ takesWork (levee r) = true ∧ qdEn (queueDesc (levee r) 0) = true ∧
      queueDescOk (queueDesc (levee r) 0) = true ∧ pendingOf (queueDesc (levee r) 0) ((levee r).queue 0).tail ≠ 0 ∧
      headRecord (levee r) (queueDesc (levee r) 0) = .ok r ∧ nextQueue (levee r) = some ⟨0, 0, 0, false⟩ ∧
      (recordOk (levee r) r && lrAsid r == qdAsid (queueDesc (levee r) 0) && lrPrio r ≤ qdPriomax (queueDesc (levee r) 0)) = (r == launchWord) ∧
      (writeCompletion (levee r) (qdAsid (queueDesc (levee r) 0)) r 0x22).1 = none) ∧
    (pointTotal launchWord ≠ 0 ∧ freeSlot (levee launchWord) = some 0) ∧
    (nextShot firing = some ⟨63, 0, 0, 0, [0]⟩ ∧ launchIsSkein firing (firing.slot 63).record = false ∧
      kernelImages firing (firing.slot 63).record = some [0]) ∧
    ((nextShot firingSkein).isSome = true ∧ launchIsSkein firingSkein (firingSkein.slot 63).record = true) ∧
    (let s := firing.setSlot 63 { firing.slot 63 with flying := [done1] };
      (s.slot 63).flyingAt 1 0 0 = some done1 ∧ done1.retired = true ∧ done1.returning = false ∧
      regionOpen s 63 (s.slot 63).launch 1 0 0 = false) ∧
    ((tasked false).packets.find? (fun x => x.id == 3) = some task ∧ task.arrived = false ∧ task.parkedOn = none ∧ task.ident.uid = 0 ∧
      ((tasked false).core task.core).inbox.length < 256) ∧
    (((tasked true).core 0).inbox = 3 :: [] ∧ (tasked true).packets.find? (fun x => x.id == 3) = some { task with arrived := true } ∧
      taskFits (tasked true) { task with arrived := true } 0 = true ∧
      goesFirst (heldClaims (tasked true) ++ pointClaims (tasked true)) 0 task.ident.prio task.id = false) := by
  decide +kernel

/-- The work of an engine that comes to an answer, which meets a test; and one that stops at a fault. -/
theorem ends {α : Type} {e : Eng α} {s : State} {Q : α → Prop} [∀ a, Decidable (Q a)]
    (h : (match (e.on s).1 with | .ok a => decide (Q a) | .error _ => false) = true) : ∃ a t, e.on s = (.ok a, t) ∧ Q a := by
  rcases hh : e.on s with ⟨r, t⟩
  cases r with
  | error r => simp [hh] at h
  | ok a => exact ⟨a, t, rfl, by simpa [hh] using h⟩

theorem halts {α : Type} {e : Eng α} {s : State} (h : (match (e.on s).1 with | .ok _ => false | .error _ => true) = true) :
    ∃ r t, e.on s = (.error r, t) := by
  rcases hh : e.on s with ⟨r, t⟩
  cases r with
  | error r => exact ⟨r, t, rfl⟩
  | ok a => simp [hh] at h

theorem breaks {ε α : Type} {p : Except ε α} (h : (match p with | .ok _ => false | .error _ => true) = true) : ∃ e, p = .error e := by
  cases p with
  | error e => exact ⟨e, rfl⟩
  | ok a => simp at h

theorem gets {p : Got Unit} (h : (match p with | .got _ _ => true | _ => false) = true) : ∃ s, p = .got () s := by
  cases p <;> simp_all

/-- The page tables without a kernel. -/
def mapped (s : State) : State := bytes [(0, List.replicate 64 0)] (tables s)

/-- Core 0's load spool 3, its store spool 4 and a copy of its strand, under tag 15. -/
def streaming (moved : Nat) : State :=
  having (withSpool 3 { spool (desc 0 6 0x10000 4) with moved := moved })
def oneElement : Spool := { spool (desc 1 6 0x1FF80 4) with buf := [⟨5, none, some 0x1FF80, [], 0⟩], issued := 1, count := 1 }
def storing : State := having (withSpool 4 oneElement)

/-- A copy before its first point; records of two points so many bytes apart; and the place of a point before the first one of a record. -/
def pointing (src dst : Nat) : Copy := { copying src 0 with dst := dst }
def twoPoints (k : Nat) : Nat := plain + 2 ^ 512 + 2 ^ 160 + k * 2 ^ 256
def outOfSource : Nat := 0xFFFFFF * 2 ^ 416

theorem witness_StreamAndCopyEngines :
    (∀ n ∈ [0, 4], (streaming n).strandAt 0 = some (streaming n).strand ∧
      (streaming n).strand.spools.getD (3 : SpoolNo).toNat none = some { spool (desc 0 6 0x10000 4) with moved := n } ∧
      canFetch (streaming n) 0 (streaming n).strand (3 : SpoolNo).toNat = true ∧ spKind (desc 0 6 0x10000 4) = 0 ∧
      (spTotal (desc 0 6 0x10000 4) ≤ n ↔ n = 4)) ∧
    (match spoolRead (streaming 0) 0 { spool (desc 0 6 0x10000 4) with moved := 0 } (spAddr (desc 0 6 0x10000 4) 0) 128 with
      | (.ok _, s1) => decide (s1.strandAt 0 = some (streaming 0).strand)
      | _ => false) = true ∧
    (storing.strand.spools.getD (4 : SpoolNo).toNat none = some oneElement ∧ spKind oneElement.desc = 1 ∧
      writeWaits storing 0 storing.strand oneElement = false ∧
      badData storing (spoolAgent 0 storing.strand oneElement) oneElement.banks (spAddr oneElement.desc 0) 128 .w = false ∧
      (engineWrite storing (spoolAgent 0 storing.strand oneElement) (spAddr oneElement.desc 0) (leBytes 128 (elemOf 128 0 5))).1 = none) ∧
    ((copying plain 0).engine.isSome = true ∧ (copying plain 0).next < tlPoints (copying plain 0).src ∧
      (copyPoint { mapped start with copies := [copying plain 0] } (copying plain 0)).1 = none ∧
      (copyPoint { start with copies := [copying (plain + 0x50000) 0] } (copying (plain + 0x50000) 0)).1.isSome = true ∧
      (copyPoint { start with copies := [copying (plain + 0x50000) 0] } (copying (plain + 0x50000) 0)).2.strandAt 0 = some start.strand ∧
      start.strand.ident.uid = (copying plain 0).uid ∧ (copying plain 0).tag < 16 ∧ tlPoints (copying plain 1).src ≤ (copying plain 1).next) ∧
    (∀ k ∈ [1, 64],
      let c := pointing (twoPoints k) (twoPoints k + 0x10000);
      let s := { mapped start with copies := [c] };
      let u := { (copyPoint s c).2 with copies := [{ c with next := 1 }] };
      (copyPoint s c).1 = none ∧ c.next < tlPoints c.src ∧
        ((copyLines s c 0).bind fun p => (copyLines u { c with next := 1 } 1).map fun q => decide (q.1 = p.2)) = some (decide (k = 1))) ∧
    ((tlElem ((plain + 0x10000) + outOfSource) (tlPoint plain 0)).1 = false ∧ (tlElem (plain + outOfSource) (tlPoint plain 0)).1 = false ∧
      tlFillm (plain + outOfSource + 2 ^ 69) ≠ 0 ∧ (tlElem (plain + outOfSource + 2 ^ 69) (tlPoint plain 0)).1 = false ∧
      tlFillm (plain + outOfSource) = 0) ∧
    (∀ src ∈ [plain, plain + outOfSource],
      let c := pointing src (plain + 0x10000);
      let s := { mapped start with copies := [c], tlb := [⟨1024, 0, 0, 16, 0, 15⟩, ⟨1024, 0, 1, 16, 0x10000, 15⟩] };
      (tlElem c.dst (tlPoint c.src 0) = (true, 0x10000) ∧ overrun s c 0x10000 (fmtBytes 0) .w = false ∧
        (engineWrite s c.agent 0x10000 (leBytes (fmtBytes 0) 0)).1 = none ∧ (tlElem c.src (tlPoint c.src 0)).1 = (src == plain) ∧
        overrun s c 0 (fmtBytes 0) .r = false) ∧
      (∃ a, locate s c c.dst 0x10000 .w = (.ok a, s) ∧ a = .fmt 0) ∧ (∃ a, locate s c c.src 0 .r = (.ok a, s) ∧ a = .fmt 0) ∧
      ∃ b, engineRead s c.agent 0 (fmtBytes 0) = (.ok b, s) ∧ b = [0]) := by
  refine ⟨by decide +kernel, by decide +kernel, by decide +kernel, by decide +kernel, by decide +kernel, by decide +kernel, fun src h => ?_⟩
  fin_cases h <;> exact ⟨by decide +kernel, reads (by decide +kernel), reads (by decide +kernel), reads (by decide +kernel)⟩

/-- A retrieval table at 0x20000 with identifier 5 in the bucket of a zero query; its two families; and an accumulator in the next page. -/
def family (id : Nat) : Nat := 8 * 2 ^ 4 + id * 2 ^ 48
def tableWord (ofid : Nat) : Nat :=
  0x20100 + 0x20400 * 2 ^ 64 + 0x20800 * 2 ^ 128 + 1 * 2 ^ 192 + ofid * 2 ^ 208 + 1 * 2 ^ 232 + 2 * 2 ^ 256
def req (kind : Nat) : ProbeReq :=
  { request with kind := kind, table := 0x20000, arg := 1, area := 0x21000, control := 2 ^ 32, qfmt := 8, qlen := 1, fams := [family 1, family 2] }
def seeking (ofid : Nat) (q : ProbeReq) : State :=
  bytes [(0x100000, leBytes 64 (tableWord ofid)), (0x100100, leBytes 20 (1 + 1 * 2 ^ 32 + 5 * 2 ^ 128))] (probing [q] start)
/-- The probe at its start, begun, and with its one fibre read. -/
def begun : ProbeReq :=
  match (probeBegin (req 0).agent (req 0)).on (seeking 0 (req 0)) with
  | (.ok q, _) => q
  | (.error _, _) => req 0
def begunPlan : Plan := begun.plan.getD ⟨0, [], [], 0⟩
def readThrough : ProbeReq := { begun with found := [[5]] }
/-- An insertion begun. -/
def inserting : ProbeReq :=
  match (updateBegin (req 1).agent (req 1)).on (seeking 2 (req 1)) with
  | (.ok q, _) => q
  | (.error _, _) => req 1
/-- An accumulation into a page that nothing maps. -/
def lost : ProbeReq := { req 4 with table := 0x50000, started := true }
def merged (running : Bool) : MergeJob := ⟨4, 0, 0, 0, 6, mergeWord, 0, false, 0, 0, running⟩
def mergingNow (running : Bool) : State :=
  { mapped (having fun st => withSpool 6 { spool (5 * 2 ^ 64) with job := some 4 } (armed st)) with merges := [merged running] }
def collecting (mask : Nat) (running : Bool) : Collective := ⟨6, 0, 0, castWord, mask, 0, false, 0, running, 0⟩
def collected (mask : Nat) (running : Bool) : State := { casting [] mask with collectives := [collecting mask running] }

theorem witness_RequestEngines :
    ((∀ b ∈ [true, false], (mergingNow b).merges.find? (fun m => m.id == 4) = some (merged b)) ∧
      mergesRunning (mergingNow false) 0 < 8 ∧ (∀ n ∈ mergesWaiting (mergingNow false) 0, 4 ≤ n) ∧
      mergeWaits (mergingNow false) (merged false) = false) ∧
    (∀ s ∈ [mergingNow true, { mergingNow true with host := start.host }],
      let m := mergeAll (merged true) s;
      (m.2.1 = none ↔ s.host.astab ≠ 0) ∧ m.2.2.strandAt 0 = some m.2.2.strand ∧ m.2.2.strand.ident.uid = (merged true).uid ∧
      m.2.2.strand.spools.getD 6 none = some { spool (5 * 2 ^ 64) with job := some 4 }) ∧
    (∀ q ∈ [req 0, begun, req 1, req 3, inserting, lost], ((seeking 2 q).core 0).probes = q :: [] ∧ (∀ f ∈ [q], f.failed = false) ∧
      probeHead (seeking 2 q) 0 = some q ∧ (seeking 2 q).strandAt 0 = some start.strand ∧ start.strand.ident.uid = q.uid) ∧
    ((req 0).kind = 0 ∧ (req 0).started = false ∧
      (∃ q' s', (probeBegin (req 0).agent (req 0)).on (seeking 0 (req 0)) = (.ok q', s') ∧ q' = begun) ∧
      ∃ r s', (probeBegin (req 0).agent (req 0)).on start = (.error r, s')) ∧
    (begun.started = true ∧ begun.plan = some begunPlan ∧ begun.found.length < begunPlan.sigs.length + begunPlan.oldSigs.length ∧
      (∃ l s', (nextFibre begun.agent begun begunPlan).on (seeking 0 begun) = (.ok l, s') ∧ l = [5]) ∧
      begunPlan.sigs.length + begunPlan.oldSigs.length ≤ readThrough.found.length ∧ readThrough.plan = some begunPlan) ∧
    (∀ o ∈ [none, some 4, some 0],
      let q := { readThrough with union := o };
      let s := seeking 0 q;
      probeHead s 0 = some q ∧ mergesRunning s (clusterOf 0) < 8 ∧ (∀ n, o = some n → n ≠ 0 → ∀ k ∈ mergesWaiting s (clusterOf 0), n ≤ k)) ∧
    (let q := { readThrough with union := some 0 };
      let w1 := engineWrite (seeking 0 q) q.agent (q.area + 64) (([5] ++ List.replicate 31 0xFFFFFFFF).flatMap (leBytes 4));
      probeIds q begunPlan = [5] ∧ [5].take (bits q.control 47 32) = [5] ∧ w1.1 = none ∧
      (engineWrite (w1.2.modByUid q.uid (publish q.id 1 1 none)) q.agent q.area
        (leBytes 64 (2 ^ 104 + min 1 0xFFFFFFFF * 2 ^ 64 + 1))).1 = none) ∧
    ((req 3).kind = 3 ∧ (req 3).claim = none ∧
      (∃ q' s', (updateBegin (req 3).agent (req 3)).on (seeking 2 (req 3)) = (.ok q', s') ∧ q'.started = true) ∧
      (∃ r s', (updateBegin (req 3).agent (req 3)).on (seeking 0 (req 3)) = (.error r, s')) ∧
      inserting.started = true ∧ (∃ o s', (updateStep inserting.agent inserting).on (seeking 2 inserting) = (.ok o, s') ∧ o.isNone = true) ∧
      ∃ r s', (updateStep lost.agent lost).on (seeking 2 lost) = (.error r, s')) ∧
    (∀ b ∈ [true, false], (collected 1 b).collectives.find? (fun x => x.id == 6) = some (collecting 1 b)) ∧
    ((collecting 1 false).running = false ∧ ((collected 1 false).collectives.filter fun x => x.running).length < 8 ∧
      ((collected 1 false).collectives.find? fun x => !x.running) = some (collecting 1 false)) ∧
    ((bitSet 1024 (collecting 1 true).mask).length = 1 ∧ (∃ u s1, (collectiveData (collecting 1 true) 0 []).on (collected 1 true) = (.ok u, s1) ∧ u = ()) ∧
      (engineWrite ((collectiveData (collecting 1 true) 0 []).on (collected 1 true)).2 (collecting 1 true).agent (cdCmpl castWord)
        (leBytes 8 (1 + 2 ^ 32 * cdCid castWord))).1 = none ∧
      (engineWrite (collected 1 true) (collecting 1 true).agent (cdCmpl castWord) (leBytes 8 (1 + 2 ^ 8 * 0x1C + 2 ^ 32 * cdCid castWord))).1
        = none) ∧
    ((collected 3 true).inFabric = false ∧ (bitSet 1024 (collecting 3 true).mask).length = 2 ∧
      (∀ o ∈ [leBytes 4 7], o.length = cdCount castWord * fmtBytes (cdFmt castWord)) ∧
      (engineWrite (collected 3 true) (collecting 3 true).agent (cdCmpl castWord) (leBytes 8 (1 + 2 ^ 8 * 0x1C + 2 ^ 32 * cdCid castWord))).1
        = none) := by
  refine ⟨by decide +kernel, by decide +kernel, by decide +kernel, ⟨by decide, by decide, ends (by decide +kernel), halts (by decide +kernel)⟩,
    ⟨by decide +kernel, by decide +kernel, by decide +kernel, ends (by decide +kernel), by decide +kernel, by decide +kernel⟩, by decide +kernel,
    by decide +kernel, ⟨by decide, by decide, ends (by decide +kernel), halts (by decide +kernel), by decide +kernel,
      ends (by decide +kernel), halts (by decide +kernel)⟩, by decide +kernel, by decide +kernel, ⟨by decide +kernel, ends (by decide +kernel),
      by decide +kernel, by decide +kernel⟩, by decide +kernel⟩

/-- The array with one instruction: a clearing that waits, a run without a stationary, a local load under way, a clearing that is over. -/
def arrayOp (kind : ArrKind) (start : Option Nat) (done : Nat) (st : Strand) : ArrOp :=
  { seq := 3, sword := 0, kind := kind, set := capturedSettings st, base := regSpaceBase 0, size := 0x40000, issued := 0, start := start
    done := done, rows := 1, cols := 1, lat := none, codes := [], ascale := [], bscale := [], tag0 := 0, aelems := [], belems := []
    cast := none, paused := none, held := [] }
def queueing1 (kind : ArrKind) (start : Option Nat) (done : Nat) : State :=
  having fun st => { withArray worked 1 1 st with
    pos := { st.pos with line := ⟨9, 1, []⟩ }
    arr := { (withArray worked 1 1 st).arr with active := none, ops := [arrayOp kind start done (withArray worked 1 1 st)] } }
def clearing : State := queueing1 .clearArray none 0
def starting : State := queueing1 (.run (1 * 2 ^ 60) none (1 * 2 ^ 60) none 0 1 none) none 0
def loading : State := queueing1 (.loadLocal (1 * 2 ^ 60)) (some 1) 0
def cleared : State := queueing1 .clearArray (some 1) 1
def multicast (taken : Nat) : Cast := ⟨2, 0, 1 * 2 ^ 56 + 1 * 2 ^ 40, 0x100000, 2, [0], [], [(0, taken)]⟩

theorem witness_ArrayEvents :
    (∀ s ∈ [clearing, starting, loading, cleared], s.strandAt 0 = some s.strand ∧ s.strand.dead = false ∧ s.strand.halted = false ∧
      (s.ctx 0).state = .issuing ∧ s.strand.pos.susp = [] ∧ s.strand.draining = false) ∧
    (∃ o, dueStart clearing.strand.arr 9 = some o ∧ ∃ s1, startOp clearing 0 clearing.strand o 9 = .ok s1) ∧
    (∃ o, dueStart starting.strand.arr 9 = some o ∧ ∃ r, startOp starting 0 starting.strand o 9 = .error r) ∧
    (∃ o, dueElement loading.strand.arr 9 = some (o, 1) ∧ ∃ s1, readElement loading 0 o 1 = .got () s1) ∧
    (∃ o, dueDone cleared.strand.arr 9 = some o ∧ o.set.statC = false) ∧
    (let c := multicast 0;
      { start with casts := [c] }.casts.find? (fun x => x.id == 2) = some c ∧ (∀ m ∈ bitSet 8 (bits c.shape.toNat 63 56), m ∈ c.arrived) ∧
      (∀ m ∈ bitSet 8 (bits c.shape.toNat 63 56), c.rows.length < (tabGet c.taken m).getD 0 + 8) ∧
      c.rows.length < (bits c.shape.toNat 16 7 + laneTerms c.fmt) / laneTerms c.fmt ∧
      (∃ m ∈ bitSet 8 (bits c.shape.toNat 63 56), (tabGet c.taken m).getD 0 ≠ (bits c.shape.toNat 16 7 + laneTerms c.fmt) / laneTerms c.fmt) ∧
      (∀ m ∈ bitSet 8 (bits c.shape.toNat 63 56),
        (tabGet (multicast 1).taken m).getD 0 = (bits c.shape.toNat 16 7 + laneTerms c.fmt) / laneTerms c.fmt)) := by
  refine ⟨by decide +kernel, ⟨arrayOp .clearArray none 0 (withArray worked 1 1 start.strand), by decide +kernel, _, rfl⟩,
    ⟨arrayOp (.run (1 * 2 ^ 60) none (1 * 2 ^ 60) none 0 1 none) none 0 (withArray worked 1 1 start.strand), by decide +kernel,
      breaks (by decide +kernel)⟩,
    ⟨arrayOp (.loadLocal (1 * 2 ^ 60)) (some 1) 0 (withArray worked 1 1 start.strand), by decide +kernel, gets (by decide +kernel)⟩,
    ⟨arrayOp .clearArray (some 1) 1 (withArray worked 1 1 start.strand), by decide +kernel⟩, by decide +kernel⟩

/-- The timebase locked to domain 3, after fifteen good messages. -/
def synced : State := { start with host := { start.host with ptpcfg := 2 ^ 9 + 3 }, time := ⟨100, true, true, false, 15⟩ }

/-- Offsets of 40 and -40 ns, of 81 ns, and of more than a millisecond while unlocked; a WAITT whose time is now. -/
theorem witness_ArrivalsAndTime :
    (let s := grouped start;
      let e := s.readNat (sluiceEntryAddr s 0 1) 32;
      sluiceAdmitted s 0 = true ∧ sluiceBound e = true ∧ sluiceRoom s 0 1 = true ∧ sluiceAdmitted s 2 = false ∧
      sluiceAdmitted start 0 = false) ∧
    (bit synced.host.ptpcfg.toNat 9 = true ∧ 3 = bits synced.host.ptpcfg.toNat 7 0 ∧ 15 ≤ synced.time.run ∧ synced.time.locked = true ∧
      start.time.locked = false) ∧
    (let s := having fun st => { st with frozen := some .time, waits := .none };
      s.strandAt (2 * 0 + 0) = some s.strand ∧ s.strand.frozen = some .time ∧ s.strand.waits.wake.toNat ≤ s.time.now.toNat) := by
  decide +kernel

/-- Whether a manifest verifies is a free value (log 6): one of the two clauses of a boot applies, and no one can say which. -/
theorem witness_BootAndHostRegisters :
    State.reset.fozor.boot = 0 ∧ (manifestOk State.reset.fozor.minVersion = true ∨ manifestOk State.reset.fozor.minVersion = false) ∧
    (List.replicate 32 (0 : Byte)).length = 32 ∧ State.reset.fozor.boot ≠ 2 ∧
    ((State.reset.host.pools.getD 7 ⟨0, [], 0, 0⟩).blocks.length < 2 ^ ((State.reset.host.pools.getD 7 ⟨0, [], 0, 0⟩).word0.toNat % 32)) ∧
    ((0x3FF : Word) &&& 0x3FF ≠ State.reset.host.ptpcfg) ∧ State.reset.host.en = false ∧ (grouped start).host.en = true ∧
    (5 : Word).getLsbD 1 = false ∧ (2 : Word).getLsbD 0 = false ∧ (2 : Word).getLsbD 2 = false :=
  ⟨by decide +kernel, (Bool.eq_false_or_eq_true _), by decide +kernel⟩

def debugging (halted pending : Bool) : State :=
  let s := (quiet id).setStrand { (quiet id).strand with halted := halted, haltPending := pending }
  { s with host := { s.host with dbgen := true } }

theorem witness_DebuggerCommands :
    (∀ b ∈ [true, false], debugKey (debugging b false) = 0 ∧ (debugging b false).strandAt 0 = some (debugging b false).strand ∧
      (debugging b false).host.dbgen = true ∧ ((debugging b false).ctx 0).state = .issuing ∧ (debugging b false).strand.halted = b ∧
      (debugging b false).strand.drafts = []) ∧
    (debugKey start = 0 ∧ start.strandAt 0 = some start.strand ∧ start.host.dbgen = false) ∧
    ((debugging false true).strandAt (2 * 0) = some (debugging false true).strand ∧ haltDue (debugging false true) (2 * 0) = true ∧
      haltDue (haltAt (debugging false true) (2 * 0)) (2 * 0 + 1) = false) := by
  decide +kernel

/-- A state of EVAC. Whether a target receives is a free value (log 10), so no state shows that a GO reaches STOP; and where the levee image
lies is another (log 12), so one of the two clauses of an adoption applies, and no one can say which. -/
def evacuating (n : Nat) (abort : Bool) : State :=
  { State.reset with host := { State.reset.host with evacState := n, evacAbort := abort, evacSource := some 3 } }

theorem witness_EvacuationStates :
    ((evacuating 0 false).host.evacState = 0 ∧ (evacuating 0 false).inFabric = false ∧ (grouped start).inFabric = true ∧
      (grouped start).collectives = []) ∧
    (∀ n ∈ [1, 2, 3, 6], (evacuating n false).host.evacState = n ∧ coresEmpty (evacuating n false) = true ∧
      enginesIdle (evacuating n false) = true) ∧
    ((evacuating 3 true).host.evacState = 3 ∧ (evacuating 3 true).host.evacAbort = true ∧ coresEmpty (evacuating 3 true) = true ∧
      enginesIdle (evacuating 3 true) = true) ∧
    ((evacuating 6 false).host.evacSource = some 3) ∧
    (adoptAll (evacuating 6 false) = none ∨ ∃ s1, adoptAll (evacuating 6 false) = some s1) :=
  ⟨by decide +kernel, by decide +kernel, by decide +kernel, by decide +kernel, Option.eq_none_or_eq_some _⟩

theorem tabGet_same {α : Type} (c : α) (n : Nat) : ∀ l : List Nat, n ∈ l → tabGet (l.map fun k => (k, c)) n = some c
  | k :: l, h => by
    by_cases e : n = k
    · simp [tabGet, e]
    · simpa [tabGet, e] using tabGet_same c n l (by simpa [e] using h)

/-- The last station and core, the slowest clock; and a package of which every core runs at it. -/
theorem witness_ClocksAndPower :
    (95 < 96 ∧ 511 < 512 ∧ 400 % 100 = 0 ∧ 400 ≤ 400 ∧ 400 ≤ 1400 ∧ 400 < (State.reset.core 511).mhz ∧ 511 ∈ throttledWith State.reset 511) ∧
    (∀ n, n < 512 → ({ State.reset with cores := (List.range 512).map fun k => (k, { Core.init with mhz := 400 }) }.core n).mhz = 400) :=
  ⟨by decide +kernel, fun n h => by unfold State.core; rw [tabGet_same _ n _ (List.mem_range.mpr h)]; rfl⟩

/-- The invariant holds right after reset, and a step of it goes on. -/
theorem witness_StepKeepsMemoryCanonical :
    Memory.wf start.mem = true ∧ (match step start with | .next _ => true | _ => false) = true := by
  decide +kernel

/-- Before a bundle of an LI alone, before one of two LI, and before an idle bundle. -/
def beforeLi : State := start.withFetchWord 72 (2 + (0x28 * 2 ^ 48 + 5 * 2 ^ 31 + 77) * 2 ^ 16)
def beforeTwo : State :=
  start.withFetchWord 128 (6 + (0x28 * 2 ^ 48 + 5 * 2 ^ 31 + 77) * 2 ^ 16 + (0x28 * 2 ^ 48 + 6 * 2 ^ 31 + 78) * 2 ^ 72)
/-- Two lines of code: a header of 0, and then an idle bundle. -/
def twoLines : State := (coded 128 64 [] []).writePhys 128 [0, 2]
def unhindered (s : State) : Prop :=
  (s.agenda = [] ∧ s.powered = true ∧ s.fozor.boot = 1 ∧ enabledEvents s = [] ∧ s.strandAt s.focus = some s.strand ∧
      (s.ctx s.focus).state = .issuing ∧ s.host.evacState ≠ 6 ∧ coreHalted s s.coreNo = false ∧ evacLeaves s s.strand = false) ∧
    ((s.core s.coreNo).eccFreeze = 0 ∧ (s.core s.coreNo).switching = 0 ∧ s.strand.dead = false ∧
      (budgetOut s.strand = false ∨ s.strand.overrun < 65536 ∧ (s.strand.resumed = true ∨ s.strand.leaving = some 1 ∨ s.strand.leaving = some 5)) ∧
      s.strand.draining = false ∧ giveWay s s.focus s.strand = none ∧ s.strand.frozen = none ∧
      (s.strand.replay = [] ∨ s.strand.trapFrame ≠ none)) ∧
    (landPulse s s.focus = (s, false) ∧ s.strand.pos.line.busy = 0 ∧ s.strand.pos.pc = 64)
/-- What a step looks at once it has found what stands at an address. -/
def clearAt (s : State) (a : Nat) (r : FetchResult) : Prop :=
  let st1 := startAt s.strand.pos.pc a s.strand
  let s2 := s.setStrand st1
  trapAt s2 s.focus st1 (.ok ⟨a, r⟩) = none ∧ haltDue s2 s.focus = false ∧ readyToLeave s2 s.focus = false ∧ interruptDue s2 s.focus = false

theorem fetches {α : Type} {op : Op α} {s : State} {a : α} [DecidableEq α]
    (h : (match op s with | .ok r => decide (r.1 = a ∧ r.2 = s) | .error _ => false) = true) : op s = .ok (a, s) := by
  cases hh : op s with
  | error e => simp [hh] at h
  | ok r => simp only [hh, decide_eq_true_eq] at h; rw [← h.1, ← h.2]

theorem lined {s : State} {a : Nat} {m : PageMap} {b : List Byte}
    (h : (decide ((codeBounds s).1 ≤ a ∧ a < (codeBounds s).2 ∧ a < 2 ^ 57 ∧ 2 ≤ 64 - a % 64) &&
      (match through (strandMap a) s with | some r => decide (r.1 = some m ∧ r.2 = s) | none => false) && permitted .x s.priv m.perms &&
      (match codeAt s a (m.phys a) (64 - a % 64) with | .ok c => decide (c = b) | .error _ => false)) = true) : codeLine s a b := by
  simp only [Bool.and_eq_true, decide_eq_true_eq] at h
  obtain ⟨⟨⟨⟨h1, h2, h3, h4⟩, h5⟩, h6⟩, h7⟩ := h
  refine ⟨h1, h2, h3, h4, m, ?_, h6, ?_⟩
  · cases hh : through (strandMap a) s with
    | none => simp [hh] at h5
    | some r => simp only [hh, decide_eq_true_eq] at h5; rw [← h5.1, ← h5.2]
  · cases hh : codeAt s a (m.phys a) (64 - a % 64) with
    | error _ => simp [hh] at h7
    | ok c => simp only [hh, decide_eq_true_eq] at h7; rw [h7]

/-- Headers: too short, 0, a reserved bit, empty, one slot beyond the line, idle of 1 and of 7 bundle-times; lines of code, one that its
first header ends among them; addresses on both sides of the code, with no page, with one that no one may fetch from and beyond bit 56. -/
theorem witness_StepRunsDecoded :
    (([[0x02], [0, 0], [0, 2]] : List (List Byte)).map fun b => (decide (b.length < 2 ∨ leNat (b.take 2) = 0))) = [true, true, false] ∧
    (∀ b ∈ [[(0 : Byte), 0x10], [0, 1], [2, 0]], 2 ≤ b.length ∧ ruledOut b) ∧
    (∀ b ∈ [[(0 : Byte), 2], [0, 0xF]], 2 ≤ b.length ∧ bits (leNat (b.take 2)) 15 12 = 0 ∧ leNat (b.take 2) % 2 ^ 8 = 0 ∧
      1 ≤ bits (leNat (b.take 2)) 11 9) ∧
    (∃ b, decodeBundle false ([2, 0] ++ List.replicate 6 0 ++ [0x28]) = .bundle b) ∧
    ((match spaceCheck start [(64, 64)] with | .ok .hbm => true | _ => false) = true ∧ isBlock .hbm = false) ∧
    ((∃ b, codeLine beforeLi 64 b ∧ decodeBundle false b = .bundle ⟨0, false, 9, [.li tag0 5 77]⟩) ∧
      ∃ b c, codeLine twoLines 64 b ∧ decodeBundle false b = .endOfLine ∧ codeLine twoLines 128 c ∧ decodeBundle false c = .idle 1 false) ∧
    (∀ pc ∈ [63, 128], (coded 64 pc [] []).strand.pos.pc = pc ∧ codeBounds (coded 64 pc [] []) = (64, 128) ∧
      (coded 64 pc [] []).issue.mode = 0 ∧ (pc < 64 ∨ 128 ≤ pc)) ∧
    (∀ s ∈ [coded 0x50000 0x40000 [] [⟨0, 0, 4, 16, 0, 11⟩], coded 0x50000 0x40000 [⟨0, 4, 16, 0, 0, false⟩] [], coded (2 ^ 57) (2 ^ 57) [] []],
      (codeBounds s).1 ≤ s.strand.pos.pc ∧ s.strand.pos.pc < (codeBounds s).2 ∧ 2 ≤ 64 - s.strand.pos.pc % 64 ∧ s.issue.mode = 0 ∧
      (2 ^ 57 ≤ s.strand.pos.pc ∨ through (strandMap s.strand.pos.pc) s = some (none, s) ∨
        (through (strandMap s.strand.pos.pc) s).any (fun r => r.1.any fun m => !permitted .x s.priv m.perms) = true)) ∧
    (unhindered beforeLi ∧ unhindered beforeTwo ∧ unhindered (idling id)) ∧
    (∀ n, pickEvent [] n = none) ∧
    (∀ p ∈ [(beforeLi, FetchResult.bundle ⟨0, false, 9, [.li tag0 5 77]⟩),
        (beforeTwo, .bundle ⟨0, false, 16, [.li tag0 5 77, .li tagB 6 78]⟩), (idling id, .idle 1 false)],
      fetchOp p.1 = .ok ((64, p.2), p.1) ∧ clearAt p.1 64 p.2) := by
  unfold unhindered ruledOut clearAt
  refine ⟨by decide, by decide +kernel, by decide +kernel, ⟨_, rfl⟩, by decide +kernel,
    ⟨⟨leBytes 64 (2 + (0x28 * 2 ^ 48 + 5 * 2 ^ 31 + 77) * 2 ^ 16), lined (m := ⟨16, 0, 15⟩) (by decide +kernel), by decide +kernel⟩,
      leBytes 64 0, leBytes 64 0x200, lined (m := ⟨16, 0, 15⟩) (by decide +kernel), by decide +kernel,
      lined (m := ⟨16, 0, 15⟩) (by decide +kernel), by decide +kernel⟩, by decide +kernel, by decide +kernel,
    ⟨⟨by decide +kernel, by decide +kernel, by decide +kernel⟩, ⟨by decide +kernel, by decide +kernel, by decide +kernel⟩,
      by decide +kernel, by decide +kernel, by decide +kernel⟩, fun _ => rfl, fun p h => ⟨?_, ?_⟩⟩
  · fin_cases h <;> exact fetches (by decide +kernel)
  · revert p; decide +kernel

/-- An instruction of every slot with operands at the ends of their ranges. -/
theorem witness_EncodeThenDecode :
    ∀ i ∈ [Instr.btree ⟨95, 1, 7⟩ ⟨0, 0, 0⟩ ⟨0, 0, 0⟩ ⟨0, 0, 0⟩, .add ⟨false, 5, 95, 1⟩ 63 63 63 2, .remn ⟨true, 5, 95, 1⟩ 63 63 63,
        .vadd ⟨false, 5, 95, 1⟩ 511 495 3 495 3 31 1, .vmask ⟨false, 0, 95, 1⟩ 511 495 3 511 0 2, .acas ⟨false, 5, 95, 1⟩ 54 55 54 54 3 11,
        .arun ⟨false, 5, 95, 1⟩ 7 0 15 3 0 15 3 4095, .txout ⟨false, 5, 95, 1⟩ 511 31 3 2],
      wellFormed i = true ∧ ∃ p, encodeSlot i = some p ∧ p.2 < 2 ^ 56 ∧ decodeSlot p.1 p.2 = some i := by
  intro i h
  fin_cases h <;> exact ⟨by decide, _, rfl, by decide, by decide⟩

end Sys2Proof.Tests
end

section
/-!
The encoder and the decoder of slots are inverse to each other (R51, R53, R305-R320). Both write a word as a list of fields, so that
splitting and packing fields undo each other is shown once; a slot then decodes exactly where its opcode's map does, and every row of a
map is met by one line of the encoder.
-/
namespace Sys2Proof.Proofs

open Sys2Proof Sys2Proof.Laws

/-! ### Fields -/

@[simp] theorem fieldsFit_nil : FieldsFit [] := trivial

/-- A reserved field, or the code of one form of an instruction. -/
@[simp] theorem fieldsFit_cons_of_lt {k v : Nat} (h : v < 2 ^ k) (fs : List (Nat × Nat)) : FieldsFit ((k, v) :: fs) ↔ FieldsFit fs :=
  and_iff_right h

@[simp] theorem fieldsFit_toNat {k : Nat} (x : BitVec k) (fs : List (Nat × Nat)) :
    FieldsFit ((k, x.toNat) :: fs) ↔ FieldsFit fs := and_iff_right x.isLt

/-- Bits above the fields do not show in them. -/
theorem splitFields_add_mul (ks : List Nat) (v w : Nat) : splitFields ks (v * 2 ^ ks.sum + w) = splitFields ks w := by
  induction ks generalizing v with
  | nil => rfl
  | cons k ks ih =>
    have hv : v * 2 ^ (k :: ks).sum = v * 2 ^ k * 2 ^ ks.sum := by rw [List.sum_cons, pow_add, mul_assoc]
    rw [hv, splitFields, splitFields, ih, Nat.add_comm, Nat.add_mul_div_right _ _ (Nat.two_pow_pos _), Nat.add_mul_mod_self_right]

/-- Fields that fit are split off as they were packed. -/
theorem splitFields_packFields {fs : List (Nat × Nat)} (hf : FieldsFit fs) :
    splitFields (fs.map Prod.fst) (packFields fs) = fs.map Prod.snd := by
  induction fs with
  | nil => rfl
  | cons f fs ih =>
    obtain ⟨k, v⟩ := f
    obtain ⟨hv, hfs⟩ := hf
    simp only [List.map_cons, packFields, splitFields, splitFields_add_mul, ih hfs]
    rw [Nat.add_comm, Nat.add_mul_div_right _ _ (Nat.two_pow_pos _), Nat.div_eq_of_lt (packFields_lt hfs), Nat.zero_add,
      Nat.mod_eq_of_lt hv]

/-- Split fields as an instruction holds them and the encoder packs them again. -/
def heldFields : List Nat → List Nat → List (Nat × Nat) := List.zipWith fun k v => (k, (BitVec.ofNat k v).toNat)

theorem heldFields_widths (ks : List Nat) (w : Nat) : (heldFields ks (splitFields ks w)).map Prod.fst = ks := by
  induction ks with
  | nil => rfl
  | cons k ks ih => exact congrArg (k :: ·) ih

theorem packFields_heldFields (ks : List Nat) (w : Nat) : packFields (heldFields ks (splitFields ks w)) = w % 2 ^ ks.sum := by
  induction ks with
  | nil => simp [heldFields, splitFields, packFields, Nat.mod_one]
  | cons k ks ih =>
    show (BitVec.ofNat k (w / 2 ^ ks.sum % 2 ^ k)).toNat * 2 ^ ((heldFields ks (splitFields ks w)).map Prod.fst).sum
      + packFields (heldFields ks (splitFields ks w)) = _
    rw [ih, heldFields_widths, BitVec.toNat_ofNat, Nat.mod_mod, List.sum_cons, Nat.add_comm k, pow_add, Nat.mod_mul]
    ring

/-- Fields that a word splits into pack to that word. -/
theorem packFields_of_splitFields {ks vs : List Nat} {w : Nat} (h : splitFields ks w = vs) (hw : w < 2 ^ ks.sum) :
    packFields (heldFields ks vs) = w := by
  rw [← h, packFields_heldFields, Nat.mod_eq_of_lt hw]

/-- A field that is split again, in place. -/
theorem splitFields_cons_iff {k : Nat} {ks : List Nat} {w b : Nat} {vs : List Nat} :
    splitFields (k :: ks) w = b :: vs ↔ ∃ r, splitFields [k, ks.sum] w = [b, r] ∧ splitFields ks r = vs := by
  have hr : splitFields ks (w % 2 ^ ks.sum) = splitFields ks w := by
    conv_rhs => rw [← Nat.div_add_mod' w (2 ^ ks.sum), splitFields_add_mul]
  simp only [splitFields, List.cons.injEq, List.sum_cons, List.sum_nil, Nat.add_zero, pow_zero, Nat.div_one, and_true]
  constructor
  · rintro ⟨hb, hvs⟩
    exact ⟨_, ⟨hb, rfl⟩, hr.trans hvs⟩
  · rintro ⟨_, ⟨hb, rfl⟩, hvs⟩
    exact ⟨hb, hr.symm.trans hvs⟩

/-! ### Slots -/

/-- The map that a slot's opcode is looked up in (R53, R308-R320). -/
def decodeIn (k : SlotKind) (t : Tag) (opc ops : Nat) : Option Instr :=
  match k with
  | .c => decodeC opc ops
  | .a | .b => decodeScalar t opc ops
  | .v | .w => decodeVector t opc ops
  | .m => decodeM t opc ops
  | .x => decodeX t opc ops
  | .t => decodeT t opc ops

/-- Whether a slot is the second one of its pair. -/
def isSecond : SlotKind → Bool
  | .b | .w => true
  | _ => false

/-- Every word of 56 bits has the fields of a C slot. -/
theorem exists_encC {w : Nat} (hw : w < 2 ^ 56) : ∃ opc ops, opc < 2 ^ 8 ∧ ops < 2 ^ 48 ∧ w = encC opc ops :=
  ⟨_, _, (BitVec.ofNat 8 _).isLt, (BitVec.ofNat 48 _).isLt, (packFields_of_splitFields (ks := [8, 48]) rfl hw).symm⟩

/-- Every word of 56 bits has the fields of the other slots. -/
theorem exists_encTagged {w : Nat} (second : Bool) (hw : w < 2 ^ 56) :
    ∃ opc t ops, opc < 2 ^ 8 ∧ ops < 2 ^ 37 ∧ t.second = second ∧ w = encTagged opc t ops :=
  ⟨_, ⟨second, _, _, _⟩, _, (BitVec.ofNat 8 _).isLt, (BitVec.ofNat 37 _).isLt, rfl,
    (packFields_of_splitFields (ks := tagWidths) rfl hw).symm⟩

/-- Of what a map gives, the well-formed instructions pass. -/
theorem some_checked {o : Option Instr} {i : Instr} :
    (o.bind fun j => if wellFormed j then some j else none) = some i ↔ wellFormed i = true ∧ o = some i := by
  simp only [Option.bind_eq_some_iff, Option.ite_none_right_eq_some, Option.some.injEq]
  constructor
  · rintro ⟨j, ho, hj, rfl⟩
    exact ⟨hj, ho⟩
  · rintro ⟨hi, ho⟩
    exact ⟨i, ho, hi, rfl⟩

/-- A C slot decodes to a well-formed instruction that its map gives. -/
theorem decodeSlot_encC {opc ops : Nat} {i : Instr} (ho : opc < 2 ^ 8) (hp : ops < 2 ^ 48) :
    decodeSlot .c (encC opc ops) = some i ↔ wellFormed i = true ∧ decodeC opc ops = some i := by
  have hs : splitFields [8, 48] (encC opc ops) = [opc, ops] :=
    splitFields_packFields (fs := [(8, opc), (48, ops)]) ⟨ho, hp, trivial⟩
  rw [decodeSlot.eq_def, hs, ← some_checked]
  -- the kernel is not to evaluate the map on a word that is not known
  generalize decodeC = read
  cases h : read opc ops <;> simp only [h] <;> rfl

/-- A slot of another kind decodes to a well-formed instruction that its map gives. -/
theorem decodeSlot_encTagged {k : SlotKind} {opc ops : Nat} {t : Tag} {i : Instr} (hk : k ≠ .c) (ht : t.second = isSecond k)
    (ho : opc < 2 ^ 8) (hp : ops < 2 ^ 37) :
    decodeSlot k (encTagged opc t ops) = some i ↔ wellFormed i = true ∧ decodeIn k t opc ops = some i := by
  obtain ⟨second, path, gp, gn⟩ := t
  have hs : splitFields tagWidths (encTagged opc ⟨second, path, gp, gn⟩ ops) = [opc, path.toNat, gp.toNat, gn.toNat, ops] :=
    splitFields_packFields (fs := [(8, opc), (3, path.toNat), (7, gp.toNat), (1, gn.toNat), (37, ops)])
      ⟨ho, path.isLt, gp.isLt, gn.isLt, hp, trivial⟩
  rw [decodeSlot.eq_def, hs, ← some_checked, decodeIn.eq_def]
  generalize decodeC = readC, decodeScalar = readS, decodeVector = readV, decodeM = readM, decodeX = readX, decodeT = readT
  cases k <;> simp only [isSecond] at ht <;> subst ht
  case c => exact absurd rfl hk
  all_goals
    simp only [BitVec.ofNat_toNat, BitVec.setWidth_eq]
    split <;> simp [*]

/-! ### What a map gives is encoded as it stood -/

/-- An instruction whose fields a word of operands splits into is encoded with that word. -/
theorem encodeSlot_of_split {i : Instr} {k : SlotKind} {enc : Nat → Nat} {ops : Nat} {ks vs : List Nat} (hs : splitFields ks ops = vs)
    (hops : ops < 2 ^ ks.sum) (he : encodeSlot i = some (k, enc (packFields (heldFields ks vs)))) :
    encodeSlot i = some (k, enc ops) := by
  rw [he, packFields_of_splitFields hs hops]

theorem encodeSlot_of_decodeC {opc ops : Nat} {i : Instr} (hops : ops < 2 ^ 48) (h : decodeC opc ops = some i) :
    encodeSlot i = some (.c, encC opc ops) := by
  unfold decodeC at h
  split at h
  on_goal -1 => cases h
  all_goals
    split at h
    on_goal 2 => cases h
    rename_i hs
    cases h
    exact encodeSlot_of_split (enc := encC _) hs hops rfl

/-- The two forms of ALDB split their operands behind the form's bit (R319). -/
theorem encodeSlot_of_decodeX_aldb {t : Tag} {ops : Nat} {i : Instr} (hops : ops < 2 ^ 37) (h : decodeX t 4 ops = some i) :
    encodeSlot i = some (.x, encTagged 4 t ops) := by
  rw [decodeX] at h
  split at h
  on_goal 3 => cases h
  all_goals
    rename_i r hr
    split at h
    on_goal 2 => cases h
    rename_i hs
    cases h
  · exact encodeSlot_of_split (enc := encTagged _ t) (ks := 1 :: [4, 2, 30]) (splitFields_cons_iff.2 ⟨r, hr, hs⟩) hops rfl
  · exact encodeSlot_of_split (enc := encTagged _ t) (ks := 1 :: [6, 6, 24]) (splitFields_cons_iff.2 ⟨r, hr, hs⟩) hops rfl

theorem encodeSlot_of_decodeIn {k : SlotKind} {t : Tag} {opc ops : Nat} {i : Instr} (hk : k ≠ .c) (ht : t.second = isSecond k)
    (hops : ops < 2 ^ 37) (h : decodeIn k t opc ops = some i) : encodeSlot i = some (k, encTagged opc t ops) := by
  by_cases hx : k = .x ∧ opc = 4
  · obtain ⟨rfl, rfl⟩ := hx
    exact encodeSlot_of_decodeX_aldb hops h
  obtain ⟨second, path, gp, gn⟩ := t
  cases k <;> simp only [isSecond] at ht <;> subst ht
  case c => exact absurd rfl hk
  all_goals
    simp only [decodeIn] at h
    delta decodeScalar decodeVector decodeM decodeX decodeT at h
    split at h
    on_goal -1 => cases h
  any_goals exact absurd ⟨rfl, rfl⟩ hx
  all_goals
    split at h
    on_goal -1 => cases h
    all_goals
      rename_i hs
      cases h
      exact encodeSlot_of_split (enc := encTagged _ _) hs hops rfl

/-! ### What is encoded is read back -/

/-- The encoder's word of a well-formed instruction decodes to it. -/
def ReadsBack (i : Instr) : Prop := ∀ k w, wellFormed i = true → encodeSlot i = some (k, w) → decodeSlot k w = some i

/-- An event has no word. -/
theorem readsBack_event {i : Instr} (he : encodeSlot i = none) : ReadsBack i :=
  fun _ _ _ h => nomatch he.symm.trans h

theorem readsBack_c {i : Instr} {opc : Nat} (fs : List (Nat × Nat)) (he : encodeSlot i = some (.c, encC opc (packFields fs)))
    (ho : opc < 2 ^ 8) (hs : (fs.map Prod.fst).sum = 48) (hf : FieldsFit fs)
    (hd : ∀ ops, splitFields (fs.map Prod.fst) ops = fs.map Prod.snd → decodeC opc ops = some i) : ReadsBack i := by
  intro k w hi h
  cases he.symm.trans h
  exact (decodeSlot_encC ho (hs ▸ packFields_lt hf)).2 ⟨hi, hd _ (splitFields_packFields hf)⟩

theorem readsBack_tagged {i : Instr} {k : SlotKind} {t : Tag} {opc : Nat} (fs : List (Nat × Nat)) (hk : k ≠ .c)
    (ht : wellFormed i = true → t.second = isSecond k) (he : encodeSlot i = some (k, encTagged opc t (packFields fs)))
    (ho : opc < 2 ^ 8) (hs : (fs.map Prod.fst).sum = 37) (hf : FieldsFit fs)
    (hd : ∀ ops, splitFields (fs.map Prod.fst) ops = fs.map Prod.snd → decodeIn k t opc ops = some i) : ReadsBack i := by
  intro k w hi h
  cases he.symm.trans h
  exact (decodeSlot_encTagged hk (ht hi) ho (hs ▸ packFields_lt hf)).2 ⟨hi, hd _ (splitFields_packFields hf)⟩

theorem readsBack_scalar {i : Instr} {t : Tag} {opc : Nat} (fs : List (Nat × Nat))
    (he : encodeSlot i = some (scalarSlot t, encTagged opc t (packFields fs)))
    (ho : opc < 2 ^ 8) (hs : (fs.map Prod.fst).sum = 37) (hf : FieldsFit fs)
    (hd : ∀ ops, splitFields (fs.map Prod.fst) ops = fs.map Prod.snd → decodeScalar t opc ops = some i) : ReadsBack i := by
  obtain ⟨second, path, gp, gn⟩ := t
  cases second
  · exact readsBack_tagged (k := .a) fs (by decide) (fun _ => rfl) he ho hs hf hd
  · exact readsBack_tagged (k := .b) fs (by decide) (fun _ => rfl) he ho hs hf hd

theorem readsBack_vector {i : Instr} {t : Tag} {opc : Nat} (fs : List (Nat × Nat))
    (he : encodeSlot i = some (vectorSlot t, encTagged opc t (packFields fs)))
    (ho : opc < 2 ^ 8) (hs : (fs.map Prod.fst).sum = 37) (hf : FieldsFit fs)
    (hd : ∀ ops, splitFields (fs.map Prod.fst) ops = fs.map Prod.snd → decodeVector t opc ops = some i) : ReadsBack i := by
  obtain ⟨second, path, gp, gn⟩ := t
  cases second
  · exact readsBack_tagged (k := .v) fs (by decide) (fun _ => rfl) he ho hs hf hd
  · exact readsBack_tagged (k := .w) fs (by decide) (fun _ => rfl) he ho hs hf hd

/-- An instruction of a slot that has no second one of its kind. -/
theorem readsBack_single {i : Instr} {k : SlotKind} {t : Tag} {opc : Nat} (fs : List (Nat × Nat)) 
    (he : encodeSlot i = some (k, encTagged opc t (packFields fs))) (hk : k ∈ [SlotKind.m, .x, .t]) 
    (ht : wellFormed i = true → t.single = true) 
    (ho : opc < 2 ^ 8) (hs : (fs.map Prod.fst).sum = 37) (hf : FieldsFit fs)
    (hd : ∀ ops, splitFields (fs.map Prod.fst) ops = fs.map Prod.snd → decodeIn k t opc ops = some i) : ReadsBack i := by
  refine readsBack_tagged fs (by rintro rfl; simp at hk) (fun h => ?_) he ho hs hf hd
  have h2 : t.second = false := by simpa using (Bool.and_eq_true_iff.1 (ht h)).2
  fin_cases hk <;> exact h2

/-- Every instruction of a slot is read back: the row of its map takes the fields that the encoder's line gives (R308-R320). -/
theorem readsBack (i : Instr) : ReadsBack i := by
  cases i
  case ret | done | yield | trig | rft | uret =>
    refine readsBack_c [(48, 0)] rfl (by decide) rfl (by simp) fun ops h => ?_
    simp only [List.map] at h
    rw [decodeC, h]
    simp
  case brLabel | brReg | btree | callLabel | callReg | movb | loopImm | loopX | loopSpool | loops | leave | pand | por | pxor | pnot | pmov
      | waitt | bar | sysc | brk | mfs | mts =>
    refine readsBack_c _ rfl (by decide) rfl (by simp) fun ops h => ?_
    simp only [List.map] at h
    rw [decodeC, h]
    simp
  case add | addi | sub | mul | mulh | mulhn | div | divn | rem | remn | and | andi | or | ori | xor | xori | shl | shli | shr | shri | sar
      | sari | min | max | minn | maxn | cmp | cmpi | sel | lea | li | lih | clz | ctz | popc | bfx | bfi | fadd | fsub | fmul | ffma | fmin
      | fmax | fcmp | fcvt =>
    refine readsBack_scalar _ rfl (by decide) rfl (by simp) fun ops h => ?_
    simp only [List.map] at h
    rw [decodeScalar, h]
    simp
  case vadd | vsub | vmul | vfma | vmin | vmax | vabs | vneg | vand | vor | vxor | vnot | vshl | vshr | vsar | vcmp | vsel | vcvt | vbcst
      | vperm | vins | vext | vred | vamax | vargmx | vexp2 | vlog2 | vrcp | vrsq | vmask | vsprs =>
    refine readsBack_vector _ rfl (by decide) rfl (by simp) fun ops h => ?_
    simp only [List.map] at h
    rw [decodeVector, h]
    simp
  case tlbiAll =>
    refine readsBack_single [(6, 0), (6, 0), (6, 0), (6, 0), (4, 0), (9, 0)] rfl (by decide) id (by decide) rfl (by simp) fun ops h => ?_
    simp only [List.map] at h
    rw [decodeIn, decodeM, h]
    simp
  case ld | st | lda | stl | vld | vst | amo | acas | fence | drain | scfg | srel | dcp | dstat | frd | fwr | fclr | spawn | lnch | hfam
      | hprb | hins | hdel | hreh | hacc | merge | cred | tlbiAs | tlbiPage | lvs | lvr =>
    refine readsBack_single _ rfl (by decide) (fun hw => ?_) (by decide) rfl (by simp) fun ops h => ?_
    · simp only [wellFormed, Bool.and_eq_true] at hw
      tauto
    simp only [List.map] at h
    rw [decodeIn, decodeM, h]
    simp
  case aclrArray =>
    refine readsBack_single [(1, 1), (3, 0), (33, 0)] rfl (by decide) id (by decide) rfl (by simp) fun ops h => ?_
    simp only [List.map] at h
    rw [decodeIn, decodeX, h]
    simp
  case cprog | csel | aflow | arun | aruns | ascl | aclrView | adrn =>
    refine readsBack_single _ rfl (by decide) (fun hw => ?_) (by decide) rfl (by simp) fun ops h => ?_
    · simp only [wellFormed, Bool.and_eq_true] at hw
      tauto
    simp only [List.map] at h
    rw [decodeIn, decodeX, h]
    simp
  case aldbLocal | aldbCluster =>
    refine readsBack_single _ rfl (by decide) (fun hw => ?_) (by decide) rfl (by simp) fun ops h => ?_
    · simp only [wellFormed, Bool.and_eq_true] at hw
      tauto
    obtain ⟨r, hr, hs⟩ := splitFields_cons_iff.1 h
    simp only [List.map, List.sum_cons, List.sum_nil, Nat.reduceAdd] at hr hs
    rw [decodeIn, decodeX, hr]
    simp [hs]
  case txclr =>
    refine readsBack_single [(37, 0)] rfl (by decide) id (by decide) rfl (by simp) fun ops h => ?_
    simp only [List.map] at h
    rw [decodeIn, decodeT, h]
    simp
  case txin | txout =>
    refine readsBack_single _ rfl (by decide) (fun hw => ?_) (by decide) rfl (by simp) fun ops h => ?_
    · simp only [wellFormed, Bool.and_eq_true] at hw
      tauto
    simp only [List.map] at h
    rw [decodeIn, decodeT, h]
    simp
  all_goals exact readsBack_event rfl

/-- Settles O60: the encoder's words are read back field by field, and a word that decodes has the fields that the encoder packs. -/
theorem encodeThenDecode : Obligations.EncodeThenDecode := by
  unfold Obligations.EncodeThenDecode
  refine ⟨fun i k w hi h => readsBack i k w hi h, fun i k w hw h => ?_⟩
  by_cases hk : k = .c
  · subst hk
    obtain ⟨opc, ops, ho, hp, rfl⟩ := exists_encC hw
    obtain ⟨hi, hd⟩ := (decodeSlot_encC ho hp).1 h
    exact ⟨hi, encodeSlot_of_decodeC hp hd⟩
  · obtain ⟨opc, t, ops, ho, hp, ht, rfl⟩ := exists_encTagged (isSecond k) hw
    obtain ⟨hi, hd⟩ := (decodeSlot_encTagged hk ht ho hp).1 h
    exact ⟨hi, encodeSlot_of_decodeIn hk ht hp hd⟩

end Sys2Proof.Proofs
end

section
/-!
A register result of a calm strand: what its bundle keeps, and where the result lands (O10).
-/
namespace Sys2Proof.Proofs
open Sys2Proof Sys2Proof.Machine Sys2Proof.Laws Sys2Proof.Claims

/-! ### What a bundle leaves -/

/-- What is kept where less may change is kept where more may. -/
theorem kept_mono {s u : State} {xs xs' ps ps' regs regs' : List Nat} {bytes bytes' : Nat → Prop} (h : Kept s u xs ps regs bytes)
    (hx : xs ⊆ xs') (hp : ps ⊆ ps') (hr : regs ⊆ regs') (hb : ∀ a, bytes a → bytes' a) : Kept s u xs' ps' regs' bytes' :=
  { h with
    x := fun b n hn => h.x b n (hn.imp_left fun h' hm => h' (hx hm))
    p := fun b n hn => h.p b n (hn.imp_left fun h' hm => h' (hp hm))
    sys := fun n hn => h.sys n fun hm => hn (hr hm)
    mem := fun a ha => h.mem a fun hm => ha (hb a hm)
    poison := fun ha => h.poison fun a hm => ha a (hb a hm)
    ident := fun h0 => h.ident (List.subset_nil.1 (h0 ▸ hr))
    core := fun h0 ha => h.core (List.subset_nil.1 (h0 ▸ hr)) fun a hm => ha a (hb a hm) }

/-- Where the contexts stand as they are, what is kept is a matter of the system registers, memory and the cores. -/
theorem kept_of_ctxs {s t : State} {bytes : Nat → Prop} (hc : t.ctxs = s.ctxs) (hf : t.focus = s.focus)
    (hsys : ∀ n, readSys t n = readSys s n) (hmem : ∀ a, ¬ bytes a → t.readPhys a 1 = s.readPhys a 1)
    (hpoison : (∀ a, ¬ bytes a) → t.poison = s.poison) (hcores : (∀ a, ¬ bytes a) → t.cores = s.cores)
    (hother : ∀ k, k ≠ s.coreNo → t.core k = s.core k)
    (hworld : { t with mem := s.mem, poison := s.poison, cores := s.cores, ctxs := s.ctxs, issue := s.issue, fresh := s.fresh } = s) :
    Kept s t [] [] [] bytes := by
  have hctx : ∀ k, t.ctx k = s.ctx k := fun k => by simp only [State.ctx, hc]
  have hst : t.strand = s.strand := by simp only [State.strand, State.strandAt, hctx, hf]
  exact {
    x := fun b n _ => by simp only [readXAt, hst, hf, hctx]
    p := fun b n _ => by simp only [readPAt, hst, hf, hctx]
    bank := by rw [hst]
    b := by rw [hst]
    sys := fun n _ _ => hsys n
    mem := hmem
    poison := hpoison
    spools := by rw [hst]
    tags := by rw [hst]
    arr := by rw [hst]
    loops := by rw [hst]
    rets := by rw [hst]
    mode := by rw [hst]
    families := by rw [hst]
    entries := by rw [hst]; exact ⟨rfl, rfl, rfl, rfl, rfl⟩
    ident := fun _ => by rw [hst]
    context := by rw [hctx]; exact ⟨rfl, rfl⟩
    others := fun k _ => hctx k
    core := fun _ => hcores
    otherCores := hother
    world := hworld }

/-- The record of the bundle at issue is no part of what a bundle keeps. -/
theorem kept_issue (s : State) (r : Issue) : Kept s { s with issue := r } [] [] [] fun _ => False :=
  kept_of_ctxs rfl rfl (fun _ => rfl) (fun _ _ => rfl) (fun _ => rfl) (fun _ => rfl) (fun _ _ => rfl) rfl

/-- Everything is kept where nothing happens. -/
theorem kept_refl (s : State) : Kept s s [] [] [] fun _ => False := kept_issue s s.issue

/-- The strand a bundle-time after its bundle issued has nothing in flight. -/
theorem passed_flights (s : State) : (passed s).flights = [] := by
  rw [State.flights, strand_passed]
  rfl

/-- It stands at the bundle behind, where the bundle took no branch. -/
theorem passed_pc (i : Instr) (s : State) : (passed (enter i s)).strand.pos.pc = s.issue.next := by
  rw [strand_passed]
  exact issued_pc _ _

/-- It runs in the bank in which its bundle issued. -/
theorem passed_bank (i : Instr) (s : State) : (passed (enter i s)).strand.bank = s.strand.bank := by
  rw [strand_passed]
  exact issued_bank _ _

theorem passed_rotate {i : Instr} {s : State} (hc : calm s = true) : (passed (enter i s)).strand.rotate = false := by
  obtain ⟨-, -, -, -, -, -, hr, -⟩ := calm_iff.1 hc
  rw [strand_passed]
  exact (issued_rotate _ _).trans hr

theorem passed_strandAt (i : Instr) (s : State) :
    (passed (enter i s)).strandAt s.focus = some (passed (enter i s)).strand := by
  rw [strand_passed]
  exact strandAt_setStrandAt_same _ _ _

/-- Its own strand put back changes nothing. -/
theorem passed_setStrandAt (i : Instr) (s : State) :
    (passed (enter i s)).setStrandAt s.focus (passed (enter i s)).strand = passed (enter i s) := by
  rw [strand_passed]
  exact setStrandAt_twice _ _ _ _

/-- A bundle of one result that lands a bundle-time later leaves what the landing leaves, with nothing in flight, at the bundle
behind. -/
theorem settle_result {i : Instr} {s s2 : State} {st2 : Strand} {eff : Effect} {xs ps regs : List Nat} {bytes : Nat → Prop}
    (hc : calm s = true) (hk : eff.isFlags = false)
    (ha : ∀ f : Flight, f.eff = eff → applyEffect (passed (enter i s)) s.focus f = .done s2) (hf : s2.focus = s.focus)
    (hst2 : s2.strandAt s.focus = some st2) (hr2 : st2.rotate = (passed (enter i s)).strand.rotate)
    (hpos : st2.pos = (passed (enter i s)).strand.pos)
    (hkept : Kept (passed (enter i s)) (s2.setStrandAt s.focus st2) xs ps regs bytes) :
    settleIssue (sent (enter i s) 1 eff) [] = s2.setStrandAt s.focus st2 ∧ Kept s (s2.setStrandAt s.focus st2) xs ps regs bytes ∧
      (s2.setStrandAt s.focus st2).flights = [] ∧ (s2.setStrandAt s.focus st2).strand.pos.pc = s.issue.next := by
  have hst : (s2.setStrandAt s.focus st2).strand = st2 := hf ▸ strand_setStrandAt_focus _ _
  refine ⟨settle_sent hc hk (ha _ rfl) hst2 (hr2.trans (passed_rotate hc)), Kept_trans kept_passed hkept rfl, ?_, ?_⟩
  · rw [State.flights, hst, hpos]
    exact passed_flights _
  · rw [hst, hpos]
    exact passed_pc i s

/-! ### Register files -/

/-- The strand of a context after a predicate has been written. -/
theorem strandAt_writePAt {s : State} {k n : Nat} {st : Strand} {b : RegBank} {v : Bool} (h : s.strandAt k = some st) :
    ∃ p q, (writePAt s k b n v).strandAt k = some { st with ps := p, shadowP := q } := by
  unfold writePAt
  simp only [h]
  split
  · exact ⟨_, _, h⟩
  · split
    · exact ⟨_, _, strandAt_setStrandAt_same _ _ _⟩
    · cases b with
      | main => exact ⟨_, _, strandAt_setStrandAt_same _ _ _⟩
      | shadow => exact ⟨_, _, strandAt_setStrandAt_same _ _ _⟩
      | trap => exact ⟨st.ps, st.shadowP, by simpa [State.strandAt] using h⟩

/-- The strand of a context after a scalar register has been written. -/
theorem strandAt_writeXAt {s : State} {k n : Nat} {st : Strand} {b : RegBank} {v : Word} (h : s.strandAt k = some st) :
    ∃ p q, (writeXAt s k b n v).strandAt k = some { st with xs := p, shadowX := q } := by
  unfold writeXAt
  simp only [h]
  split
  · exact ⟨_, _, h⟩
  · split
    · exact ⟨_, _, strandAt_setStrandAt_same _ _ _⟩
    · cases b with
      | main => exact ⟨_, _, strandAt_setStrandAt_same _ _ _⟩
      | shadow => exact ⟨_, _, strandAt_setStrandAt_same _ _ _⟩
      | trap => exact ⟨st.xs, st.shadowX, by simpa [State.strandAt] using h⟩

/-- Where the strand stands is no matter of its registers. -/
theorem pos_writePAt {s : State} {k n : Nat} {st st2 : Strand} {b : RegBank} {v : Bool} (h : s.strandAt k = some st)
    (h2 : (writePAt s k b n v).strandAt k = some st2) : st2.pos = st.pos := by
  obtain ⟨p, q, h'⟩ := strandAt_writePAt (b := b) (n := n) (v := v) h
  rw [Option.some.inj (h2.symm.trans h')]

theorem pos_writeXAt {s : State} {k n : Nat} {st st2 : Strand} {b : RegBank} {v : Word} (h : s.strandAt k = some st)
    (h2 : (writeXAt s k b n v).strandAt k = some st2) : st2.pos = st.pos := by
  obtain ⟨p, q, h'⟩ := strandAt_writeXAt (b := b) (n := n) (v := v) h
  rw [Option.some.inj (h2.symm.trans h')]

/-- A write to p0 is discarded. -/
theorem writePAt_zero {s : State} {k : Nat} {b : RegBank} {v : Bool} : writePAt s k b 0 v = s := by
  unfold writePAt
  cases s.strandAt k <;> rfl

/-- Writes of registers leave the focus. -/
@[simp] theorem writePAt_focus (s : State) (k : Nat) (b : RegBank) (n : Nat) (v : Bool) : (writePAt s k b n v).focus = s.focus := by
  unfold writePAt
  cases s.strandAt k with
  | none => rfl
  | some st =>
    simp only
    split
    · rfl
    · split
      · rfl
      · cases b <;> rfl

@[simp] theorem writeXAt_focus (s : State) (k : Nat) (b : RegBank) (n : Nat) (v : Word) : (writeXAt s k b n v).focus = s.focus := by
  unfold writeXAt
  cases s.strandAt k with
  | none => rfl
  | some st =>
    simp only
    split
    · rfl
    · split
      · rfl
      · cases b <;> rfl

/-! ### One register result on a calm strand -/

/-- A predicate result of a calm strand lands in its predicate and leaves the rest. -/
theorem settle_predicate {i : Instr} {s : State} {n : Nat} {v : Bool} (hc : calm s = true) (hn : n < 96) :
    ∃ u, settleIssue (sent (enter i s) 1 (.p s.strand.bank n v)) [] = u ∧ Kept s u [] [n] [] (fun _ => False) ∧
      u.p n = (n == 0 || v) ∧ u.flights = [] ∧ u.strand.pos.pc = s.issue.next := by
  have hs := passed_strandAt i s
  by_cases h0 : n = 0
  · subst h0
    obtain ⟨hu, hk, hf, hp⟩ := settle_result (i := i) (eff := .p s.strand.bank 0 v) (s2 := passed (enter i s)) hc rfl
      (fun f hf => by simp only [applyEffect, hf, writePAt_zero]) rfl hs rfl rfl (by rw [passed_setStrandAt]; exact kept_refl _)
    exact ⟨_, hu, kept_mono hk (by simp) (by simp) (by simp) (fun _ h => h), rfl, hf, hp⟩
  · obtain ⟨_, st2, rfl, hst2, hrest, hkept, hv, -⟩ := write_p (v := v) hs hn h0
    obtain ⟨hu, hk, hf, hp⟩ := settle_result (eff := .p s.strand.bank n v) hc rfl
      (fun f hf => by simp only [applyEffect, hf, passed_bank, passed_focus, enter_focus]) (writePAt_focus (passed (enter i s)) _ _ _ _) hst2
      hrest.rotate (pos_writePAt hs hst2) hkept
    exact ⟨_, hu, hk, hv.trans (by simp [h0]), hf, hp⟩

/-! ### Comparisons -/

/-- The value of a word in an integer format is that of its low bits. -/
theorem intValue_toNat {fmt : Nat} (a : Word) :
    intValue fmt a.toNat = if fmt < 4 then (a.extractLsb' 0 (8 * 2 ^ (fmt % 4))).toInt else ((a.extractLsb' 0 (8 * 2 ^ (fmt % 4))).toNat : Int) := by
  unfold intValue intSigned intBits
  by_cases h : fmt < 4
  · simp only [h, decide_true, if_true, signedOf, BitVec.toInt, BitVec.extractLsb'_toNat, Nat.shiftRight_zero]
    norm_cast
  · simp only [h, decide_false, if_false, BitVec.extractLsb'_toNat, Nat.shiftRight_zero, Bool.false_eq_true]

/-- The relation that a CC code 0-5 names, from equality and order. -/
theorem ccHolds_compare {cc : Nat} (hcc : cc ≤ 5) (p q : Int) :
    ccHolds cc (compare p q) = match cc with
      | 0 => decide (p = q)
      | 1 => !decide (p = q)
      | 2 => decide (p < q)
      | 3 => decide (p < q) || decide (p = q)
      | 4 => !decide (p < q) && !decide (p = q)
      | _ => !decide (p < q) := by
  rcases lt_trichotomy p q with h | h | h
  · rw [compare_lt_iff_lt.2 h]
    interval_cases cc <;> simp [ccHolds, h, h.ne]
  · rw [compare_eq_iff_eq.2 h]
    interval_cases cc <;> simp [ccHolds, h]
  · rw [compare_gt_iff_gt.2 h]
    interval_cases cc <;> simp [ccHolds, not_lt.2 h.le, h.ne']

/-- An integer comparison of two words holds as their low bits compare. -/
theorem compares_eq {cc fmt : Nat} (hcc : cc ≤ 5) (a b : Word) : compares cc fmt a b = cmpWords cc fmt a b := by
  unfold cmpWords intCompare compares
  simp only [intValue_toNat, ccHolds_compare hcc]
  generalize 8 * 2 ^ (fmt % 4) = w
  generalize a.extractLsb' 0 w = x
  generalize b.extractLsb' 0 w = y
  have hs : decide (x.toInt = y.toInt) = (x == y) := by
    rw [Bool.eq_iff_iff, decide_eq_true_eq, beq_iff_eq, BitVec.toInt_inj]
  have hu : decide ((x.toNat : Int) = y.toNat) = (x == y) := by
    rw [Bool.eq_iff_iff, decide_eq_true_eq, beq_iff_eq, Nat.cast_inj, BitVec.toNat_inj]
  have hl : decide ((x.toNat : Int) < y.toNat) = x.ult y := by
    rw [Bool.eq_iff_iff, decide_eq_true_eq, Nat.cast_lt, BitVec.ult, decide_eq_true_eq]
  by_cases h : fmt < 4
  · simp only [h, if_true, hs]
    interval_cases cc <;> rfl
  · simp only [h, if_false, hu, hl]
    interval_cases cc <;> rfl

/-- The comparison with an immediate. -/
theorem compares_imm {cc : BitVec 4} (hcc : cc.toNat % 8 ≤ 5) (a : Word) (imm : BitVec 20) :
    compares (cc.toNat % 8) (if cc.toNat < 8 then 3 else 7) a (imm.signExtend 64) = cmpiWord cc.toNat a imm := by
  rw [compares_eq hcc, cmpiWord]
  congr 1
  split <;> split <;> omega

/-! ### The predicate instructions -/

/-- A predicate operand with its inversion is read at issue. -/
theorem getPN_free {s : State} {n : BitVec 1} {p : PReg} (hm : s.issue.mode = 0) : getPN n p s = .ok (s.p p.toNat != (n == 1), s) := by
  unfold getPN
  rw [op_bind_ok (getP_free hm)]
  rfl

/-- A scalar register is read at the issue of a bundle of a calm strand. -/
theorem getX_calm {i : Instr} {s : State} {n : XReg} (hc : calm s = true) : getX n (enter i s) = .ok (s.x n.toNat, enter i s) := by
  obtain ⟨-, -, hf, hb, -⟩ := calm_iff.1 hc
  exact getX_free rfl hf hb

theorem getXQ_calm {i : Instr} {s : State} {n : XReg} (hc : calm s = true) (hn : n.toNat < 56) :
    getXQ n (enter i s) = .ok (s.x n.toNat, enter i s) := by
  obtain ⟨-, -, hf, hb, -⟩ := calm_iff.1 hc
  exact getXQ_free hn rfl hf hb

/-- An operation of two predicates sends what they make. -/
theorem predicate2_sends {i : Instr} {s : State} {na nb : BitVec 1} {pd pa pb : PReg} (f : Bool → Bool → Bool) :
    (do let a ← getPN na pa
        let b ← getPN nb pb
        putP 1 pd (f a b) : Op Unit) (enter i s) =
      .ok ((), sent (enter i s) 1 (.p s.strand.bank pd.toNat (f (s.p pa.toNat != (na == 1)) (s.p pb.toNat != (nb == 1))))) := by
  rw [op_bind_ok (getPN_free rfl), op_bind_ok (getPN_free rfl), putP_free rfl]
  rfl

/-- Each predicate instruction of the C slot sends its result to land a bundle-time later. -/
theorem predicateOp_sends {s : State} {na nb : BitVec 1} {pd pa pb : PReg} {i : Instr} {v : Bool}
    (h : (i, v) ∈ predicateOps na nb pd pa pb (s.p pa.toNat) (s.p pb.toNat)) (hi : s.issuing = true) :
    exec i s = .next (settleIssue (sent (enter i s) 1 (.p s.strand.bank pd.toNat v)) []) := by
  simp only [predicateOps, List.mem_cons, Prod.mk.injEq, List.not_mem_nil, or_false] at h
  rcases h with ⟨rfl, rfl⟩ | ⟨rfl, rfl⟩ | ⟨rfl, rfl⟩ | ⟨rfl, rfl⟩ | ⟨rfl, rfl⟩
  all_goals refine issueOne_through hi (noPorts rfl) (noReports fun _ => rfl) ?_
  · exact predicate2_sends (· && ·)
  · exact predicate2_sends (· || ·)
  · exact predicate2_sends (· != ·)
  · rw [opPnot, op_bind_ok (getP_free rfl), putP_free rfl]
    rfl
  · rw [opPmov, op_bind_ok (getPN_free rfl), putP_free rfl]
    rfl

/-- CMP sends its result to land a bundle-time later. -/
theorem cmp_sends {s : State} {t : Tag} {pd : PReg} {xa xb : XReg} {cc fmt : BitVec 4} (hc : calm s = true) (hp : passes t s = true)
    (ha : xa.toNat < 56) (hb : xb.toNat < 56) :
    exec (.cmp t pd xa xb cc fmt) s = .next (settleIssue (sent (enter (.cmp t pd xa xb cc fmt) s) 1
      (.p s.strand.bank pd.toNat (cmpWords cc.toNat fmt.toNat (s.x xa.toNat) (s.x xb.toNat)))) []) := by
  obtain ⟨hi, -⟩ := calm_iff.1 hc
  refine issueOne_through hi (noPorts rfl) (noReports fun _ => rfl) ?_
  rw [opCmp, guarded_passes hp, op_bind_ok (getXQ_calm hc ha), op_bind_ok (getXQ_calm hc hb), putP_free rfl]
  rfl

/-- So does CMPI. -/
theorem cmpi_sends {s : State} {t : Tag} {pd : PReg} {xa : XReg} {cc : BitVec 4} {imm : BitVec 20} (hc : calm s = true)
    (hp : passes t s = true) (ha : xa.toNat < 56) :
    exec (.cmpi t pd xa cc imm) s = .next (settleIssue (sent (enter (.cmpi t pd xa cc imm) s) 1
      (.p s.strand.bank pd.toNat (cmpiWord cc.toNat (s.x xa.toNat) imm))) []) := by
  obtain ⟨hi, -⟩ := calm_iff.1 hc
  refine issueOne_through hi (noPorts rfl) (noReports fun _ => rfl) ?_
  rw [opCmpi, guarded_passes hp, op_bind_ok (getXQ_calm hc ha), putP_free rfl]
  rfl

/-- The destination of a well-formed predicate instruction is a predicate. -/
theorem predicateOp_destination {na nb : BitVec 1} {pd pa pb : PReg} {a b v : Bool} {i : Instr}
    (h : (i, v) ∈ predicateOps na nb pd pa pb a b) (hw : wellFormed i = true) : pd.toNat < 96 := by
  simp only [predicateOps, List.mem_cons, Prod.mk.injEq, List.not_mem_nil, or_false] at h
  rcases h with ⟨rfl, -⟩ | ⟨rfl, -⟩ | ⟨rfl, -⟩ | ⟨rfl, -⟩ | ⟨rfl, -⟩ <;>
  · simp only [wellFormed, PReg.ok, Bool.and_eq_true, decide_eq_true_eq] at hw
    omega

/-- Settles O10: each of the instructions sends its predicate, which lands a bundle-time later. -/
theorem predicateFrame : Obligations.PredicateFrame := by
  intro s t na nb pd pa pb xa xb cc fmt imm i v hmem hw hc hp ha hb
  obtain ⟨hi, -⟩ := calm_iff.1 hc
  rcases List.mem_append.1 hmem with h | h
  · obtain ⟨u, rfl, hu⟩ := settle_predicate (i := i) (v := v) hc (predicateOp_destination h hw)
    exact ⟨_, predicateOp_sends h hi, hu⟩
  · simp only [List.mem_cons, Prod.mk.injEq, List.not_mem_nil, or_false] at h
    rcases h with ⟨rfl, rfl⟩ | ⟨rfl, rfl⟩
    · obtain ⟨⟨⟨-, hd⟩, hcc⟩, -⟩ : ((t.ok = true ∧ PReg.ok pd = true) ∧ cc.toNat ≤ 5) ∧ fmt.toNat ≤ 7 := by
        simpa [wellFormed] using hw
      obtain ⟨u, rfl, hu⟩ := settle_predicate (i := .cmp t pd xa xb cc fmt)
        (v := cmpWords cc.toNat fmt.toNat (s.x xa.toNat) (s.x xb.toNat)) hc (by simpa [PReg.ok] using hd)
      rw [compares_eq hcc]
      exact ⟨_, cmp_sends hc hp ha hb, hu⟩
    · obtain ⟨⟨-, hd⟩, hcc⟩ : (t.ok = true ∧ PReg.ok pd = true) ∧ cc.toNat % 8 ≤ 5 := by simpa [wellFormed] using hw
      obtain ⟨u, rfl, hu⟩ := settle_predicate (i := .cmpi t pd xa cc imm) (v := cmpiWord cc.toNat (s.x xa.toNat) imm) hc
        (by simpa [PReg.ok] using hd)
      rw [compares_imm hcc]
      exact ⟨_, cmpi_sends hc hp ha, hu⟩

end Sys2Proof.Proofs
end

section
/-!
System registers: what a write leaves and what a read then returns, by the field tables; and what an MTS and an MFS of a calm strand
leave (O19).
-/
namespace Sys2Proof.Proofs
open Sys2Proof Sys2Proof.Machine Sys2Proof.Laws Sys2Proof.Claims

/-! ### System registers: what a write leaves -/

/-- The strand-scope registers after a write, register by register. -/
theorem writeStrandSys_eq (y : SysRegs) (n : Nat) (v : Word) : writeStrandSys y n v =
    { y with
      uie := if n = 0x000 then bit v.toNat 2 else y.uie
      vview := if n = 0x002 then v &&& 0x7F else y.vview
      frm := if n = 0x004 then v &&& 0x3 else y.frm
      fflags := if n = 0x005 then v &&& fflagsMask else y.fflags
      budget := if n = 0x008 then v &&& 0x0001FFFFFFFFFFFF else y.budget
      tcause := if n = 0x021 then v &&& 0xFFFF else y.tcause
      tinfo := if n = 0x022 then v else y.tinfo
      uvec := if n = 0x028 then v &&& 0xFFFFFFFF else y.uvec
      umask := if n = 0x029 then writeUmask y.umask v else y.umask
      polder := if n = 0x030 then v &&& 0x000001FFFFFFFF07 else y.polder
      launch := if n = 0x031 then v &&& 0xFFFFE1FFC0000FFF else y.launch
      weight := if n = 0x032 then v else y.weight
      trigscope := if n = 0x033 then (if bits v.toNat 3 0 ≤ 11 then v &&& 0xF else y.trigscope) else y.trigscope
      fent := if n = 0x038 then v &&& 0x1FFFF else y.fent
      tviews := if 0x040 ≤ n ∧ n ≤ 0x04F then y.tviews.setIfInBounds (n - 0x040) (v &&& viewMask) else y.tviews
      aviews := if 0x050 ≤ n ∧ n ≤ 0x057 then y.aviews.setIfInBounds (n - 0x050) (v &&& viewMask) else y.aviews } := by
  unfold writeStrandSys
  split
  case h_15 h0 h2 h4 h5 h8 h21 h22 h28 h29 h30 h31 h32 h33 h38 =>
    have e : ∀ m, (n = m → False) → (n = m) = False := fun m h => eq_false h
    simp only [e _ h0, e _ h2, e _ h4, e _ h5, e _ h8, e _ h21, e _ h22, e _ h28, e _ h29, e _ h30, e _ h31, e _ h32, e _ h33, e _ h38, if_false]
    by_cases ht : 0x040 ≤ n ∧ n ≤ 0x04F
    · have ha : ¬ (0x050 ≤ n ∧ n ≤ 0x057) := by omega
      simp [ht, ha]
    · by_cases ha : 0x050 ≤ n ∧ n ≤ 0x057 <;> simp [ht, ha]
  case h_13 =>
    by_cases hv : bits v.toNat 3 0 ≤ 11 <;> simp [hv]
  all_goals rfl

/-- The strand of a context after a write of one of its system registers. -/
def afterSys (st : Strand) (n : Nat) (v : Word) : Strand :=
  { st with sys := writeStrandSys st.sys n v, overrun := if n = 0x008 then 0 else st.overrun }

/-- A register of another scope than the strand's leaves the strand as it is. -/
theorem afterSys_self {st : Strand} {n : Nat} {v : Word} (h : n = 0x001 ∨ n = 0x020 ∨ 0x060 ≤ n ∧ n ≤ 0x06F) : afterSys st n v = st := by
  have e : ∀ m, m ∈ [0x000, 0x002, 0x004, 0x005, 0x008, 0x021, 0x022, 0x028, 0x029, 0x030, 0x031, 0x032, 0x033, 0x038] → n ≠ m := by
    simp only [List.mem_cons, List.not_mem_nil, or_false]
    omega
  have ht : ¬ (0x040 ≤ n ∧ n ≤ 0x04F) := by omega
  have ha : ¬ (0x050 ≤ n ∧ n ≤ 0x057) := by omega
  simp [afterSys, writeStrandSys_eq, e, ht, ha]

/-- The core of a context after a write of a system register. -/
def afterSysCore (c : Core) (n : Nat) (v : Word) : Core :=
  { c with
    tvec := if n = 0x020 then v &&& 0x01FFFFFFFFFFF001 else c.tvec
    bfmt := if 0x060 ≤ n ∧ n ≤ 0x06F then c.bfmt.setIfInBounds (n - 0x060) (v &&& 0xFFF0030F) else c.bfmt }

/-- The context after it. -/
def afterSysCtx (c : Context) (st : Strand) (sup : Bool) (n : Nat) (v : Word) : Context :=
  { c with part := if n = 0x001 ∧ sup = false then v &&& 0xFF007F else c.part, strand := some (afterSys st n v) }

theorem core_setCore_other (s : State) {k j : Nat} (c : Core) (h : j ≠ k) : (s.setCore k c).core j = s.core j := by
  simp only [State.core, State.setCore, tabGet_tabSet_other s.cores c h]

/-- A strand that stands in its context can be put there again. -/
theorem strandAt_of_placed {s : State} {k : Nat} {st : Strand} (h : s.setStrandAt k st = s) : s.strandAt k = some st := by
  rw [← h]
  exact strandAt_setStrandAt_same _ _ _

/-- A context's part is all that changes where only its part is written. -/
theorem setCtx_placed {s : State} {k : Nat} {st : Strand} (h : s.setStrandAt k st = s) : s.setCtx k (s.ctx k) = s := by
  have hs : (s.ctx k).strand = some st := strandAt_of_placed h
  conv_rhs => rw [← h]
  rw [State.setStrandAt, ← hs]

/-- What a write of a system register comes to: its context written, or its core. -/
theorem writeSys_eq {s : State} {k : Nat} {st : Strand} (n : Nat) (v : Word) (h : s.setStrandAt k st = s) :
    (¬ (n = 0x020 ∨ 0x060 ≤ n ∧ n ≤ 0x06F) ∧
      writeSys s k n v = s.setCtx k (afterSysCtx (s.ctx k) st (isSupervisor (keyCore k)) n v)) ∨
    (n = 0x020 ∨ 0x060 ≤ n ∧ n ≤ 0x06F) ∧ writeSys s k n v = s.setCore (keyCore k) (afterSysCore (s.core (keyCore k)) n v) := by
  have hs : (s.ctx k).strand = some st := strandAt_of_placed h
  unfold writeSys
  simp only [strandAt_of_placed h, beq_iff_eq, Bool.and_eq_true, decide_eq_true_eq]
  by_cases h1 : n = 0x001
  · refine .inl ⟨by omega, ?_⟩
    subst h1
    simp only [if_true, afterSysCtx, afterSys_self (st := st) (v := v) (.inl rfl), ← hs, true_and]
    cases isSupervisor (keyCore k)
    · rfl
    · exact (setCtx_placed h).symm
  · by_cases hc : n = 0x020 ∨ 0x060 ≤ n ∧ n ≤ 0x06F
    · refine .inr ⟨hc, ?_⟩
      rcases hc with rfl | hc
      · rfl
      · have h2 : n ≠ 0x020 := by omega
        simp [h1, h2, hc, afterSysCore]
    · refine .inl ⟨hc, ?_⟩
      obtain ⟨h2, h3⟩ := not_or.1 hc
      simp only [h1, h2, h3, if_false, afterSysCtx, false_and, State.setStrandAt, afterSys]
      by_cases h8 : n = 0x008 <;> simp [h8]

section
variable {s : State} {k : Nat} {st : Strand} (n : Nat) (v : Word) (h : s.setStrandAt k st = s)
include h

theorem writeSys_ctx_same : (writeSys s k n v).ctx k = afterSysCtx (s.ctx k) st (isSupervisor (keyCore k)) n v := by
  rcases writeSys_eq n v h with ⟨-, e⟩ | ⟨hn, e⟩
  · rw [e, ctx_setCtx_same]
  · have hs : (s.ctx k).strand = some st := strandAt_of_placed h
    have h1 : n ≠ 0x001 := by omega
    rw [e, ctx_setCore, afterSysCtx, afterSys_self (.inr hn), ← hs]
    simp [h1]

theorem writeSys_ctx_other {j : Nat} (hj : j ≠ k) : (writeSys s k n v).ctx j = s.ctx j := by
  rcases writeSys_eq n v h with ⟨-, e⟩ | ⟨-, e⟩ <;> rw [e]
  · exact ctx_setCtx_other _ _ hj
  · exact ctx_setCore _ _ _ _

theorem writeSys_core_same : (writeSys s k n v).core (keyCore k) = afterSysCore (s.core (keyCore k)) n v := by
  rcases writeSys_eq n v h with ⟨hn, e⟩ | ⟨-, e⟩ <;> rw [e]
  · obtain ⟨h1, h2⟩ := not_or.1 hn
    simp only [core_setCtx, afterSysCore, h1, h2, if_false]
  · exact core_setCore_same _ _ _

theorem writeSys_core_other {j : Nat} (hj : j ≠ keyCore k) : (writeSys s k n v).core j = s.core j := by
  rcases writeSys_eq n v h with ⟨-, e⟩ | ⟨-, e⟩ <;> rw [e]
  · exact core_setCtx _ _ _ _
  · exact core_setCore_other _ _ hj

/-- Beside contexts and cores a write of a system register changes nothing. -/
theorem writeSys_world : writeSys s k n v = { s with ctxs := (writeSys s k n v).ctxs, cores := (writeSys s k n v).cores } := by
  rcases writeSys_eq n v h with ⟨-, e⟩ | ⟨-, e⟩ <;> rw [e] <;> rfl

theorem writeSys_placed : (writeSys s k n v).setStrandAt k (afterSys st n v) = writeSys s k n v := by
  rcases writeSys_eq n v h with ⟨-, e⟩ | ⟨hn, e⟩ <;> rw [e]
  · exact setStrandAt_setCtx _ _ _ _
  · rw [afterSys_self (.inr hn)]
    conv_rhs => rw [← h]
    rfl

theorem writeSys_focus : (writeSys s k n v).focus = s.focus := by
  rw [writeSys_world n v h]

theorem writeSys_mem : (writeSys s k n v).mem = s.mem := by
  rw [writeSys_world n v h]

end

/-! ### System registers: what a read returns after a write -/

/-- A register of a file reads as before when another register has been written, of the same file or not. -/
theorem getD_file_other {α : Type} {k lo hi n m : Nat} (xs : Vector α k) {v d : α} (h : m ≠ n) (hm : lo ≤ m) :
    (if lo ≤ n ∧ n ≤ hi then xs.setIfInBounds (n - lo) v else xs).getD (m - lo) d = xs.getD (m - lo) d := by
  split
  · exact getD_set_other _ _ (by omega)
  · rfl

section
variable {s : State} {st : Strand} (n : Nat) (v : Word) (h : s.setStrandAt s.focus st = s)
include h

/-- The strand in focus after a write of one of its system registers. -/
theorem writeSys_strand : (writeSys s s.focus n v).strand = afterSys st n v := by
  simp only [State.strand, strandAt_of_placed (writeSys_placed n v h), writeSys_focus n v h, Option.getD_some]

/-- The one core and the two clocks that a read of a system register looks at, after the write. -/
theorem writeSys_seen : (writeSys s s.focus n v).core (keyCore s.focus) = afterSysCore (s.core (keyCore s.focus)) n v ∧
    (writeSys s s.focus n v).time = s.time ∧ (writeSys s s.focus n v).host = s.host ∧ s.strand = st := by
  refine ⟨writeSys_core_same n v h, ?_, ?_, ?_⟩
  · rw [writeSys_world n v h]
  · rw [writeSys_world n v h]
  · simp only [State.strand, strandAt_of_placed h, Option.getD_some]

/-- Every other register reads as it did before. -/
theorem readSys_writeSys_other {m : Nat} (hm : m ≠ n) : readSys (writeSys s s.focus n v) m = readSys s m := by
  obtain ⟨hc, ht, hh, hst⟩ := writeSys_seen n v h
  unfold readSys
  simp only [writeSys_strand n v h, writeSys_focus n v h, hst, writeSys_ctx_same n v h, timelockWord, State.coreNo, ht, hh, hc]
  split
  case h_20 =>
    simp only [afterSys, writeStrandSys_eq, afterSysCore, Bool.and_eq_true, decide_eq_true_eq]
    exact ite_congr rfl (fun hr => getD_file_other _ hm hr.1) fun _ => ite_congr rfl (fun hr => getD_file_other _ hm hr.1) fun _ =>
      ite_congr rfl (fun hr => getD_file_other _ hm hr.1) fun _ => rfl
  all_goals simp [afterSys, writeStrandSys_eq, Ne.symm hm, statusWord, lidxWord, afterSysCtx, afterSysCore]

end

/-- Bit 2 of a number replaced by bit 2 of a word. -/
theorem w64_setBit2 (a : Nat) (b p : Bool) (v : Word) :
    w64 (2 ^ 3 * a + (bit01 (bit v.toNat 2) * 4 + bit01 p)) = (w64 (2 ^ 3 * a + (bit01 b * 4 + bit01 p)) &&& ~~~4) ||| (v &&& 4) := by
  have low : ∀ c q : Bool, bit01 c * 4 + bit01 q < 2 ^ 3 := by decide
  have at2 : ∀ c q : Bool, (bit01 c * 4 + bit01 q).testBit 2 = c := by decide
  have at01 : ∀ c d q : Bool, ∀ j < 2, (bit01 c * 4 + bit01 q).testBit j = (bit01 d * 4 + bit01 q).testBit j := by decide
  have four : ∀ j < 64, (4 : Word).getLsbD j = decide (j = 2) := by decide
  refine BitVec.eq_of_getLsbD_eq fun j hj => ?_
  simp only [w64, BitVec.getLsbD_or, BitVec.getLsbD_and, BitVec.getLsbD_not, BitVec.getLsbD_ofNat, hj, decide_true, Bool.true_and,
    four j hj, Nat.testBit_two_pow_mul_add _ (low _ _)]
  rcases lt_trichotomy j 2 with h | rfl | h
  · have h3 : j < 3 := by omega
    simp [h.ne, h3, at01 (bit v.toNat 2) b p j h]
  · simp only [at2]
    simp [bit, BitVec.getLsbD]
  · have h3 : ¬ j < 3 := by omega
    simp [h.ne', h3]

/-- A write of STATUS changes UIE only (R79, R81). -/
theorem statusWord_uie {st st' : Strand} (key : Nat) (v : Word) (hu : st'.sys.uie = bit v.toNat 2) (hrest : st'.pos = st.pos)
    (hih : st'.sys.uih = st.sys.uih) (hp : st'.sys.priv = st.sys.priv) :
    statusWord key st' = (statusWord key st &&& ~~~4) ||| (v &&& 4) := by
  unfold statusWord
  simp only [hu, hrest, hih, hp, packFields, List.map_cons, List.map_nil, List.sum_cons, List.sum_nil]
  refine (congrArg w64 ?_).trans ((w64_setBit2 ((if keyCore key < 512 then keyCore key else keyCore key - 512) * 2 ^ 13 +
    st.pos.rets.length * 2 ^ 8 + st.pos.loops.length * 2 ^ 5 + key % 2 * 2 + bit01 st.sys.uih) st.sys.uie
    (st.sys.priv || isSupervisor (keyCore key)) v).trans (congrArg (fun x => w64 x &&& ~~~4 ||| v &&& 4) ?_)) <;> ring

/-- What an MTS leaves is what the field table of its register says. -/
theorem readSys_writeSys_same {s : State} {st : Strand} (n : Nat) (v : Word) (h : s.setStrandAt s.focus st = s)
    (hmap : sysRegMapped n = true) (hnw : neverWritten n = false) :
    readSys (writeSys s s.focus n v) n = afterMts (isSupervisor s.coreNo) n (readSys s n) v := by
  obtain ⟨hc, ht, hh, hst⟩ := writeSys_seen n v h
  unfold readSys
  simp only [writeSys_strand n v h, writeSys_focus n v h, hst, writeSys_ctx_same n v h, timelockWord, State.coreNo, ht, hh, hc]
  split
  case h_1 => exact statusWord_uie _ _ rfl rfl rfl rfl
  case h_2 =>
    simp only [afterSysCtx, afterMts]
    cases isSupervisor (keyCore s.focus) <;> simp
  case h_4 | h_8 | h_9 => simp [neverWritten] at hnw
  case h_18 =>
    simp only [afterSys, writeStrandSys_eq, afterMts, if_true, bits]
    simp
  case h_20 =>
    simp only [afterMts, afterSys, writeStrandSys_eq, afterSysCore, Bool.and_eq_true, decide_eq_true_eq]
    by_cases ht : 0x040 ≤ n ∧ n ≤ 0x04F
    · rw [if_pos ht, if_pos ht, getD_set_same _ _ (by omega), if_pos (by omega)]
      rfl
    · by_cases ha : 0x050 ≤ n ∧ n ≤ 0x057
      · rw [if_neg ht, if_pos ha, if_pos ha, getD_set_same _ _ (by omega), if_pos (by omega)]
        rfl
      · have hb : 0x060 ≤ n ∧ n ≤ 0x06F := by
          simp [sysRegMapped, neverWritten] at hmap hnw
          simp only [imp_false] at *
          omega
        rw [if_neg ht, if_neg ha, if_pos hb, if_pos hb, getD_set_same _ _ (by omega), if_neg (by omega)]
  all_goals rfl

/-! ### What a bundle with a system register as its operand leaves -/

/-- A write of a system register leaves the counter and RAS blocks of every core. -/
theorem readPhys_writeSys {s : State} {k : Nat} {st : Strand} (n : Nat) (v : Word) (h : s.setStrandAt k st = s) (a m : Nat) :
    (writeSys s k n v).readPhys a m = s.readPhys a m := by
  have hmem := writeSys_mem n v h
  have hspace : (writeSys s k n v).space a = s.space a := by rw [State.space, State.space, writeSys_world n v h]
  have hcore : ∀ j, counterBlock ((writeSys s k n v).core j) = counterBlock (s.core j) ∧
      rasBlock ((writeSys s k n v).core j) = rasBlock (s.core j) := by
    intro j
    by_cases hj : j = keyCore k
    · rw [hj, writeSys_core_same n v h]
      exact ⟨rfl, rfl⟩
    · rw [writeSys_core_other n v h hj]
      exact ⟨rfl, rfl⟩
  unfold State.readPhys
  rw [hspace, hmem]
  cases s.space a <;> simp only [(hcore _).1, (hcore _).2]

/-- UIH is not among what a write of a system register changes. -/
theorem afterSys_bank (st : Strand) (n : Nat) (v : Word) : (afterSys st n v).bank = st.bank := by
  simp only [Strand.bank, afterSys, writeStrandSys_eq]

/-- A system register that lands changes that register and nothing else. -/
theorem kept_writeSys {s : State} {st : Strand} (n : Nat) (v : Word) (h : s.setStrandAt s.focus st = s) :
    Kept s (writeSys s s.focus n v) [] [] [n] fun _ => False := by
  have hst : s.strand = st := by simp only [State.strand, strandAt_of_placed h, Option.getD_some]
  have hst' := writeSys_strand n v h
  have hf := writeSys_focus n v h
  have hctx := writeSys_ctx_same n v h
  have hw := writeSys_world n v h
  exact {
    x := fun b m _ => by rw [hst', hf, hst]; simp only [readXAt, hctx]; rfl
    p := fun b m _ => by rw [hst', hf, hst]; simp only [readPAt, hctx]; rfl
    bank := by rw [hst', hst, afterSys_bank]
    b := by rw [hst', hst]; rfl
    sys := fun m hm _ => readSys_writeSys_other n v h (by simpa using hm)
    mem := fun a _ => readPhys_writeSys n v h a 1
    poison := fun _ => by rw [hw]
    spools := by rw [hst', hst]; rfl
    tags := by rw [hst', hst]; rfl
    arr := by rw [hst', hst]; rfl
    loops := by rw [hst', hst]; rfl
    rets := by rw [hst', hst]; rfl
    mode := by rw [hst', hst]; rfl
    families := by rw [hst', hst]; rfl
    entries := by rw [hst', hst]; exact ⟨rfl, rfl, rfl, rfl, rfl⟩
    ident := fun _ => by rw [hst', hst]; rfl
    context := by rw [hctx]; exact ⟨rfl, rfl⟩
    others := fun k hk => writeSys_ctx_other n v h hk
    core := fun h0 => absurd h0 (by simp)
    otherCores := fun k hk => writeSys_core_other n v h hk
    world := by rw [hw] }

/-- A system register read before a bundle issues reads the same when the bundle has passed, BUDGET apart. -/
theorem readSys_passed {i : Instr} {s : State} {n : Nat} (h : n ≠ 0x008) : readSys (passed (enter i s)) n = readSys s n :=
  kept_passed.sys n (by simp) h

/-- What the field table of BUDGET leaves does not depend on the count before. -/
theorem afterMts_budget (sup : Bool) (old old' v : Word) : afterMts sup 0x008 old v = afterMts sup 0x008 old' v := rfl

/-- A system register that a bundle of a calm strand sends lands as its field table says. -/
theorem settle_system {i : Instr} {s : State} {n : Nat} {v : Word} (hc : calm s = true) (hmap : sysRegMapped n = true)
    (hnw : neverWritten n = false) :
    ∃ u, settleIssue (sent (enter i s) 1 (.sys n v)) [] = u ∧ Kept s u [] [] [n] (fun _ => False) ∧
      readSys u n = afterMts (isSupervisor s.coreNo) n (readSys s n) v ∧ u.flights = [] := by
  have hp := passed_setStrandAt i s
  obtain ⟨hu, hk, hf, -⟩ := settle_result (i := i) (eff := .sys n v) (s2 := writeSys (passed (enter i s)) s.focus n v) hc rfl
    (fun f hf => by simp only [applyEffect, hf]) (writeSys_focus n v hp) (strandAt_of_placed (writeSys_placed n v hp)) rfl rfl
    (by rw [writeSys_placed n v hp]; exact kept_writeSys n v hp)
  rw [writeSys_placed n v hp] at hu hk hf
  refine ⟨_, hu, hk, (readSys_writeSys_same n v hp hmap hnw).trans ?_, hf⟩
  by_cases h8 : n = 0x008
  · rw [h8]
    exact afterMts_budget _ _ _ _
  · rw [readSys_passed h8]
    rfl

/-- A scalar result of a calm strand lands in its register, if it is not for x0, and leaves the rest. -/
theorem settle_scalar {i : Instr} {s : State} {n : Nat} {v : Word} (hc : calm s = true) (hn : n < 56) :
    ∃ u, settleIssue (if n = 0 then enter i s else sent (enter i s) 1 (.x s.strand.bank n v)) [] = u ∧
      Kept s u [n] [] [] (fun _ => False) ∧ u.x n = (if n = 0 then 0 else v) ∧ u.flights = [] ∧ u.strand.pos.pc = s.issue.next := by
  by_cases h0 : n = 0
  · subst h0
    exact ⟨_, settle_idle hc, kept_mono kept_passed (by simp) (by simp) (by simp) (fun _ h => h), rfl, passed_flights _, passed_pc i s⟩
  · have hs := passed_strandAt i s
    obtain ⟨_, st2, rfl, hst2, hrest, hkept, hv, -⟩ := write_x (v := v) hs hn h0
    obtain ⟨hu, hk, hf, hp⟩ := settle_result (eff := .x s.strand.bank n v) hc rfl
      (fun f hf => by simp only [applyEffect, hf, passed_bank, passed_focus, enter_focus]) (writeXAt_focus (passed (enter i s)) _ _ _ _) hst2
      hrest.rotate (pos_writeXAt hs hst2) hkept
    simp only [h0, if_false]
    exact ⟨_, hu, hk, hv, hf, hp⟩

/-! ### MTS and MFS -/

/-- The map lets a strand write a register that someone may write, at the privilege that it needs (R79). -/
theorem sysAccess_rw {n : Nat} {priv : Bool} (hnw : neverWritten n = false) (hp : supervisorWrite n = false ∨ priv = true) :
    (sysAccess n priv == .rw) = true := by
  simp only [neverWritten, Bool.or_eq_false_iff] at hnw
  obtain ⟨⟨⟨h3, h10⟩, h11⟩, h70⟩ := hnw
  unfold sysAccess
  simp only [h3, h10, h11, h70, Bool.or_self, Bool.false_eq_true, if_false]
  rcases hp with h | h
  · simp only [supervisorWrite, supervisorRead, Bool.or_eq_false_iff] at h
    obtain ⟨⟨⟨⟨h20, h1⟩, h8⟩, h31⟩, h32⟩ := h
    simp only [h20, h1, h8, h31, h32, Bool.or_self, Bool.false_eq_true, if_false]
    rfl
  · simp only [h, if_true]
    split
    · rfl
    · split <;> rfl

/-- The map lets a strand read a register at the privilege that it needs. -/
theorem sysAccess_read {n : Nat} {priv : Bool} (hp : supervisorRead n = false ∨ priv = true) : (sysAccess n priv != .none) = true := by
  unfold sysAccess
  rcases hp with h | h
  · simp only [supervisorRead] at h
    simp only [h, Bool.false_eq_true, if_false]
    split
    · rfl
    · split
      · cases priv <;> rfl
      · rfl
  · simp only [h, if_true]
    split
    · rfl
    · split
      · rfl
      · split <;> rfl

/-- A check that holds passes. -/
theorem check_passes {c : Bool} {cause : Nat} {info : Option Nat} {s : State} (h : c = true) : check c cause info s = .ok ((), s) := by
  simp [check, h]

/-- MTS sends the value to land a bundle-time later. -/
theorem mts_sends {s : State} {xa : XReg} {n : BitVec 12} (hc : calm s = true) (hnw : neverWritten n.toNat = false)
    (hp : supervisorWrite n.toNat = false ∨ s.priv = true) :
    exec (.mts xa n) s = .next (settleIssue (sent (enter (.mts xa n) s) 1 (.sys n.toNat (s.x xa.toNat))) []) := by
  obtain ⟨hi, -⟩ := calm_iff.1 hc
  refine issueOne_through hi (noPorts rfl) (noReports fun _ => rfl) ?_
  show (check (sysAccess n.toNat s.priv == .rw) cPrivilege none >>= fun _ => _) _ = _
  rw [op_bind_ok (check_passes (sysAccess_rw hnw hp)), op_bind_ok (getX_calm hc), emit_live rfl]

/-- MFS sends what the register reads. -/
theorem mfs_sends {s : State} {xd : XReg} {n : BitVec 12} (hc : calm s = true) (hp : supervisorRead n.toNat = false ∨ s.priv = true) :
    exec (.mfs xd n) s = .next (settleIssue (if xd.toNat = 0 then enter (.mfs xd n) s
      else sent (enter (.mfs xd n) s) 1 (.x s.strand.bank xd.toNat (readSys s n.toNat))) []) := by
  obtain ⟨hi, -, hf, hb, -⟩ := calm_iff.1 hc
  refine issueOne_through hi (noPorts rfl) (noReports fun _ => rfl) ?_
  show (check (sysAccess n.toNat s.priv != .none) cPrivilege none >>= fun _ => _) _ = _
  rw [op_bind_ok (check_passes (sysAccess_read hp))]
  exact putX_free rfl hf hb

/-- Settles O19: both send what lands a bundle-time later, a system register or a scalar one. -/
theorem systemRegisterFrame : Obligations.SystemRegisterFrame := by
  refine ⟨fun s xa n hc _ hmap hnw hp => ?_, fun s xd n hc hn _ hp => ?_⟩
  · obtain ⟨u, rfl, hu⟩ := settle_system (i := .mts xa n) (v := s.x xa.toNat) hc hmap hnw
    exact ⟨_, mts_sends hc hnw hp, hu⟩
  · obtain ⟨u, rfl, hu⟩ := settle_scalar (i := .mfs xd n) (v := readSys s n.toNat) hc hn
    exact ⟨_, mfs_sends hc hp, hu⟩

end Sys2Proof.Proofs
end

section
/-!
A bundle-time of a strand passes, and what is due lands (O41): results of every kind, and the flags behind them.
-/
namespace Sys2Proof.Proofs
open Sys2Proof Sys2Proof.Machine Sys2Proof.Laws Sys2Proof.Claims

/-! ### Landing -/

/-- With no array write due, what is due lands in the order in which it stands in flight. -/
theorem mergeDue_flights (fs : List Flight) : mergeDue fs.length fs [] = fs.map Due.flight := by
  cases fs <;> rfl

/-- A strand with these results in flight. -/
def carrying (st : Strand) (fs : List Flight) : Strand := { st with pos := { st.pos with line := { st.pos.line with flights := fs } } }

/-- The flags among results, and the results beside them. -/
def flagsIn (fs : List Flight) : List Flight := fs.filter fun f => f.eff.isFlags
def plainIn (fs : List Flight) : List Flight := fs.filter fun f => !f.eff.isFlags

/-- What is due lands: the results in their order, and then the flags, where none of their operations has been held or has failed. -/
theorem land_due {s s2 s3 : State} {k : Nat} {st st2 st3 : Strand} {fs : List Flight} (hs : s.strandAt k = some st)
    (hfs : st.pos.line.flights = fs) (hne : fs ≠ []) (hdue : ∀ f ∈ fs, f.due ≤ st.pos.line.bt) (hw : st.arr.writes = [])
    (hplain : landAll (s.setStrandAt k (carrying st [])) k (flagsIn fs) false ((plainIn fs).map Due.flight) (s.setStrandAt k (carrying st []))
      = ([], s2)) (hst2 : s2.strandAt k = some st2) (hq : ∀ f ∈ flagsIn fs, ∀ e ∈ st2.faults, e.seq ≠ f.seq)
    (hflags : (landAll (s.setStrandAt k (carrying st [])) k [] false ((flagsIn fs).map Due.flight) s2).2 = s3)
    (hst3 : s3.strandAt k = some st3) : land s k = (s3.setStrandAt k st3, false) := by
  have hnow : fs.filter (fun f => decide (f.due ≤ st.pos.line.bt)) = fs :=
    List.filter_eq_self.2 fun f hf => decide_eq_true (hdue f hf)
  have hlater : fs.filter (fun f => decide (st.pos.line.bt < f.due)) = [] :=
    List.filter_eq_nil_iff.2 fun f hf => by simpa using hdue f hf
  have harr : ({ st.arr with writes := [] } : Arr) = st.arr := by rw [← hw]
  have hpass : (flagsIn fs).filter (fun f => !flagsWait [] st2 f) = flagsIn fs :=
    List.filter_eq_self.2 fun f hf => by simpa [flagsWait] using hq f hf
  simp only [flagsIn, plainIn, carrying] at hplain hflags hpass
  unfold land
  simp only [hs, hfs, hnow, hlater, hw, List.filter_nil, ite_self, harr, List.length_nil, Nat.add_zero, mergeDue_flights, hplain, hst2,
    hpass, List.any_nil, List.filter_false, List.append_nil]
  simp [hne, hflags, hst3]

/-- One result lands. -/
theorem landAll_one {before s s' : State} {k : Nat} {fl : List Flight} {f : Flight} (h : applyEffect s k f = .done s') :
    landAll before k fl false [.flight f] s = ([], s') := by
  simp [landAll, h]

/-! ### A bundle-time passes -/

/-- While a bundle still occupies a strand its bundle-time passes. -/
theorem resultLanding_busy {s : State} {key core ctx : Nat} {st : Strand} (hkey : key = 2 * core + ctx) (hctx : ctx < 2)
    (hs : s.strandAt key = some st) (hi : (s.ctx key).state = .issuing) (hd : st.dead = false) (hh : st.halted = false)
    (h1 : st.frozen ≠ some .held) (h2 : st.frozen ≠ some .blocked) (hb : 0 < st.pos.line.busy) :
    exec (.resultLanding core ctx) s = .next (advance s key) := by
  have hk : keyOf core ctx = key := by rw [keyOf, hkey]; omega
  have ht : timePasses s key = true := by simp [timePasses, hs, hi, hd, hh, h1, h2, hb]
  show Host.Outcome.next (resultLanding s (keyOf core ctx)) = _
  rw [hk, resultLanding, if_pos ht]

/-- One bundle-time passes, and the one result in flight lands. -/
theorem advance_lands {s s2 : State} {k seq slot : Nat} {st st2 : Strand} {eff : Effect} (hs : s.strandAt k = some st)
    (hq : quietLine st = true) (hf : st.pos.line.flights = [⟨st.pos.line.bt + 1, seq, slot, eff⟩]) (hk : eff.isFlags = false)
    (ha : applyEffect (s.setStrandAt k (emptied st)) k ⟨st.pos.line.bt + 1, seq, slot, eff⟩ = .done s2)
    (hst2 : s2.strandAt k = some st2) (hr : st2.rotate = st.rotate) : advance s k = s2.setStrandAt k st2 := by
  simp only [quietLine, Bool.and_eq_true, List.isEmpty_iff, Bool.not_eq_true'] at hq
  obtain ⟨⟨-, hw⟩, hrot⟩ := hq
  exact advance_one hs hf le_rfl hk hw ha hst2 (hr.trans hrot)

/-- One bundle-time passes, and what is due lands, flags last. -/
theorem advance_due {s s2 s3 : State} {k : Nat} {st st2 st3 : Strand} {fs : List Flight} (hs : s.strandAt k = some st)
    (hq : quietLine st = true) (hfs : st.pos.line.flights = fs) (hne : fs ≠ []) (hdue : ∀ f ∈ fs, f.due = st.pos.line.bt + 1)
    (hplain : landAll (s.setStrandAt k (emptied st)) k (flagsIn fs) false ((plainIn fs).map Due.flight) (s.setStrandAt k (emptied st))
      = ([], s2)) (hst2 : s2.strandAt k = some st2) (hfaults : ∀ f ∈ flagsIn fs, ∀ e ∈ st2.faults, e.seq ≠ f.seq)
    (hflags : (landAll (s.setStrandAt k (emptied st)) k [] false ((flagsIn fs).map Due.flight) s2).2 = s3)
    (hst3 : s3.strandAt k = some st3) (hr : st3.rotate = st.rotate) : advance s k = s3.setStrandAt k st3 := by
  simp only [quietLine, Bool.and_eq_true, List.isEmpty_iff, Bool.not_eq_true'] at hq
  obtain ⟨⟨-, hw⟩, hrot⟩ := hq
  refine advance_of_land hs ?_ (strandAt_setStrandAt_same _ _ _) (hr.trans hrot)
  exact land_due (st := later st) (strandAt_setStrandAt_same _ _ _) hfs hne (fun f hf => (hdue f hf).le) hw
    (by rw [setStrandAt_twice]; exact hplain) hst2 hfaults (by rw [setStrandAt_twice]; exact hflags) hst3

/-! ### What stands after a landing -/

theorem strandAt_of_eq {u s : State} {k : Nat} {st : Strand} (h : u = s.setStrandAt k st) : u.strandAt k = some st := by
  rw [h]
  exact strandAt_setStrandAt_same _ _ _

/-- The system registers do not show what is in flight. -/
theorem readSys_emptied {s : State} {st : Strand} (hs : s.strandAt s.focus = some st) (n : Nat) :
    readSys (s.setStrandAt s.focus (emptied st)) n = readSys s n := by
  have hst : s.strand = st := by simp only [State.strand, hs, Option.getD_some]
  have hst' : (s.setStrandAt s.focus (emptied st)).strand = emptied st := strand_setStrandAt_focus _ _
  by_cases hn : n = 0x008
  · subst hn
    show (s.setStrandAt s.focus (emptied st)).strand.sys.budget = s.strand.sys.budget
    rw [hst, hst']
    rfl
  · exact sys_of (s := s) (t := s.setStrandAt s.focus (emptied st)) rfl (by rw [hst, hst']; rfl)
      (by rw [hst, hst']; rfl) (by rw [hst, hst']; rfl) (by rw [hst, hst']; rfl)
      (by rw [ctx_setStrandAt_same]) rfl rfl rfl n hn

theorem readXAt_setStrandAt (s : State) (k : Nat) (st st' : Strand) (b : RegBank) (n : Nat) :
    readXAt (s.setStrandAt k st') k st b n = readXAt s k st b n := by
  simp [readXAt]

theorem readPAt_setStrandAt (s : State) (k : Nat) (st st' : Strand) (b : RegBank) (n : Nat) :
    readPAt (s.setStrandAt k st') k st b n = readPAt s k st b n := by
  simp [readPAt]

/-- A scalar register that has been written reads back. -/
theorem readXAt_writeXAt {s : State} {k n : Nat} {st st2 : Strand} {b : RegBank} {v : Word} (hs : s.strandAt k = some st)
    (h2 : (writeXAt s k b n v).strandAt k = some st2) (h0 : n ≠ 0) (hn : n < 56) : readXAt (writeXAt s k b n v) k st2 b n = v := by
  unfold writeXAt at h2 ⊢
  simp only [hs, beq_eq_false_iff_ne.2 h0, Bool.false_eq_true, if_false] at h2 ⊢
  by_cases h48 : n < 48
  · simp only [h48, if_true, strandAt_setStrandAt_same, Option.some.injEq] at h2
    subst h2
    simp [readXAt, h0, h48, getD_set_same st.xs v hn]
  · have h8 : n - 48 < 8 := by omega
    cases b
    all_goals simp only [h48, if_false, strandAt_setStrandAt_same, Option.some.injEq] at h2 ⊢
    case main =>
      subst h2
      simp [readXAt, h0, h48, getD_set_same st.xs v hn]
    case trap =>
      simp [readXAt, h0, h48, getD_set_same (s.ctx k).trapX v h8]
    case shadow =>
      subst h2
      simp [readXAt, h0, h48, getD_set_same st.shadowX v h8]

/-- A predicate that has been written reads back. -/
theorem readPAt_writePAt {s : State} {k n : Nat} {st st2 : Strand} {b : RegBank} {v : Bool} (hs : s.strandAt k = some st)
    (h2 : (writePAt s k b n v).strandAt k = some st2) (h0 : n ≠ 0) (hn : n < 96) : readPAt (writePAt s k b n v) k st2 b n = v := by
  unfold writePAt at h2 ⊢
  simp only [hs, beq_eq_false_iff_ne.2 h0, Bool.false_eq_true, if_false] at h2 ⊢
  by_cases h88 : n < 88
  · simp only [h88, if_true, strandAt_setStrandAt_same, Option.some.injEq] at h2
    subst h2
    simp [readPAt, h0, h88, getLsbD_setBit_same st.ps v hn]
  · have h8 : n - 88 < 8 := by omega
    cases b
    all_goals simp only [h88, if_false, strandAt_setStrandAt_same, Option.some.injEq] at h2 ⊢
    case main =>
      subst h2
      simp [readPAt, h0, h88, getLsbD_setBit_same st.ps v hn]
    case trap =>
      simp [readPAt, h0, h88, getLsbD_setBit_same (s.ctx k).trapP v h8]
    case shadow =>
      subst h2
      simp [readPAt, h0, h88, getLsbD_setBit_same st.shadowP v h8]

@[simp] theorem writeXAt_mem (s : State) (k : Nat) (b : RegBank) (n : Nat) (v : Word) : (writeXAt s k b n v).mem = s.mem := by
  unfold writeXAt
  cases s.strandAt k with
  | none => rfl
  | some st =>
    simp only
    split
    · rfl
    · split
      · rfl
      · cases b <;> rfl

@[simp] theorem writePAt_mem (s : State) (k : Nat) (b : RegBank) (n : Nat) (v : Bool) : (writePAt s k b n v).mem = s.mem := by
  unfold writePAt
  cases s.strandAt k with
  | none => rfl
  | some st =>
    simp only
    split
    · rfl
    · split
      · rfl
      · cases b <;> rfl

/-- A write to memory proper, outside the counter and RAS blocks. -/
theorem writePhys_memory {s : State} {a : Nat} (data : List Byte) (h : isBlock (s.space a) = false) : s.writePhys a data =
    { s with mem := memPut s.mem a data, poison := s.poison.filter fun w => !(a ≤ w && w + s.eccUnit w ≤ a + data.length) } := by
  unfold State.writePhys
  cases hs : s.space a <;> simp_all [isBlock]

/-! ### Each kind of result -/

section
variable {s : State} {key seq slot : Nat} {st : Strand} (hs : s.strandAt key = some st) (hq : quietLine st = true)
include hs hq

theorem scalar_lands {n : Nat} {v : Word} (h0 : n ≠ 0) (hn : n < 56)
    (hf : st.pos.line.flights = [⟨st.pos.line.bt + 1, seq, slot, .x st.bank n v⟩]) :
    ∃ w, (advance s key).strandAt key = some w ∧ readXAt (advance s key) key w w.bank n = v ∧ w.pos.line.flights = [] ∧
      w.ps = st.ps ∧ w.bs = st.bs ∧ w.sys = st.sys ∧ (advance s key).mem = s.mem := by
  have hs0 : (s.setStrandAt key (emptied st)).strandAt key = some (emptied st) := strandAt_setStrandAt_same _ _ _
  obtain ⟨p, q, hw⟩ := strandAt_writeXAt (b := st.bank) (n := n) (v := v) hs0
  have ha := advance_lands hs hq hf rfl rfl hw rfl
  refine ⟨_, strandAt_of_eq ha, ?_, rfl, rfl, rfl, rfl, by rw [ha]; exact writeXAt_mem _ _ _ _ _⟩
  rw [ha, readXAt_setStrandAt]
  exact readXAt_writeXAt hs0 hw h0 hn

theorem predicate_lands {n : Nat} {v : Bool} (h0 : n ≠ 0) (hn : n < 96)
    (hf : st.pos.line.flights = [⟨st.pos.line.bt + 1, seq, slot, .p st.bank n v⟩]) :
    ∃ w, (advance s key).strandAt key = some w ∧ readPAt (advance s key) key w w.bank n = v ∧ w.pos.line.flights = [] ∧
      w.xs = st.xs ∧ w.bs = st.bs ∧ w.sys = st.sys ∧ (advance s key).mem = s.mem := by
  have hs0 : (s.setStrandAt key (emptied st)).strandAt key = some (emptied st) := strandAt_setStrandAt_same _ _ _
  obtain ⟨p, q, hw⟩ := strandAt_writePAt (b := st.bank) (n := n) (v := v) hs0
  have ha := advance_lands hs hq hf rfl rfl hw rfl
  refine ⟨_, strandAt_of_eq ha, ?_, rfl, rfl, rfl, rfl, by rw [ha]; exact writePAt_mem _ _ _ _ _⟩
  rw [ha, readPAt_setStrandAt]
  exact readPAt_writePAt hs0 hw h0 hn

theorem branchRegister_lands {n : Nat} {v : CodeAddr} (hn : n < 8)
    (hf : st.pos.line.flights = [⟨st.pos.line.bt + 1, seq, slot, .b n v⟩]) :
    ∃ w, (advance s key).strandAt key = some w ∧ w.bs.getD n 0 = v ∧ (∀ m, m ≠ n → w.bs.getD m 0 = st.bs.getD m 0) ∧
      w.pos.line.flights = [] ∧ w.xs = st.xs ∧ w.ps = st.ps ∧ w.sys = st.sys ∧ (advance s key).mem = s.mem := by
  have ha := advance_lands (st2 := { emptied st with bs := st.bs.setIfInBounds n v }) hs hq hf rfl
    (by simp only [applyEffect, strandAt_setStrandAt_same]; rfl) (strandAt_setStrandAt_same _ _ _) rfl
  exact ⟨_, strandAt_of_eq ha, getD_set_same _ _ hn, fun m hm => getD_set_other _ _ hm, rfl, rfl, rfl,
    rfl, by rw [ha]; rfl⟩

theorem system_lands {n : Nat} {v : Word} (hfoc : s.focus = key) (hmap : sysRegMapped n = true) (hnw : neverWritten n = false)
    (hf : st.pos.line.flights = [⟨st.pos.line.bt + 1, seq, slot, .sys n v⟩]) :
    ∃ w, (advance s key).strandAt key = some w ∧ (advance s key).focus = key ∧
      readSys (advance s key) n = afterMts (isSupervisor s.coreNo) n (readSys s n) v ∧
      (∀ m, m ≠ n → readSys (advance s key) m = readSys s m) ∧ w.pos.line.flights = [] ∧ w.xs = st.xs ∧ w.ps = st.ps ∧ w.bs = st.bs ∧
      (advance s key).mem = s.mem := by
  subst hfoc
  have hp : (s.setStrandAt s.focus (emptied st)).setStrandAt (s.setStrandAt s.focus (emptied st)).focus (emptied st) =
    s.setStrandAt s.focus (emptied st) := setStrandAt_twice _ _ _ _
  have ha := advance_lands hs hq hf rfl rfl (strandAt_of_placed (writeSys_placed n v hp)) rfl
  have ha' := ha.trans (writeSys_placed n v hp)
  refine ⟨_, strandAt_of_eq ha, ?_, ?_, fun m hm => ?_, rfl, rfl, rfl, rfl, ?_⟩ <;> rw [ha']
  · exact writeSys_focus n v hp
  · rw [← readSys_emptied hs]
    exact readSys_writeSys_same n v hp hmap hnw
  · rw [← readSys_emptied hs]
    exact readSys_writeSys_other n v hp hm
  · exact writeSys_mem n v hp

theorem bytes_land {a : Nat} {data : List Byte} (hwf : Memory.wf s.mem = true) (hb : isBlock (s.space a) = false)
    (hf : st.pos.line.flights = [⟨st.pos.line.bt + 1, seq, slot, .bytes a data⟩]) :
    ∃ w, (advance s key).strandAt key = some w ∧ (∀ k, k < data.length → memGet (advance s key).mem (a + k) = data.getD k 0) ∧
      (∀ x, x < a ∨ a + data.length ≤ x → memGet (advance s key).mem x = memGet s.mem x) ∧ w.pos.line.flights = [] ∧ w.xs = st.xs ∧
      w.ps = st.ps ∧ w.bs = st.bs ∧ w.sys = st.sys := by
  have ha := advance_lands (st2 := emptied st) hs hq hf rfl
    (by simp only [applyEffect]; rw [writePhys_memory data (by exact hb)]) (by exact strandAt_setStrandAt_same _ _ _) rfl
  have hm : (advance s key).mem = memPut s.mem a data := by rw [ha]; rfl
  refine ⟨_, strandAt_of_eq ha, fun k hk => ?_, fun x hx => ?_, rfl, rfl, rfl, rfl, rfl⟩ <;> rw [hm]
  · rw [memGet_memPut_same hwf hk, List.getD_eq_getElem _ _ hk]
  · exact memGet_memPut_other _ _ hx

theorem flags_land {x : Nat} (hfaults : ∀ e ∈ st.faults, e.seq ≠ seq)
    (hf : st.pos.line.flights = [⟨st.pos.line.bt + 1, seq, slot, .flags x⟩]) :
    ∃ w, (advance s key).strandAt key = some w ∧
      w.sys = { st.sys with fflags := (st.sys.fflags ||| BitVec.ofNat 64 x) &&& 0x1F } ∧ w.pos.line.flights = [] ∧ w.xs = st.xs ∧
      w.ps = st.ps ∧ w.bs = st.bs ∧ (advance s key).mem = s.mem := by
  have ha := advance_due (st2 := emptied st) (st3 := { emptied st with sys := { st.sys with fflags := accrue st.sys.fflags x } }) hs hq hf
    (by simp) (by simp) rfl (strandAt_setStrandAt_same _ _ _) (by simpa [flagsIn, Effect.isFlags, emptied] using hfaults)
    (congrArg Prod.snd (landAll_one (by simp only [applyEffect, strandAt_setStrandAt_same]; rfl))) (strandAt_setStrandAt_same _ _ _) rfl
  exact ⟨_, strandAt_of_eq ha, rfl, rfl, rfl, rfl, rfl, by rw [ha]; rfl⟩

/-- Flags accrue behind an MTS of FFLAGS that lands with them, whichever of the two was sent first (R114, R115). -/
theorem flags_land_behind {slot' seq' x : Nat} {v : Word} {fs : List Flight} (hfaults : ∀ e ∈ st.faults, e.seq ≠ seq)
    (hfs : st.pos.line.flights = fs) (hdue : ∀ f ∈ fs, f.due = st.pos.line.bt + 1)
    (hflags : flagsIn fs = [⟨st.pos.line.bt + 1, seq, slot, .flags x⟩])
    (hplain : plainIn fs = [⟨st.pos.line.bt + 1, seq', slot', .sys 0x005 v⟩]) :
    ∃ w, (advance s key).strandAt key = some w ∧ w.sys = { st.sys with fflags := (v ||| BitVec.ofNat 64 x) &&& 0x1F } ∧
      w.pos.line.flights = [] ∧ w.xs = st.xs ∧ (advance s key).mem = s.mem := by
  have hne : fs ≠ [] := by
    rintro rfl
    exact absurd hflags (by simp [flagsIn])
  have hp : (s.setStrandAt key (emptied st)).setStrandAt key (emptied st) = s.setStrandAt key (emptied st) := setStrandAt_twice _ _ _ _
  have hsys := strandAt_of_placed (writeSys_placed 0x005 v hp)
  have ha := advance_due (st3 := { afterSys (emptied st) 0x005 v with
      sys := { st.sys with fflags := accrue (v &&& fflagsMask) x } }) hs hq hfs hne hdue
    (by rw [hplain]; exact landAll_one rfl) hsys (by simpa [hflags, emptied, afterSys] using hfaults)
    (by rw [hflags]; exact congrArg Prod.snd (landAll_one (by simp only [applyEffect, hsys]; rfl))) (strandAt_setStrandAt_same _ _ _) rfl
  refine ⟨_, strandAt_of_eq ha, ?_, rfl, rfl, ?_⟩
  · show ({ st.sys with fflags := accrue (v &&& fflagsMask) x } : SysRegs) = _
    rw [accrue, fflagsMask, BitVec.and_or_distrib_right, BitVec.and_or_distrib_right, BitVec.and_assoc, BitVec.and_self]
    rfl
  · rw [ha]
    exact writeSys_mem 0x005 v hp

end

/-! ### An idle bundle -/

/-- A bundle of no operation goes through. -/
theorem issueOps_nil {s : State} (hi : s.issuing = true) : issueOps [] s = .next (settleIssue (beginIssue s) []) := by
  have hr : bundleReport (beginIssue s) [] = none := reportDue_zero _ _ _
  simp [issueOps, judge, hi, runBundle, hr, portConflict]

/-- The state in which a bundle is at issue that is to occupy k bundle-times. -/
def idling (s : State) (k : BitVec 3) (q : BitVec 1) : State := { s with issue := { s.issue with idle := k.toNat - 1, q := q == 1 } }

/-- The idle bundle of a calm strand issues, and its first bundle-time passes. -/
theorem idleBundle_passes {s : State} {k : BitVec 3} {q : BitVec 1} (hc : calm s = true) :
    exec (.idleBundle k q) s = .next (passed (enter (.idleBundle k q) (idling s k q))) := by
  have hc' : calm (idling s k q) = true := hc
  rw [← settle_idle hc']
  exact issueOps_nil (calm_iff.1 hc').1

/-- It occupies the strand for the bundle-times that are left of it. -/
theorem passed_line (i : Instr) (s : State) : (passed (enter i s)).strand.pos.line.bt = s.strand.pos.line.bt + 1 ∧
    (passed (enter i s)).strand.pos.line.busy = s.issue.idle := by
  rw [strand_passed]
  refine ⟨congrArg (· + 1) (issued_bt _ _), (congrArg (· - 1) (issued_busy _ _)).trans ?_⟩
  show 1 + s.issue.idle + 0 - 1 = s.issue.idle
  omega

/-- Settles O41: the idle bundle passes as every bundle without a result does, and a bundle-time's landing is that of its one result. -/
theorem bundleTime : Obligations.BundleTime := by
  refine ⟨fun s k q hc _ => ?_, fun s key core ctx st hkey hctx hs hi hd hh h1 h2 hb hq => ?_⟩
  · obtain ⟨hbt, hbusy⟩ := passed_line (.idleBundle k q) (idling s k q)
    exact ⟨_, idleBundle_passes hc, Kept_trans (kept_issue s _) kept_passed rfl, passed_flights _, passed_pc _ _, hbt, hbusy⟩
  · have he := resultLanding_busy hkey hctx hs hi hd hh h1 h2 hb
    have hcore : key / 2 = core := by omega
    refine ⟨fun hf => ?_, fun seq slot n v h0 hn hf => ⟨advance s key, ?_⟩,
      fun seq slot n v h0 hn hf => ⟨advance s key, ?_⟩, fun seq slot n v hn hf => ⟨advance s key, ?_⟩,
      fun seq slot n v hfoc hmap hnw hf => ⟨advance s key, ?_⟩, fun seq slot a data hwf hblk hf => ⟨advance s key, ?_⟩,
      fun seq slot x hfaults hf => ⟨advance s key, ?_⟩,
      fun seq slot seq' slot' x v f g hfaults hf hg hfs => ⟨advance s key, ?_⟩⟩
    · simp only [quietLine, Bool.and_eq_true, List.isEmpty_iff, Bool.not_eq_true'] at hq
      obtain ⟨⟨-, hw⟩, hr⟩ := hq
      rw [he, advance_none hs hf hw hr]
      rfl
    all_goals refine exists_and_left.2 ⟨he, ?_⟩
    · exact scalar_lands hs hq h0 hn hf
    · exact predicate_lands hs hq h0 hn hf
    · exact branchRegister_lands hs hq hn hf
    · have hno : s.coreNo = core := by rw [State.coreNo, hfoc, keyCore, hcore]
      rw [← hno]
      exact system_lands hs hq hfoc hmap hnw hf
    · exact bytes_land hs hq hwf hblk hf
    · exact flags_land hs hq hfaults hf
    · subst hf hg
      rcases hfs with hfs | hfs
      · exact flags_land_behind hs hq hfaults hfs (by simp) rfl rfl
      · exact flags_land_behind hs hq hfaults hfs (by simp) rfl rfl

end Sys2Proof.Proofs
end

section
/-!
A local scalar store of a calm strand (O22): what its access was found to be, the bytes that it writes, and what its bundle leaves.
-/
namespace Sys2Proof.Proofs
open Sys2Proof Sys2Proof.Machine Sys2Proof.Laws Sys2Proof.Claims

/-! ### The access -/

/-- What follows an operation runs on what it left. -/
theorem op_bind_inv {α β : Type} {x : Op α} {f : α → Op β} {s : State} {r : β × State} (h : (x >>= f) s = .ok r) :
    ∃ a s1, x s = .ok (a, s1) ∧ f a s1 = .ok r := by
  cases hx : x s with
  | error e => simp [bind, StateT.bind, Except.bind, hx] at h
  | ok p => exact ⟨p.1, p.2, rfl, by simpa [bind, StateT.bind, Except.bind, hx] using h⟩

/-- The end of an access: its pages' maps make it, or its fault is taken. -/
theorem formed_of_ok {va n second : Nat} {need : Need} {word : Bool} {m1 : Option PageMap} {m2 : Option (Option PageMap)} {s s' : State}
    {a : Access}
    (h : (do
      let s ← get
      match formAccess s va n need word s.priv m1 second m2 with
      | .ok a => pure a
      | .error r => raiseNow r : Op Access) s = .ok (a, s')) :
    formAccess s' va n need word s'.priv m1 second m2 = .ok a := by
  obtain ⟨s1, s2, hget, h⟩ := op_bind_inv h
  obtain ⟨rfl, rfl⟩ : s = s1 ∧ s = s2 := by simpa [get, getThe, MonadStateOf.get, StateT.get, pure, Except.pure] using hget
  cases hform : formAccess s va n need word s.priv m1 second m2 with
  | error r =>
    rw [hform] at h
    exact absurd h (by simp [raiseNow, failAt])
  | ok b =>
    rw [hform] at h
    obtain ⟨rfl, rfl⟩ : b = a ∧ s = s' := by simpa [pure, StateT.pure, Except.pure] using h
    exact hform

/-- An access that a strand has made was put together from the maps of its pages. -/
theorem strandAccess_formed {va n : Nat} {need : Need} {word : Bool} {s s' : State} {a : Access}
    (h : strandAccess va n need word s = .ok (a, s')) :
    ∃ m1 second m2, formAccess s' va n need word s'.priv m1 second m2 = .ok a := by
  unfold strandAccess at h
  split at h
  · obtain ⟨_, _, hfail, -⟩ := op_bind_inv h
    exact absurd hfail (by simp [fail, raiseNow, failAt])
  · obtain ⟨m1, s1, -, h⟩ := op_bind_inv h
    cases hc : crossing va n m1 with
    | none =>
      simp only [hc] at h
      obtain ⟨m2, s2, -, h⟩ := op_bind_inv h
      exact ⟨_, _, _, formed_of_ok h⟩
    | some b =>
      simp only [hc] at h
      split at h
      · obtain ⟨_, s2, -, h⟩ := op_bind_inv h
        obtain ⟨m2, s3, -, h⟩ := op_bind_inv h
        exact ⟨_, _, _, formed_of_ok h⟩
      · obtain ⟨m2, s2, -, h⟩ := op_bind_inv h
        exact ⟨_, _, _, formed_of_ok h⟩

/-- The first piece of an access of some bytes holds some of them. -/
theorem piecesOf_head {va n : Nat} (hn : 0 < n) (m1 : PageMap) (m2 : Option PageMap) :
    ∃ p k rest, piecesOf va n m1 m2 = (p, k) :: rest ∧ 0 < k := by
  cases m2 with
  | none => exact ⟨_, _, _, rfl, hn⟩
  | some m2 =>
    have := Nat.mod_lt va (Nat.two_pow_pos m1.bits)
    exact ⟨_, _, _, rfl, by omega⟩

/-- An access that was put together lies in one space. -/
theorem spaceCheck_ok {s : State} {ps : List (Nat × Nat)} {sp : Space} (h : spaceCheck s ps = .ok sp) :
    ps ≠ [] ∧ ∀ p ∈ ps, s.space p.1 = sp := by
  unfold spaceCheck at h
  cases hl : ps.flatMap fun p => [s.space p.1, s.space (p.1 + p.2 - 1)] with
  | nil => simp [hl] at h
  | cons x l =>
    simp only [hl] at h
    split at h
    · simp at h
    · split at h
      · rename_i hall
        obtain rfl : x = sp := by simpa using h
        refine ⟨fun h0 => by simp [h0] at hl, fun p hp => ?_⟩
        have hm : s.space p.1 ∈ x :: l := hl ▸ List.mem_flatMap.2 ⟨p, hp, by simp⟩
        simpa using List.all_eq_true.1 hall _ hm
      · simp at h

/-- What an access put together from the maps of its pages has been found to be. -/
theorem formAccess_ok {s : State} {va n second : Nat} {need : Need} {word priv : Bool} {m1 : Option PageMap}
    {m2 : Option (Option PageMap)} {a : Access} (h : formAccess s va n need word priv m1 second m2 = .ok a) :
    ∃ m, a.pieces = piecesOf va n m (m2.getD none) ∧ blockMisaligned s word a.pieces = false ∧
      spaceCheck s a.pieces = .ok a.space := by
  unfold formAccess at h
  rcases m1 with _ | m
  · simp [pageCause, blockMisaligned] at h
  · rcases m2 with _ | _ | m'
    rotate_left
    · simp [pageCause, blockMisaligned] at h
    all_goals
      simp only at h
      split at h
      · simp at h
      · rename_i hb
        split at h
        · split at h
          · simp at h
          · rename_i hsp
            obtain rfl := Except.ok.inj h
            exact ⟨m, rfl, by simpa using hb, hsp⟩
        · simp at h

/-- A piece of an access in a counter or RAS block is one aligned word. -/
theorem block_aligned {s : State} {word : Bool} {ps : List (Nat × Nat)} (h : blockMisaligned s word ps = false) {p : Nat × Nat}
    (hp : p ∈ ps) (hb : isBlock (s.space p.1) = true) : ps.length = 1 ∧ p.2 = 8 ∧ p.1 % 8 = 0 := by
  have hhome : homePiece s p = p := by
    unfold homePiece
    cases hs : s.space p.1 <;> simp_all [isBlock]
  have h1 := Bool.eq_false_of_not_eq_true (List.any_eq_false.1 h p (List.mem_map.2 ⟨p, hp, hhome⟩))
  have h2 := List.any_eq_false.1 h1 p.1 (by simp)
  cases hs : s.space p.1 <;> simp_all [isBlock]

/-- An access that was put together has a first piece with bytes in it, lies in one space, and in a counter or RAS block it is one
aligned word. -/
structure Formed (s : State) (a : Access) : Prop where
  first : ∃ p ∈ a.pieces, 0 < p.2
  space : ∀ p ∈ a.pieces, s.space p.1 = a.space
  block : isBlock a.space = true → ∃ p, a.pieces = [(p, 8)] ∧ p % 8 = 0

theorem strandAccess_ok {va n : Nat} {need : Need} {word : Bool} {s s' : State} {a : Access} (hn : 0 < n)
    (h : strandAccess va n need word s = .ok (a, s')) : Formed s' a := by
  obtain ⟨m1, second, m2, h⟩ := strandAccess_formed h
  obtain ⟨m, hps, hb, hsp⟩ := formAccess_ok h
  obtain ⟨p, k, rest, hhead, hk⟩ := piecesOf_head (va := va) hn m (m2.getD none)
  obtain ⟨-, hspace⟩ := spaceCheck_ok hsp
  have hmem : (p, k) ∈ a.pieces := by rw [hps, hhead]; exact List.mem_cons_self
  refine ⟨⟨_, hmem, hk⟩, hspace, fun hblk => ?_⟩
  obtain ⟨hl, h8, h0⟩ := block_aligned hb hmem (by rw [hspace _ hmem]; exact hblk)
  obtain ⟨q, hq⟩ := List.length_eq_one_iff.1 hl
  obtain rfl : (p, k) = q := by simpa [hq] using hmem
  exact ⟨p, by rw [hq, ← h8], h0⟩

/-! ### The bytes of a number -/

theorem length_leBytes (n v : Nat) : (leBytes n v).length = n := by
  induction n generalizing v with
  | zero => rfl
  | succ n ih => simp [leBytes, ih]

/-- Byte k of the bytes of a word, lowest first (R3). -/
theorem leBytes_getElem {n k : Nat} (v : Nat) (h : k < (leBytes n v).length) : (leBytes n v)[k] = BitVec.ofNat 8 (v / 256 ^ k) := by
  induction n generalizing v k with
  | zero => simp [leBytes] at h
  | succ n ih =>
    cases k with
    | zero => simp [leBytes]
    | succ k =>
      simp only [leBytes, List.getElem_cons_succ, ih]
      rw [Nat.div_div_eq_div_mul, Nat.pow_succ, Nat.mul_comm 256]

theorem leBytes_word {n k : Nat} (v : Word) (h : k < (leBytes n v.toNat).length) : (leBytes n v.toNat)[k] = v.extractLsb' (8 * k) 8 := by
  rw [leBytes_getElem]
  apply BitVec.eq_of_toNat_eq
  rw [BitVec.toNat_ofNat, BitVec.extractLsb'_toNat, Nat.shiftRight_eq_div_pow, Nat.pow_mul]

/-! ### Bytes in memory -/

/-- Bytes written over pieces of memory proper leave every byte outside the pieces. -/
theorem writePieces_memory {ps : List (Nat × Nat)} {s : State} (data : List Byte) (h : ∀ p ∈ ps, isBlock (s.space p.1) = false) :
    ∃ m q, s.writePieces ps data = { s with mem := m, poison := q } ∧
      ∀ x, (¬ ∃ p ∈ ps, p.1 ≤ x ∧ x < p.1 + p.2) → memGet m x = memGet s.mem x := by
  induction ps generalizing s data with
  | nil => exact ⟨_, _, rfl, fun _ _ => rfl⟩
  | cons p ps ih =>
    obtain ⟨a, n⟩ := p
    have hb : isBlock (s.space a) = false := h _ List.mem_cons_self
    rw [State.writePieces, writePhys_memory _ hb]
    obtain ⟨m, q, hw, hm⟩ := ih (s := { s with
      mem := memPut s.mem a (data.take n)
      poison := s.poison.filter fun w => !(a ≤ w && w + s.eccUnit w ≤ a + (data.take n).length) }) (data.drop n)
      fun p hp => h p (List.mem_cons_of_mem _ hp)
    refine ⟨m, q, hw, fun x hx => (hm x fun ⟨p, hp, hr⟩ => hx ⟨p, List.mem_cons_of_mem _ hp, hr⟩).trans ?_⟩
    refine memGet_memPut_other _ _ ?_
    have hl : (data.take n).length ≤ n := List.length_take_le _ _
    by_contra hcon
    exact hx ⟨(a, n), List.mem_cons_self, by simp only; omega⟩

/-- A read of one byte sees of memory that byte. -/
theorem readPhys_memory {s : State} {m : List Host.Cell} {q : List Nat} {x : Nat} (h : memGet m x = memGet s.mem x) :
    ({ s with mem := m, poison := q } : State).readPhys x 1 = s.readPhys x 1 := by
  unfold State.readPhys
  rw [show ({ s with mem := m, poison := q } : State).space x = s.space x from rfl]
  cases s.space x <;> simp only [memBytes, h] <;> rfl

/-- Where only bytes of memory proper change, every other byte stands as it was. -/
theorem kept_memory {s : State} {bytes : Nat → Prop} {m : List Host.Cell} {q : List Nat} (hne : ∃ x, bytes x)
    (hm : ∀ x, ¬ bytes x → memGet m x = memGet s.mem x) : Kept s { s with mem := m, poison := q } [] [] [] bytes :=
  kept_of_ctxs rfl rfl (fun _ => rfl) (fun x hx => readPhys_memory (hm x hx)) (fun h => absurd hne (not_exists.2 h)) (fun _ => rfl)
    (fun _ _ => rfl) rfl

/-! ### The counter and RAS blocks -/

/-- A byte outside a word of a block does not show the word. -/
theorem byte_outside {pre mid mid' post : List Byte} {j : Nat} (hl : mid.length = mid'.length)
    (h : j < pre.length ∨ pre.length + mid.length ≤ j) :
    ((pre ++ (mid ++ post)).drop j).take 1 = ((pre ++ (mid' ++ post)).drop j).take 1 := by
  rw [List.take_one, List.take_one, List.head?_drop, List.head?_drop]
  rcases h with h | h
  · rw [List.getElem?_append_left h, List.getElem?_append_left h]
  · rw [List.getElem?_append_right (by omega), List.getElem?_append_right (by omega), List.getElem?_append_right (by omega),
      List.getElem?_append_right (by omega), hl]

/-- A write of a word of the counter block leaves the bytes outside it. -/
theorem counterBlock_write (c : Core) {o j : Nat} (v : Word) (h : j < o ∨ o + 8 ≤ j) :
    ((counterBlock (writeCounter c o v)).drop j).take 1 = ((counterBlock c).drop j).take 1 := by
  unfold writeCounter
  split
  · obtain rfl : o = 0 := by simpa using ‹(o == 0) = true›
    simp only [counterBlock, List.append_assoc]
    exact byte_outside (pre := []) (mid := leBytes 8 v.toNat) (mid' := leBytes 8 c.anan.toNat) (by simp only [length_leBytes])
      (by simp only [length_leBytes]; simpa using h)
  · split
    · obtain rfl : o = 8 := by simpa using ‹(o == 8) = true›
      simp only [counterBlock, List.append_assoc]
      exact byte_outside (pre := leBytes 8 c.anan.toNat) (mid := leBytes 8 v.toNat) (by simp only [length_leBytes])
        (by simp only [length_leBytes]; omega)
    · rfl

/-- It leaves the core's system registers and its RAS block. -/
theorem writeCounter_rest (c : Core) (o : Nat) (v : Word) : (writeCounter c o v).tvec = c.tvec ∧ (writeCounter c o v).bfmt = c.bfmt ∧
    rasBlock (writeCounter c o v) = rasBlock c := by
  unfold writeCounter
  split
  · exact ⟨rfl, rfl, rfl⟩
  · split <;> exact ⟨rfl, rfl, rfl⟩

/-- A write of a word of the RAS block leaves the bytes outside it. -/
theorem rasBlock_write (c : Core) {o j : Nat} (v : Word) (h : j < o ∨ o + 8 ≤ j) :
    ((rasBlock (writeRas c o v)).drop j).take 1 = ((rasBlock c).drop j).take 1 := by
  unfold writeRas
  split
  · obtain rfl : o = 0 := by simpa using ‹(o == 0) = true›
    simp only [rasBlock, List.append_assoc]
    exact byte_outside (pre := []) (mid := leBytes 8 v.toNat) (mid' := leBytes 8 c.cecnt.toNat) (by simp only [length_leBytes])
      (by simp only [length_leBytes]; simpa using h)
  · split
    · obtain rfl : o = 8 := by simpa using ‹(o == 8) = true›
      simp only [rasBlock, List.append_assoc]
      exact byte_outside (pre := leBytes 8 c.cecnt.toNat) (mid := leBytes 8 v.toNat) (by simp only [length_leBytes])
        (by simp only [length_leBytes]; omega)
    · rfl

theorem writeRas_rest (c : Core) (o : Nat) (v : Word) : (writeRas c o v).tvec = c.tvec ∧ (writeRas c o v).bfmt = c.bfmt ∧
    counterBlock (writeRas c o v) = counterBlock c := by
  unfold writeRas
  split
  · exact ⟨rfl, rfl, rfl⟩
  · split <;> exact ⟨rfl, rfl, rfl⟩

/-- The line of 64 bytes in which a block of a core stands. -/
theorem counter_line {c a n : Nat} (h : spaceOf c a = .counter n) : a / 64 = (2 ^ 40 + n * 0x800000 + 0x700000) / 64 := by
  unfold spaceOf at h
  simp only at h
  repeat' split at h
  all_goals simp only [Space.counter.injEq, reduceCtorEq] at h
  simp only [Bool.and_eq_true, decide_eq_true_eq] at *
  omega

theorem ras_line {c a n : Nat} (h : spaceOf c a = .ras n) : a / 64 = (2 ^ 40 + n * 0x800000 + 0x700040) / 64 := by
  unfold spaceOf at h
  simp only at h
  repeat' split at h
  all_goals simp only [Space.ras.injEq, reduceCtorEq] at h
  simp only [Bool.and_eq_true, decide_eq_true_eq] at *
  omega

/-- Bytes of one line outside an aligned word of it. -/
theorem outside_word {a x q : Nat} (ha : a / 64 = q) (hx : x / 64 = q) (h8 : a % 8 = 0) (h : ¬ (a ≤ x ∧ x < a + 8)) :
    x % 64 < a % 64 ∨ a % 64 + 8 ≤ x % 64 := by
  omega

/-- Where only the counts of the core in focus change, everything stands but the bytes that show them. -/
theorem kept_setCore {s : State} {c : Core} {bytes : Nat → Prop} (hne : ∃ x, bytes x) (ht : c.tvec = (s.core s.coreNo).tvec)
    (hb : c.bfmt = (s.core s.coreNo).bfmt)
    (hm : ∀ x, ¬ bytes x → (s.setCore s.coreNo c).readPhys x 1 = s.readPhys x 1) :
    Kept s (s.setCore s.coreNo c) [] [] [] bytes := by
  refine kept_of_ctxs rfl rfl (fun n => ?_) hm (fun h => absurd hne (not_exists.2 h)) (fun h => absurd hne (not_exists.2 h))
    (fun _ hk => core_setCore_other _ _ hk) rfl
  have hc : (s.setCore s.coreNo c).core (s.setCore s.coreNo c).coreNo = c := core_setCore_same _ _ _
  unfold readSys
  rw [hc, ht, hb]
  rfl

/-- A read of one byte of another space, or of another core's block, does not see a core's counts. -/
theorem readPhys_setCore {s : State} {n : Nat} {c : Core} {x : Nat}
    (hc : s.space x = .counter n → ((counterBlock c).drop (x % 64)).take 1 = ((counterBlock (s.core n)).drop (x % 64)).take 1)
    (hr : s.space x = .ras n → ((rasBlock c).drop (x % 64)).take 1 = ((rasBlock (s.core n)).drop (x % 64)).take 1) :
    (s.setCore n c).readPhys x 1 = s.readPhys x 1 := by
  have hs : (s.setCore n c).space x = s.space x := rfl
  unfold State.readPhys
  rw [hs]
  cases hx : s.space x with
  | counter k =>
    by_cases hk : k = n
    · subst hk
      simpa using hc hx
    · simp only [core_setCore_other _ _ hk]
  | ras k =>
    by_cases hk : k = n
    · subst hk
      simpa using hr hx
    · simp only [core_setCore_other _ _ hk]
  | _ => rfl

/-- A word written to the counter or RAS block of the core in focus changes the bytes of the word, and nothing else. -/
theorem kept_writeBlock {s : State} {a : Nat} (data : List Byte) (hb : isBlock (s.space a) = true)
    (hl : localSpace s (s.space a) = true) (h8 : a % 8 = 0) :
    Kept s (s.writePhys a data) [] [] [] (fun x => a ≤ x ∧ x < a + 8) := by
  have hne : ∃ x, a ≤ x ∧ x < a + 8 := ⟨a, le_rfl, by omega⟩
  unfold State.writePhys
  cases hs : s.space a with
  | counter n =>
    obtain rfl : n = s.coreNo := by simpa [hs, localSpace] using hl
    obtain ⟨ht, hf, hr⟩ := writeCounter_rest (s.core s.coreNo) (a % 64) (BitVec.ofNat 64 (leNat data))
    exact kept_setCore hne ht hf fun x hx => readPhys_setCore
      (fun hxs => counterBlock_write _ _ (outside_word (counter_line hs) (counter_line hxs) h8 hx)) fun _ => by rw [hr]
  | ras n =>
    obtain rfl : n = s.coreNo := by simpa [hs, localSpace] using hl
    have ho : (a - 64) % 64 = a % 64 := by
      have := ras_line hs
      omega
    obtain ⟨ht, hf, hc⟩ := writeRas_rest (s.core s.coreNo) (a % 64) (BitVec.ofNat 64 (leNat data))
    simp only [ho]
    exact kept_setCore hne ht hf fun x hx => readPhys_setCore (fun _ => by rw [hc])
      fun hxs => rasBlock_write _ _ (outside_word (ras_line hs) (ras_line hxs) h8 hx)
  | _ => simp [hs, isBlock] at hb

/-- Bytes written over the pieces of a local access change those bytes and nothing else. -/
theorem kept_writePieces {s : State} {a : Access} (data : List Byte) (ha : Formed s a) (hl : localSpace s a.space = true) :
    Kept s (s.writePieces a.pieces data) [] [] [] (bytesOf a) := by
  cases hb : isBlock a.space with
  | false =>
    obtain ⟨p, hp, h0⟩ := ha.first
    obtain ⟨m, q, hw, hm⟩ := writePieces_memory data fun p hp => (congrArg isBlock (ha.space p hp)).trans hb
    rw [hw]
    exact kept_memory ⟨p.1, p, hp, le_rfl, by omega⟩ hm
  | true =>
    obtain ⟨p, hps, h8⟩ := ha.block hb
    have hsp : s.space p = a.space := ha.space (p, 8) (by simp [hps])
    rw [hps]
    exact kept_mono (kept_writeBlock _ (by rw [hsp]; exact hb) (by rw [hsp]; exact hl) h8) (by simp) (by simp) (by simp)
      fun x hx => ⟨(p, 8), by simp [hps], hx⟩

/-! ### The results of a local store -/

/-- The results of a local write, piece by piece, which land at the bundle-time of its issue (R59). -/
def pieceFlights (r : Issue) : List (Nat × Nat) → List Byte → List Flight
  | [], _ => []
  | (p, n) :: ps, d => ⟨r.issueBt, r.seq * 8 + r.slot, r.slot, .bytes p (d.take n)⟩ :: pieceFlights r ps (d.drop n)

/-- Each stands at the place in issue order of its operation, and is no flag. -/
theorem mem_pieceFlights {r : Issue} {ps : List (Nat × Nat)} {data : List Byte} {f : Flight} (h : f ∈ pieceFlights r ps data) :
    f.due = r.issueBt ∧ f.seq = r.seq * 8 + r.slot ∧ f.eff.isFlags = false := by
  induction ps generalizing data with
  | nil => simp [pieceFlights] at h
  | cons p ps ih =>
    rcases List.mem_cons.1 h with rfl | h
    · exact ⟨rfl, rfl, rfl⟩
    · exact ih h

theorem flagsIn_pieceFlights (r : Issue) (ps : List (Nat × Nat)) (data : List Byte) : flagsIn (pieceFlights r ps data) = [] :=
  List.filter_eq_nil_iff.2 fun _ hf => by simp [(mem_pieceFlights hf).2.2]

theorem plainIn_pieceFlights (r : Issue) (ps : List (Nat × Nat)) (data : List Byte) :
    plainIn (pieceFlights r ps data) = pieceFlights r ps data :=
  List.filter_eq_self.2 fun _ hf => by simp [(mem_pieceFlights hf).2.2]

/-- A result goes behind those that are due with it and were sent before it. -/
theorem insertFlight_last {f : Flight} {l : List Flight} (h : ∀ g ∈ l, g.due = f.due ∧ g.seq = f.seq) : insertFlight f l = l ++ [f] := by
  induction l with
  | nil => rfl
  | cons g l ih =>
    obtain ⟨hd, hs⟩ := h g List.mem_cons_self
    simp [insertFlight, hd, hs, ih fun g hg => h g (List.mem_cons_of_mem _ hg)]

/-- A local write sends its pieces one after another. -/
theorem performLocal_go {e : State} {st : Strand} {ps : List (Nat × Nat)} {data : List Byte} {fs : List Flight} (hm : e.issue.mode = 0)
    (hfs : ∀ g ∈ fs, g.due = e.issue.issueBt ∧ g.seq = e.issue.seq * 8 + e.issue.slot) :
    performLocal.go ps data (e.setStrand (carrying st fs)) =
      .ok ((), e.setStrand (carrying st (fs ++ pieceFlights e.issue ps data))) := by
  induction ps generalizing data fs with
  | nil => simp [performLocal.go, pieceFlights, pure, StateT.pure, Except.pure]
  | cons p ps ih =>
    obtain ⟨a, n⟩ := p
    have hins : insertFlight ⟨e.issue.issueBt, e.issue.seq * 8 + e.issue.slot, e.issue.slot, .bytes a (data.take n)⟩ fs =
      fs ++ [⟨e.issue.issueBt, e.issue.seq * 8 + e.issue.slot, e.issue.slot, .bytes a (data.take n)⟩] := insertFlight_last hfs
    have hsent : sent (e.setStrand (carrying st fs)) 0 (.bytes a (data.take n)) =
        e.setStrand (carrying st (fs ++ [⟨e.issue.issueBt, e.issue.seq * 8 + e.issue.slot, e.issue.slot, .bytes a (data.take n)⟩])) := by
      rw [← hins]
      simp only [sent, strand_setStrand, setStrand_issue, setStrand_twice, Nat.add_zero]
      rfl
    rw [performLocal.go, op_bind_ok (emit_live (by exact hm)), hsent, ih, List.append_assoc]
    · rfl
    · intro g hg
      rcases List.mem_append.1 hg with hg | hg
      · exact hfs g hg
      · obtain rfl := List.mem_singleton.1 hg
        exact ⟨rfl, rfl⟩

/-- All of it together, on a strand with nothing in flight. -/
theorem performLocal_sends {e : State} {a : Access} {data : List Byte} (hm : e.issue.mode = 0) (hf : e.flights = []) (hne : a.pieces ≠ []) :
    performLocal a data e = .ok ((), e.setStrand (carrying e.strand (pieceFlights e.issue a.pieces data))) := by
  have hf' : e.strand.pos.line.flights = [] := hf
  unfold performLocal
  cases hps : a.pieces with
  | nil => exact absurd hps hne
  | cons p ps =>
    obtain ⟨x, n⟩ := p
    have hsent : sent e 0 (.bytes x (data.take n)) =
        e.setStrand (carrying e.strand [⟨e.issue.issueBt, e.issue.seq * 8 + e.issue.slot, e.issue.slot, .bytes x (data.take n)⟩]) := by
      simp only [sent, hf', insertFlight, Nat.add_zero]
      rfl
    rw [performLocal.go, op_bind_ok (emit_live hm), hsent, performLocal_go hm]
    · rfl
    · intro g hg
      obtain rfl := List.mem_singleton.1 hg
      exact ⟨rfl, rfl⟩

/-- The pieces of a local write land as bytes written over them. -/
theorem landAll_pieceFlights {before s : State} {k : Nat} {fl : List Flight} {r : Issue} {ps : List (Nat × Nat)} {data : List Byte} :
    landAll before k fl false ((pieceFlights r ps data).map Due.flight) s = ([], s.writePieces ps data) := by
  induction ps generalizing s data with
  | nil => rfl
  | cons p ps ih =>
    obtain ⟨a, n⟩ := p
    simp only [pieceFlights, List.map_cons, landAll, Bool.false_and, Bool.false_eq_true, if_false, applyEffect, ih]
    rfl

/-! ### Bytes written beside the strands -/

theorem writePhys_setStrandAt (s : State) (k : Nat) (st : Strand) (a : Nat) (data : List Byte) :
    (s.setStrandAt k st).writePhys a data = (s.writePhys a data).setStrandAt k st := by
  unfold State.writePhys
  rw [show (s.setStrandAt k st).space a = s.space a from rfl]
  cases s.space a <;> rfl

theorem writePieces_setStrandAt (s : State) (k : Nat) (st : Strand) (ps : List (Nat × Nat)) (data : List Byte) :
    (s.setStrandAt k st).writePieces ps data = (s.writePieces ps data).setStrandAt k st := by
  induction ps generalizing s data with
  | nil => rfl
  | cons p ps ih => simp only [State.writePieces, writePhys_setStrandAt, ih]

theorem writePhys_ctxs (s : State) (a : Nat) (data : List Byte) :
    (s.writePhys a data).ctxs = s.ctxs ∧ (s.writePhys a data).focus = s.focus ∧ (s.writePhys a data).issue = s.issue := by
  unfold State.writePhys
  cases s.space a <;> exact ⟨rfl, rfl, rfl⟩

theorem writePieces_ctxs (s : State) (ps : List (Nat × Nat)) (data : List Byte) :
    (s.writePieces ps data).ctxs = s.ctxs ∧ (s.writePieces ps data).focus = s.focus ∧ (s.writePieces ps data).issue = s.issue := by
  induction ps generalizing s data with
  | nil => exact ⟨rfl, rfl, rfl⟩
  | cons p ps ih =>
    obtain ⟨h1, h2, h3⟩ := writePhys_ctxs s p.1 (data.take p.2)
    obtain ⟨g1, g2, g3⟩ := ih (s.writePhys p.1 (data.take p.2)) (data.drop p.2)
    exact ⟨g1.trans h1, g2.trans h2, g3.trans h3⟩

theorem strand_writePieces (s : State) (ps : List (Nat × Nat)) (data : List Byte) : (s.writePieces ps data).strand = s.strand := by
  obtain ⟨h1, h2, -⟩ := writePieces_ctxs s ps data
  simp only [State.strand, State.strandAt, State.ctx, h1, h2]

/-! ### A bundle whose results land at its issue -/

/-- A bundle whose results land at once takes effect, and its bundle-time passes with nothing more to land (R59, R62). -/
theorem settle_landed {s s2 : State} {st st2 : Strand} (hs : s.strandAt s.focus = some st) (hfin : s.issue.final = false)
    (ht : s.issue.target = none) (hl : land (s.setStrandAt s.focus (counted st)) s.focus = (s2, false))
    (hs2 : s2.strandAt s.focus = some (counted st2)) (hi : s2.issue = s.issue) (hfoc : s2.focus = s.focus)
    (hf : st2.pos.line.flights = []) (ho : st2.arr.ops = []) (hw : st2.arr.writes = []) (hr : st2.rotate = false)
    (he : endsLevel st2.pos.loops s.issue.pc = none) :
    settleIssue s [] = s2.setStrandAt s.focus (emptied (issued s st2)) := by
  have hp : arrPulse s2 s.focus = (s2, false) := by simp [arrPulse, hs2, counted, ho]
  have hb : backEdges s.focus s.issue.pc s.issue.next st.leaving.isSome 7 false s2 = (⟨s.issue.next, false, false⟩, s2) :=
    backEdges_none hs2 he
  have hc : commitBundle s [] = s2.setStrandAt s.focus (issued s st2) := by
    unfold commitBundle
    simp only [hfin, hs, List.append_nil, Bool.false_eq_true, if_false]
    simp only [counted] at hl
    simp only [hl, hp, hi, ht, hb, hs2]
    unfold issued counted
    simp [ht]
  have hfl : (issued s st2).pos.line.flights = [] := by rw [issued_flights, hf]
  unfold settleIssue
  simp only [hfin, Bool.false_eq_true, if_false, hc, setStrandAt_focus, hfoc]
  rw [advance_none (strandAt_setStrandAt_same _ _ _) (by simp [hf]) (by rw [issued_arr]; exact hw) (by rw [issued_rotate]; exact hr),
    setStrandAt_twice]
  congr 1
  simp only [later, emptied, ← hfl]

/-- What is in flight makes no difference to the strand once it has landed. -/
theorem emptied_issued_carrying (s : State) (st : Strand) (fs : List Flight) :
    emptied (issued s (carrying st fs)) = emptied (issued s st) := by
  unfold issued carrying
  by_cases h : st.trapFrame.isSome <;> simp only [h, if_true, Bool.false_eq_true, if_false] <;> rfl

/-- The strand of a store, its visible side effect marked. -/
def storing (s : State) : Strand := { s.strand with sideEffect := true }

/-- The state a bundle-time after a bundle that has marked its strand and left nothing in flight. -/
def passedMarked (i : Instr) (s : State) : State := (enter i s).setStrandAt s.focus (emptied (issued (enter i s) (storing s)))

/-- A strand that differs in no register keeps all that a claim names. -/
theorem kept_setStrand {u : State} {st : Strand} (hs : SameRest st u.strand) (hx : st.xs = u.strand.xs) (hp : st.ps = u.strand.ps)
    (hsx : st.shadowX = u.strand.shadowX) (hsp : st.shadowP = u.strand.shadowP) :
    Kept u (u.setStrandAt u.focus st) [] [] [] fun _ => False :=
  kept_setCtx rfl rfl rfl rfl rfl hs (fun _ _ _ => by simp [readXAt, hx, hsx]) (fun _ _ _ => by simp [readPAt, hp, hsp])

/-- Of a strand whose bundle has passed only BUDGET and the place where it stands differ. -/
theorem sameRest_passed (s : State) (st : Strand) : SameRest (emptied (issued s st)) st := by
  refine ⟨?_, issued_sys _ _, ?_, ?_, ?_, ?_, ?_, ?_, ?_, ?_, ?_, ?_, ?_, ?_, ?_, ?_, ?_⟩ <;> simp [emptied]

/-- Such a bundle keeps everything but BUDGET and where the strand stands. -/
theorem kept_passedMarked (i : Instr) (s : State) : Kept s (passedMarked i s) [] [] [] fun _ => False := by
  have h := sameRest_passed (enter i s) (storing s)
  have h' : SameRest (emptied (issued (enter i s) (storing s))) s.strand := ⟨h.bs, h.sys, h.hfam, h.spools, h.tags, h.arr,
    h.loops, h.rets, h.trapFrame, h.far, h.bad, h.reports, h.faults, h.replay, h.ident, h.rotate, h.call⟩
  have hk : Kept (enter i s) (passedMarked i s) [] [] [] fun _ => False :=
    kept_setStrand (by rw [enter_strand]; exact h') (by simp [emptied, storing]) (by simp [emptied, storing]) (by simp [emptied, storing])
      (by simp [emptied, storing])
  exact Kept_trans (kept_issue s (enter i s).issue) hk rfl

/-- The state after the operation of a local store. -/
def storeSent (i : Instr) (s : State) (a : Access) (data : List Byte) : State :=
  marked ((enter i s).setStrand (carrying s.strand (pieceFlights (enter i s).issue a.pieces data)))

theorem storeSent_eq (i : Instr) (s : State) (a : Access) (data : List Byte) : storeSent i s a data =
    (enter i s).setStrandAt s.focus (carrying (storing s) (pieceFlights (enter i s).issue a.pieces data)) := by
  simp only [storeSent, marked, withStrand, strand_setStrand, setStrand_twice]
  rfl

/-- The bytes of a local store land at its issue, and then its bundle passes. -/
theorem settle_store {i : Instr} {s : State} {a : Access} {data : List Byte} (hc : calm s = true) (hne : a.pieces ≠ []) :
    settleIssue (storeSent i s a data) [] = (passedMarked i s).writePieces a.pieces data := by
  obtain ⟨hi, -, -, -, ho, hw, hr, he⟩ := calm_iff.1 hc
  have hfne : pieceFlights (enter i s).issue a.pieces data ≠ [] := by
    cases hps : a.pieces with
    | nil => exact absurd hps hne
    | cons p ps => simp [pieceFlights]
  have hland := land_due (s := (enter i s).setStrandAt s.focus (counted (carrying (storing s) (pieceFlights (enter i s).issue a.pieces data))))
    (s2 := ((enter i s).writePieces a.pieces data).setStrandAt s.focus (counted (carrying (storing s) []))) (k := s.focus)
    (fs := pieceFlights (enter i s).issue a.pieces data) (st3 := counted (carrying (storing s) []))
    (strandAt_setStrandAt_same _ _ _) rfl hfne (fun f hf => (mem_pieceFlights hf).1.le) hw
    (by rw [plainIn_pieceFlights, landAll_pieceFlights, setStrandAt_twice, writePieces_setStrandAt]; rfl)
    (strandAt_setStrandAt_same _ _ _) (by simp [flagsIn_pieceFlights]) (by rw [flagsIn_pieceFlights]; rfl)
    (strandAt_setStrandAt_same _ _ _)
  rw [setStrandAt_twice] at hland
  rw [storeSent_eq, settle_landed (s := (enter i s).setStrandAt s.focus _) (st2 := carrying (storing s) [])
    (s2 := ((enter i s).writePieces a.pieces data).setStrandAt s.focus (counted (carrying (storing s) [])))
    (by exact strandAt_setStrandAt_same _ _ _) rfl rfl (by rw [setStrandAt_focus, enter_focus, setStrandAt_twice]; exact hland)
    (by exact strandAt_setStrandAt_same _ _ _)
    (writePieces_ctxs (enter i s) a.pieces data).2.2 (writePieces_ctxs (enter i s) a.pieces data).2.1 rfl ho hw hr
    (noEdge_none he)]
  rw [setStrandAt_focus, enter_focus, setStrandAt_twice, issued_of_issue (s := enter i s) (u := (enter i s).setStrandAt s.focus _) _ rfl,
    emptied_issued_carrying, passedMarked, writePieces_setStrandAt]

/-! ### The operation of a local store -/

theorem sizeOf_eq (sz : BitVec 3) : Machine.sizeOf sz = sizeBytes sz := by
  revert sz
  decide

theorem get_ok (s : State) : (get : Op State) s = .ok (s, s) := rfl

theorem sizeBytes_pos (sz : BitVec 3) : 0 < sizeBytes sz := Nat.two_pow_pos _

theorem waitWhile_false {c : Bool} {w : Wait} {s : State} (h : c = false) : waitWhile c w s = .ok ((), s) := by
  subst h
  rfl

/-- With no far access under way no acquire is waited for. -/
theorem acquireWait_free {s : State} (h : s.strand.far = []) : acquireWait s = .ok ((), s) := by
  show waitWhile (s.issue.mode != 2 && s.strand.far.any fun f => f.acquire && f.seq < s.issue.seq) .farOrder s = _
  exact waitWhile_false (by simp [h])

/-- An ordering wait ends where nothing on its paths is unfinished. -/
theorem waitsOn_clear {s : State} {scope : Option Nat} (h : pathsClear s scope 0x61) : waitsOn s s.strand scope pipelinePaths s = .ok ((), s) := by
  have hout : ∀ p < 7, (bit pipelinePaths p && outstanding s s.strand scope p) = false ∧
      (bit pipelinePaths p && ownWork s s.strand scope p) = false := by
    intro p hp
    cases hb : bit pipelinePaths p with
    | false => exact ⟨rfl, rfl⟩
    | true => simpa [unfinished] using h p hp hb
  have hany : ∀ l : List Nat, (∀ p ∈ l, p < 7) → (l.any fun p => bit pipelinePaths p && outstanding s s.strand scope p) = false :=
    fun l hl => List.any_eq_false.2 fun p hp => by simp [(hout p (hl p hp)).1]
  have hown : ((List.range 7).any fun p => bit pipelinePaths p && ownWork s s.strand scope p) = false :=
    List.any_eq_false.2 fun p hp => by simp [(hout p (List.mem_range.1 hp)).2]
  unfold waitsOn
  rw [op_bind_ok (waitWhile_false (hany [1, 4] (by decide))), op_bind_ok (waitWhile_false (hany [0, 2, 5, 6] (by decide)))]
  exact waitWhile_false hown

/-- A release whose earlier accesses have ended goes on. -/
theorem releaseAt_clear {s : State} {rel : Option Nat} {a : Access} (h : ∀ c, rel = some c → pathsClear s (some c) 0x61) :
    releaseAt rel a s = .ok ((), s) := by
  cases rel with
  | none => rfl
  | some c =>
    show (if coveredAccess s (some c) a then releaseWait c else pure ()) s = _
    split
    · exact waitsOn_clear (h c rfl)
    · rfl

/-- A local write that covers no poisoned word in part meets no fault. -/
theorem localSubword_free {s : State} {a : Access} (h : ∀ p ∈ a.pieces, s.partialPoison p.1 p.2 = none) :
    localSubword a s = .ok ((), s) := by
  have hn : (a.pieces.findSome? fun p => s.partialPoison p.1 p.2) = none := List.findSome?_eq_none_iff.2 h
  show (match a.pieces.findSome? fun p => s.partialPoison p.1 p.2 with
    | some w => raiseNow ⟨cSubwordPoison, w64 (a.vaOf (s.eccUnit w) w), false⟩
    | none => pure () : Op Unit) s = _
  rw [hn]
  rfl

/-- The side effect is marked. -/
theorem markEffect_live {s : State} (h : s.issue.mode = 0) : markEffect s = .ok ((), marked s) := by
  show (if (s.issue.mode == 1) = true then pure () else modStrand fun st => { st with sideEffect := true } : Op Unit) s = _
  rw [h]
  rfl

/-- A store in the core's own window sends its bytes to land at its issue, and marks its strand. -/
theorem pipelineStore_local {i : Instr} {s : State} {va : Nat} {data : List Byte} {word : Bool} {rel : Option Nat} {a : Access}
    (hc : calm s = true) (hrel : ∀ c, rel = some c → pathsClear (enter i s) (some c) 0x61)
    (ha : strandAccess va data.length .w word (enter i s) = .ok (a, enter i s)) (hne : a.pieces ≠ [])
    (hl : localSpace s a.space = true) (hp : ∀ p ∈ a.pieces, s.partialPoison p.1 p.2 = none) :
    pipelineStore va data word rel (enter i s) = .ok ((), storeSent i s a data) := by
  obtain ⟨-, hfl, hfar, -⟩ := calm_iff.1 hc
  rw [pipelineStore, op_bind_ok (acquireWait_free (s := enter i s) hfar), op_bind_ok ha, op_bind_ok (releaseAt_clear hrel), op_bind_ok (get_ok _)]
  simp only [show localSpace (enter i s) a.space = true from hl, if_true]
  rw [op_bind_ok (localSubword_free (s := enter i s) hp),
    op_bind_ok (performLocal_sends (e := enter i s) rfl hfl hne)]
  exact markEffect_live rfl

/-- ST and STL of a calm strand do so. -/
theorem store_sends {s : State} {t : Tag} {xv xa : XReg} {sz : BitVec 3} {sc : BitVec 4} {imm : BitVec 22} {imm18 : BitVec 18} {i : Instr}
    {va al : Nat} {rel : Option Nat} {a : Access} (hmem : (i, va, al, rel) ∈ stores s t xv xa sz sc imm imm18) (hc : calm s = true)
    (hpass : passes t s = true) (hrep : s.strand.reports = []) (hal : va % al = 0)
    (hrel : ∀ c, rel = some c → pathsClear (enter i s) (some c) 0x61)
    (ha : strandAccess va (sizeBytes sz) .w (sizeBytes sz == 8) (enter i s) = .ok (a, enter i s)) (hne : a.pieces ≠ [])
    (hl : localSpace s a.space = true) (hp : ∀ p ∈ a.pieces, s.partialPoison p.1 p.2 = none) :
    exec i s = .next (settleIssue (storeSent i s a (leBytes (sizeBytes sz) (s.x xv.toNat).toNat)) []) := by
  obtain ⟨hi, -⟩ := calm_iff.1 hc
  have hr : bundleReport (beginIssue s) [i] = none := reportDue_none (by simp [hrep])
  have hstore : storeScalar xv va sz rel (enter i s) = .ok ((), storeSent i s a (leBytes (sizeBytes sz) (s.x xv.toNat).toNat)) := by
    rw [storeScalar, op_bind_ok (getX_calm hc), sizeOf_eq]
    exact pipelineStore_local hc hrel (by rw [length_leBytes]; exact ha) hne hl hp
  simp only [stores, List.mem_cons, Prod.mk.injEq, List.not_mem_nil, or_false] at hmem
  rcases hmem with ⟨rfl, rfl, -, rfl⟩ | ⟨rfl, rfl, rfl, rfl⟩
  · refine issueOne_through hi (noPorts rfl) hr ?_
    rw [opSt, guarded_passes hpass, op_bind_ok (getX_calm hc)]
    exact hstore
  · refine issueOne_through hi (noPorts rfl) hr ?_
    rw [opStl, guarded_passes hpass, op_bind_ok (getX_calm hc)]
    show (naturally (s.x xa.toNat + imm18.signExtend 64).toNat (Machine.sizeOf sz) >>= fun _ => _) _ = _
    rw [naturally, sizeOf_eq, op_bind_ok (check_passes (by simpa using hal))]
    exact hstore

/-- Settles O22: the store sends its bytes, which land at its issue, over the pieces that its access was found to be. -/
theorem storeFrame : Obligations.StoreFrame := by
  intro s t xv xa sz sc imm imm18 i va al rel a hmem hc hpass hwf hrep hal hrel hacc hl hp
  have ha := through_eq_some.1 hacc
  have hform := strandAccess_ok (sizeBytes_pos sz) ha
  have hne : a.pieces ≠ [] := by
    obtain ⟨p, hp, -⟩ := hform.first
    exact List.ne_nil_of_mem hp
  have hform' : Formed (passedMarked i s) a := ⟨hform.first, hform.space, hform.block⟩
  have hst := strand_writePieces (passedMarked i s) a.pieces (leBytes (sizeBytes sz) (s.x xv.toNat).toNat)
  have hst' : (passedMarked i s).strand = emptied (issued (enter i s) (storing s)) := strand_setStrandAt_focus (enter i s) _
  refine ⟨_, (store_sends hmem hc hpass hrep hal hrel ha hne hl hp).trans (congrArg _ (settle_store hc hne)),
    Kept_trans (kept_passedMarked i s) (kept_writePieces _ hform' hl) rfl, ?_, ?_, fun pa hpa hblk k hk => ?_⟩
  · rw [State.flights, hst, hst']
    rfl
  · rw [hst, hst']
    exact issued_pc _ _
  · have hsp : isBlock ((passedMarked i s).space pa) = false := by
      rw [hform'.space (pa, sizeBytes sz) (by simp [hpa]), hblk]
    have hlen : (leBytes (sizeBytes sz) (s.x xv.toNat).toNat).take (sizeBytes sz) = leBytes (sizeBytes sz) (s.x xv.toNat).toNat :=
      List.take_of_length_le (length_leBytes _ _).le
    have hk' : k < (leBytes (sizeBytes sz) (s.x xv.toNat).toNat).length := by rw [length_leBytes]; exact hk
    rw [hpa, State.writePieces, State.writePieces, hlen, writePhys_memory _ hsp, ← leBytes_word _ hk']
    exact memGet_memPut_same (m := (passedMarked i s).mem) hwf hk'

end Sys2Proof.Proofs
end

section
/-!
The scalar floating instructions at issue (R375, R378, R379): operands, rounding mode, result and flags in the order in which they are
read and sent.
-/
namespace Sys2Proof.Proofs

open Sys2Proof Sys2Proof.Laws Sys2Proof.Machine Sys2Proof.Claims

/-- A scalar format takes the low bits of a word that its width gives. -/
theorem lowFmt_eq {fmt : Fmt} (h : scalarFloat fmt = true) (v : Word) : lowFmt fmt.toNat v = floatLow fmt v := by
  have hw : ∀ f : Fmt, scalarFloat f = true → fmtBits f.toNat = if f = 8 then 32 else 16 := by decide
  rw [lowFmt, floatLow, hw fmt h]

/-- A converted value fills a word: an integer extended by the signedness of its format, a float with zeros above (R379). -/
theorem widenResult_eq (fd v : Nat) :
    widenResult fd v = if fd < 8 then BitVec.ofInt 64 (intValue fd v) else BitVec.ofNat 64 v := by
  simp only [widenResult, isIntFmt, intExtend, w64_wrap, decide_eq_true_eq, Nat.lt_succ_iff]
  rfl

/-- A rounded operation of two values reads both, then the mode, and sends what it makes of them. -/
theorem float2_sends {s s1 s2 s3 s4 s5 : State} {t : Tag} {xd xa xb : XReg} {fmt : Fmt} {rm : BitVec 3} {r : Round} {a b : Word} {i : Instr}
    {f : Nat → Round → Nat → Nat → Nat × Nat} {v fl : Nat} (hp : passes t s = true) (hfmt : scalarFloat fmt = true)
    (hr : (v, fl) = f fmt.toNat r (floatLow fmt a) (floatLow fmt b)) (ha : getXQ xa (enter i s) = .ok (a, s1))
    (hb : getXQ xb s1 = .ok (b, s2)) (hm : getRound rm s2 = .ok (r, s3)) (hv : putXQ 4 xd (BitVec.ofNat 64 v) s3 = .ok ((), s4))
    (hf : emitFlags 4 fl s4 = .ok ((), s5)) : float2 t xd xa xb fmt rm f (enter i s) = .ok ((), s5) := by
  rw [float2, guarded_passes hp, op_bind_ok ha, op_bind_ok hb, op_bind_ok hm, lowFmt_eq hfmt, lowFmt_eq hfmt, ← hr]
  exact (op_bind_ok hv).trans hf

/-- FMIN and FMAX read both values and send one of them, or the canonical NaN (R99). -/
theorem floatExtreme_sends {s s1 s2 s3 : State} {t : Tag} {xd xa xb : XReg} {fmt : Fmt} {isMax : Bool} {a b : Word} {i : Instr}
    (hp : passes t s = true) (hfmt : scalarFloat fmt = true) (ha : getXQ xa (enter i s) = .ok (a, s1)) (hb : getXQ xb s1 = .ok (b, s2))
    (hv : putXQ 4 xd (BitVec.ofNat 64 (fMinMax fmt.toNat isMax (floatLow fmt a) (floatLow fmt b))) s2 = .ok ((), s3)) :
    floatExtreme t xd xa xb fmt isMax (enter i s) = .ok ((), s3) := by
  rw [floatExtreme, guarded_passes hp, op_bind_ok ha, op_bind_ok hb, lowFmt_eq hfmt, lowFmt_eq hfmt]
  exact hv

/-- Settles O4: each form reads its operands and its mode, and sends its result and then its flags. -/
theorem floatResults : Obligations.FloatResults := by
  unfold Obligations.FloatResults
  simp only [through_eq_some]
  refine ⟨fun s s1 s2 s3 s4 s5 t xd xa xb fmt rm r a b v fl i hmem hi hp hfmt ha hb hm hv hf => ?_,
    fun s s1 s2 s3 s4 s5 s6 t xd xa xb xc fmt rm r a b c hi hp hfmt ha hb hc hm hv hf => ?_,
    fun s s1 s2 s3 t xd xa xb fmt isMax a b i hform hi hp hfmt ha hb hv => ?_,
    fun s s1 s2 s3 t pd xa xb cc fmt a b hi hp hfmt _ ha hb hv => ?_,
    fun s s1 s2 s3 s4 t xd xa fd fs rm sat r a v fl hi hp _ _ hr ha hm hv hf => ?_⟩
  · simp only [floatOps, List.mem_cons, Prod.mk.injEq, List.not_mem_nil, or_false] at hmem
    rcases hmem with ⟨rfl, hr⟩ | ⟨rfl, hr⟩ | ⟨rfl, hr⟩ <;>
      exact issueOne_through hi (noPorts rfl) (noReports fun _ => rfl) (float2_sends hp hfmt hr ha hb hm hv hf)
  · refine issueOne_through hi (noPorts rfl) (noReports fun _ => rfl) ?_
    rw [opFfma, guarded_passes hp, op_bind_ok ha, op_bind_ok hb, op_bind_ok hc, op_bind_ok hm]
    simp only [lowFmt_eq hfmt]
    exact (op_bind_ok hv).trans hf
  · cases isMax <;> subst hform <;>
      exact issueOne_through hi (noPorts rfl) (noReports fun _ => rfl) (floatExtreme_sends hp hfmt ha hb hv)
  · refine issueOne_through hi (noPorts rfl) (noReports fun _ => rfl) ?_
    rw [opFcmp, guarded_passes hp, op_bind_ok ha, op_bind_ok hb, lowFmt_eq hfmt, lowFmt_eq hfmt]
    exact hv
  · refine issueOne_through hi (noPorts rfl) (noReports fun _ => rfl) ?_
    rw [← widenResult_eq] at hv
    rw [opFcvt, guarded_passes hp, op_bind_ok ha, op_bind_ok hm, hr]
    exact (op_bind_ok hv).trans hf

end Sys2Proof.Proofs
end

section
/-!
The finite values of a floating format (R96, R97) as significand and place: k * 2^q in units of the least subnormal, with k of full
length unless q = 0. Every finite encoding is one such pair, and rounding an exact value of that form gives its encoding back (R101).
-/
namespace Sys2Proof.Proofs

open Sys2Proof Sys2Proof.Laws

/-- Significand and place of a finite value of a format. -/
structure Canonical (f k q : Nat) : Prop where
  short : k < 2 ^ (fracBits f + 1)
  full : q = 0 ∨ 2 ^ fracBits f ≤ k
  finite : q * 2 ^ fracBits f + k < topPattern f

/-- The encoding of such a pair. -/
def packed (f : Nat) (neg : Bool) (k q : Nat) : Nat := withSign f neg (q * 2 ^ fracBits f + k)

theorem floatBits_pred (f : Nat) : floatBits f - 1 = expBits f + fracBits f := by
  unfold floatBits
  omega

theorem topPattern_le (f : Nat) : topPattern f ≤ 2 ^ (floatBits f - 1) := by
  by_cases h : f = 11
  · subst h; decide
  · have he : topPattern f = (2 ^ expBits f - 1) * 2 ^ fracBits f := by simp [topPattern, h]
    rw [he, floatBits_pred, pow_add]
    exact Nat.mul_le_mul_right _ (Nat.sub_le _ _)

theorem withSign_mod {f mag : Nat} (neg : Bool) (h : mag < 2 ^ (floatBits f - 1)) :
    withSign f neg mag % 2 ^ (floatBits f - 1) = mag := by
  rw [withSign, Nat.add_mul_mod_self_right, Nat.mod_eq_of_lt h]

theorem withSign_testBit {f mag : Nat} (neg : Bool) (h : mag < 2 ^ (floatBits f - 1)) :
    (withSign f neg mag).testBit (floatBits f - 1) = neg := by
  rw [withSign, Nat.testBit_eq_decide_div_mod_eq, Nat.add_mul_div_right _ _ (Nat.two_pow_pos _), Nat.div_eq_of_lt h]
  cases neg <;> rfl

/-- An encoding is its sign and its magnitude. -/
theorem withSign_split {f v : Nat} (h : v < 2 ^ floatBits f) :
    withSign f (v.testBit (floatBits f - 1)) (v % 2 ^ (floatBits f - 1)) = v := by
  have hn : floatBits f = floatBits f - 1 + 1 := by unfold floatBits; omega
  have hq : v / 2 ^ (floatBits f - 1) < 2 := Nat.div_lt_of_lt_mul (by rw [← pow_succ, ← hn]; exact h)
  have hb : bit01 (v.testBit (floatBits f - 1)) = v / 2 ^ (floatBits f - 1) := by
    rw [Nat.testBit_eq_decide_div_mod_eq, Nat.mod_eq_of_lt hq, bit01]
    interval_cases v / 2 ^ (floatBits f - 1) <;> rfl
  rw [withSign, hb, Nat.mod_add_div']

/-- A magnitude below those of the infinities and NaNs is that of one pair. -/
theorem exists_canonical {f mag : Nat} (h : mag < topPattern f) : ∃ k q, Canonical f k q ∧ mag = q * 2 ^ fracBits f + k := by
  have hd := Nat.div_add_mod mag (2 ^ fracBits f)
  have hr := Nat.mod_lt mag (Nat.two_pow_pos (fracBits f))
  by_cases h0 : mag / 2 ^ fracBits f = 0
  · rw [h0] at hd
    exact ⟨mag, 0, ⟨by rw [pow_succ]; omega, .inl rfl, by omega⟩, by omega⟩
  · obtain ⟨e, he⟩ := Nat.exists_eq_succ_of_ne_zero h0
    have hm : mag = e * 2 ^ fracBits f + (2 ^ fracBits f + mag % 2 ^ fracBits f) := by
      rw [he, Nat.mul_comm, Nat.succ_mul] at hd
      omega
    exact ⟨2 ^ fracBits f + mag % 2 ^ fracBits f, e, ⟨by rw [pow_succ]; omega, .inr (Nat.le_add_right _ _), hm ▸ h⟩, hm⟩

/-- What a canonical pair encodes is its value. -/
theorem floatValue_packed {f k q : Nat} (neg : Bool) (h : Canonical f k q) :
    floatValue f (packed f neg k q) = .fin neg k (minQuantum f + q) := by
  obtain ⟨hs, hf, ht⟩ := h
  have hp := Nat.two_pow_pos (fracBits f)
  have hmag : q * 2 ^ fracBits f + k < 2 ^ (floatBits f - 1) := ht.trans_le (topPattern_le f)
  rw [pow_succ] at hs
  unfold floatValue packed
  simp only [withSign_mod neg hmag, withSign_testBit neg hmag, ge_iff_le, not_le.2 ht, if_false, beq_iff_eq]
  by_cases hk : k < 2 ^ fracBits f
  · have hq : q = 0 := hf.resolve_right (by omega)
    simp [hq, Nat.div_eq_of_lt hk, Nat.mod_eq_of_lt hk]
  · obtain ⟨j, rfl⟩ := Nat.exists_eq_add_of_le (not_lt.1 hk)
    have hj : j < 2 ^ fracBits f := by omega
    have he : q * 2 ^ fracBits f + (2 ^ fracBits f + j) = j + 2 ^ fracBits f * (q + 1) := by ring
    rw [he, Nat.add_mul_div_left _ _ hp, Nat.add_mul_mod_self_left, Nat.div_eq_of_lt hj, Nat.mod_eq_of_lt hj]
    rw [if_neg (by omega)]
    congr 1
    push_cast
    ring

/-- The classes of encodings of a format. -/
theorem floatValue_cases {f v : Nat} (h : v < 2 ^ floatBits f) :
    floatValue f v = .nan ∨ (f ≠ 11 ∧ ∃ neg, v = withSign f neg (topPattern f) ∧ floatValue f v = .inf neg) ∨
      ∃ neg k q, Canonical f k q ∧ v = packed f neg k q ∧ floatValue f v = .fin neg k (minQuantum f + q) := by
  have hv := withSign_split h
  by_cases ht : v % 2 ^ (floatBits f - 1) < topPattern f
  · obtain ⟨k, q, hc, hm⟩ := exists_canonical ht
    have hpack : v = packed f (v.testBit (floatBits f - 1)) k q := by rw [packed, ← hm, hv]
    exact .inr (.inr ⟨_, k, q, hc, hpack, (congrArg _ hpack).trans (floatValue_packed _ hc)⟩)
  · have hval : floatValue f v = if f != 11 && v % 2 ^ (floatBits f - 1) == topPattern f then .inf (v.testBit (floatBits f - 1)) else .nan := by
      rw [floatValue, if_pos (not_lt.1 ht)]
    by_cases hi : (f != 11 && v % 2 ^ (floatBits f - 1) == topPattern f) = true
    · rw [if_pos hi] at hval
      simp only [Bool.and_eq_true, bne_iff_ne, beq_iff_eq] at hi
      exact .inr (.inl ⟨hi.1, _, by rw [← hi.2, hv], hval⟩)
    · exact .inl (by rw [hval, if_neg hi])

theorem bitLength_canonical {f k q : Nat} (h : Canonical f k q) :
    bitLength k ≤ fracBits f + 1 ∧ (q = 0 ∨ bitLength k = fracBits f + 1) :=
  ⟨bitLength_le h.short, h.full.imp id (bitLength_top h.short)⟩

/-- Rounding the value of a canonical pair gives its encoding and raises no flag. -/
theorem roundFloat_canonical {f k q : Nat} (r : Round) (sat neg : Bool) (h : Canonical f k q) :
    roundFloat f r sat neg k (minQuantum f + q) = (packed f neg k q, 0) := by
  have ⟨hl, hq⟩ := bitLength_canonical h
  by_cases h0 : k = 0
  · have : q = 0 := h.full.resolve_right (by have := Nat.two_pow_pos (fracBits f); omega)
    simp [roundFloat, packed, h0, this]
  · have hmax : max (minQuantum f + q + bitLength k - (fracBits f + 1)) (minQuantum f) = minQuantum f + q := by omega
    have hfin : ¬ q * 2 ^ fracBits f + k > maxFinite f := by have := h.finite; unfold maxFinite; omega
    simp [roundFloat, h0, hmax, roundAt, hfin, packed]

/-- Settles O5: a finite encoding is a canonical pair, which rounds to itself; infinities and NaNs are delivered as they are encoded. -/
theorem roundingKeepsEncodings : Obligations.RoundingKeepsEncodings := by
  intro f v r _ _ hv
  rcases floatValue_cases hv with h | ⟨h11, neg, hinf, h⟩ | ⟨neg, k, q, hc, hpack, h⟩
  · simp [h, deliver, Num.isNaN]
  · rw [h]
    simp [deliver, Num.isNaN, h11, ← hinf]
  · rw [h]
    simp [deliver, Num.isNaN, roundFloat_canonical r false neg hc, ← hpack]

end Sys2Proof.Proofs
end

section
/-!
Vectors lane by lane (R3, R431, R432, R434): a vector is given by its lanes, and in each lane the integer meanings are those of the bit
vectors of its width.
-/
namespace Sys2Proof.Proofs

open Sys2Proof Sys2Proof.Laws Sys2Proof.Machine Sys2Proof.Claims

/-! ### Lanes -/

theorem elemOf_lt (w k v : Nat) : elemOf w k v < 2 ^ (8 * w) := Nat.mod_lt _ (Nat.two_pow_pos _)

theorem elemOf_succ (w k v : Nat) : elemOf w (k + 1) v = elemOf w k (v / 2 ^ (8 * w)) := by
  rw [elemOf, elemOf, Nat.div_div_eq_div_mul, ← pow_add]
  congr 3
  ring

/-- A number is put together again from its lanes. -/
theorem ofElems_elemOf (w n v : Nat) : ofElems w ((List.range n).map fun k => elemOf w k v) = v % 2 ^ (8 * w * n) := by
  induction n generalizing v with
  | zero => simp [ofElems, Nat.mod_one]
  | succ n ih =>
    have h0 : elemOf w 0 v = v % 2 ^ (8 * w) := by simp [elemOf]
    have hp : 2 ^ (8 * w * (n + 1)) = 2 ^ (8 * w) * 2 ^ (8 * w * n) := by rw [← pow_add]; ring_nf
    simp only [List.range_succ_eq_map, List.map_cons, List.map_map, Function.comp_def, Nat.succ_eq_add_one, elemOf_succ, ofElems, ih, h0,
      Nat.mod_mod, hp]
    rw [Nat.mod_mul]

/-- Only the low bits of the parts of a vector count. -/
theorem ofElems_congr {w : Nat} {f g : Nat → Nat} {l : List Nat} (h : ∀ k ∈ l, f k % 2 ^ (8 * w) = g k % 2 ^ (8 * w)) :
    ofElems w (l.map f) = ofElems w (l.map g) := by
  induction l with
  | nil => rfl
  | cons k l ih =>
    simp only [List.map_cons, ofElems, h k (by simp), ih fun j hj => h j (by simp [hj])]

/-- Element widths divide the vector. -/
theorem bytes_mul_lanes (et : ElemType) : 8 * ElemType.bytes et * (128 / ElemType.bytes et) = 1024 := by
  revert et
  decide

/-- A vector with these lanes and flags is what the model gathers from them. -/
theorem gather_vectorOf {w v fl : Nat} {f : Nat → Nat × Nat} (hw : 8 * w * (128 / w) = 1024) (h : vectorOf w f v fl) :
    gather w ((List.range (128 / w)).map f) = (v, fl) := by
  obtain ⟨hlt, hlanes, hfl⟩ := h
  have hv : ofElems w ((List.range (128 / w)).map fun k => (f k).1) = v := by
    rw [ofElems_congr (g := fun k => elemOf w k v) fun k hk => by
        rw [hlanes k (List.mem_range.1 hk), Nat.mod_mod], ofElems_elemOf, hw, Nat.mod_eq_of_lt hlt]
  rw [gather, orFlags, List.map_map, List.foldl_map, hfl]
  exact congrArg (·, _) hv

/-- Lanes taken in pairs. -/
theorem zipElems_eq (w : Nat) (f : Nat → Nat → Nat × Nat) (a b : Nat) :
    zipElems w f a b = gather w ((List.range (128 / w)).map fun k => f (elemOf w k a) (elemOf w k b)) := by
  rw [zipElems, elems, elems, List.zip_map', List.map_map]
  rfl

/-! ### Integers in a lane -/

theorem signedOf_eq (n x : Nat) : signedOf n x = (BitVec.ofNat n x).toInt := by
  simp only [signedOf, BitVec.toInt, BitVec.toNat_ofNat]
  norm_cast

/-- The value of a lane is that of its format. -/
theorem laneInt_eq (f a : Nat) : laneInt f (2 ^ (f % 4)) a = intValue f a := by
  simp only [laneInt, intValue, intSigned, intBits, signedOf_eq, BitVec.toNat_ofNat, decide_eq_true_eq]

/-- What a lane becomes is the encoding in its format, wrapped or clamped. -/
theorem laneOf_eq (f : Nat) (clamp : Bool) (x : Int) :
    laneOf f (2 ^ (f % 4)) clamp x = if clamp then satInt f x else intEncode f x := by
  cases clamp
  · rfl
  · simp only [Claims.laneOf, satInt, intEncode, intClamp, intMin, intMax, intSigned, wrap, intBits, decide_eq_true_eq, if_true]

theorem isIntFmt_etFmt (et : ElemType) : isIntFmt (etFmt et) = ElemType.isInt et := by
  revert et
  decide

theorem bytes_of_int {et : ElemType} (h : ElemType.isInt et = true) : ElemType.bytes et = 2 ^ (etFmt et % 4) := by
  simp [ElemType.bytes, etFmt, h]

/-- Elements of one lane with one value are one element. -/
theorem laneInt_inj {f w a b : Nat} (ha : a < 2 ^ (8 * w)) (hb : b < 2 ^ (8 * w)) (h : laneInt f w a = laneInt f w b) : a = b := by
  have hbv : BitVec.ofNat (8 * w) a = BitVec.ofNat (8 * w) b := by
    unfold laneInt at h
    split at h
    · exact BitVec.eq_of_toInt_eq h
    · exact BitVec.eq_of_toNat_eq (by exact_mod_cast h)
  simpa [Nat.mod_eq_of_lt ha, Nat.mod_eq_of_lt hb] using congrArg BitVec.toNat hbv

section
variable {et : ElemType} {r : Round} {a b : Nat}

theorem elemAdd_eq (sx : Bool) : elemAdd sx (etFmt et) r a b = if ElemType.isInt et then
    (laneOf (etFmt et) (ElemType.bytes et) sx (laneInt (etFmt et) (ElemType.bytes et) a + laneInt (etFmt et) (ElemType.bytes et) b), 0)
    else fAdd (etFmt et) r a b := by
  rw [elemAdd, isIntFmt_etFmt]
  refine ite_congr rfl (fun h => ?_) fun _ => rfl
  rw [bytes_of_int h, laneOf_eq, laneInt_eq, laneInt_eq]

theorem elemSub_eq (sx : Bool) : elemSub sx (etFmt et) r a b = if ElemType.isInt et then
    (laneOf (etFmt et) (ElemType.bytes et) sx (laneInt (etFmt et) (ElemType.bytes et) a - laneInt (etFmt et) (ElemType.bytes et) b), 0)
    else fSub (etFmt et) r a b := by
  rw [elemSub, isIntFmt_etFmt]
  refine ite_congr rfl (fun h => ?_) fun _ => rfl
  rw [bytes_of_int h, laneOf_eq, laneInt_eq, laneInt_eq]

theorem elemMul_eq : elemMul (etFmt et) r a b = if ElemType.isInt et then
    (laneOf (etFmt et) (ElemType.bytes et) false (laneInt (etFmt et) (ElemType.bytes et) a * laneInt (etFmt et) (ElemType.bytes et) b), 0)
    else fMul (etFmt et) r a b := by
  rw [elemMul, isIntFmt_etFmt]
  refine ite_congr rfl (fun h => ?_) fun _ => rfl
  rw [bytes_of_int h, laneOf_eq, laneInt_eq, laneInt_eq]
  rfl

/-- The smaller element; of equal ones it does not matter which. -/
theorem elemMin_eq (ha : a < 2 ^ (8 * ElemType.bytes et)) (hb : b < 2 ^ (8 * ElemType.bytes et)) :
    elemExtreme false (etFmt et) r a b = if ElemType.isInt et then
      (if laneInt (etFmt et) (ElemType.bytes et) b < laneInt (etFmt et) (ElemType.bytes et) a then b else a, 0)
      else (fMinMax (etFmt et) false a b, 0) := by
  rw [elemExtreme, isIntFmt_etFmt]
  refine ite_congr rfl (fun h => ?_) fun _ => rfl
  have hinj := laneInt_inj (f := etFmt et) ha hb
  rw [bytes_of_int h, laneInt_eq, laneInt_eq] at *
  rcases lt_trichotomy (intValue (etFmt et) a) (intValue (etFmt et) b) with hlt | heq | hgt
  · simp [hlt, hlt.not_gt]
  · simp [hinj heq]
  · simp [hgt, hgt.not_gt]

theorem elemMax_eq : elemExtreme true (etFmt et) r a b = if ElemType.isInt et then
    (if laneInt (etFmt et) (ElemType.bytes et) a < laneInt (etFmt et) (ElemType.bytes et) b then b else a, 0)
    else (fMinMax (etFmt et) true a b, 0) := by
  rw [elemExtreme, isIntFmt_etFmt]
  refine ite_congr rfl (fun h => ?_) fun _ => rfl
  rw [bytes_of_int h, laneInt_eq, laneInt_eq]
  simp

end

theorem elemShl_eq {w a : Nat} (b : Nat) (ha : a < 2 ^ (8 * w)) :
    elemShl w a b = ((BitVec.ofNat (8 * w) a) <<< (b % (8 * w))).toNat := by
  rw [elemShl, BitVec.toNat_shiftLeft, BitVec.toNat_ofNat, Nat.mod_eq_of_lt ha, Nat.shiftLeft_eq]

theorem elemShr_eq {w a : Nat} (b : Nat) (ha : a < 2 ^ (8 * w)) :
    elemShr w a b = ((BitVec.ofNat (8 * w) a) >>> (b % (8 * w))).toNat := by
  rw [elemShr, BitVec.toNat_ushiftRight, BitVec.toNat_ofNat, Nat.mod_eq_of_lt ha, Nat.shiftRight_eq_div_pow]

theorem elemSar_eq (w a b : Nat) : elemSar w a b = ((BitVec.ofNat (8 * w) a).sshiftRight (b % (8 * w))).toNat := by
  rw [elemSar, signedOf_eq, BitVec.sshiftRight, BitVec.toNat_ofInt, wrap, Int.shiftRight_eq_div_pow]
  norm_cast

/-! ### Instructions of two vectors -/

/-- A vector result is sent with its flags behind it. -/
theorem putVF_sends {lat : Nat} {vd : VReg} {v fl : Nat} {s s' : State} (h : sendsVector lat vd v fl s s') :
    putVF lat vd (v, fl) s = .ok ((), s') := by
  obtain ⟨s1, hv, hf⟩ := h
  exact (op_bind_ok (through_eq_some.1 hv)).trans (through_eq_some.1 hf)

/-- An instruction of two vectors reads both, then its mode, and sends what its function makes of each pair of lanes. -/
theorem vector2_sends {s s2 s3 s4 : State} {t : Tag} {vd va vb : VReg} {et : ElemType} {r : Round} {a b v fl lat : Nat} {i : Instr}
    {f : Nat → Round → Nat → Nat → Nat × Nat} {g : Nat → Nat → Nat × Nat} (hp : passes t s = true) (hreads : readsTwo i va vb s a b s2)
    (hm : through (etRound et) s2 = some (r, s3))
    (hfg : ∀ x y, x < 2 ^ (8 * ElemType.bytes et) → y < 2 ^ (8 * ElemType.bytes et) → f (etFmt et) r x y = g x y)
    (hv : vectorOf (ElemType.bytes et) (fun k => g (elemOf (ElemType.bytes et) k a) (elemOf (ElemType.bytes et) k b)) v fl)
    (hs : sendsVector lat vd v fl s3 s4) : vector2 t vd va vb et lat f (enter i s) = .ok ((), s4) := by
  obtain ⟨s1, ha, hb⟩ := hreads
  have hlanes : zipElems (ElemType.bytes et) (f (etFmt et) r) a b = (v, fl) := by
    simp only [zipElems_eq, hfg _ _ (elemOf_lt ..) (elemOf_lt ..)]
    exact gather_vectorOf (bytes_mul_lanes et) hv
  rw [vector2, guarded_passes hp, op_bind_ok (through_eq_some.1 ha), op_bind_ok (through_eq_some.1 hb), op_bind_ok (through_eq_some.1 hm),
    hlanes]
  exact putVF_sends hs

theorem portsAgree_iff {i : Instr} {s : State} : portsAgree i s = true ↔ portConflict (beginIssue s) [i] = false := by
  simp [portsAgree]

/-- Settles O25: each instruction is one of two vectors, whose function of the model is the claim's in every lane. -/
theorem laneResults : Obligations.LaneResults := by
  intro s s2 s3 s4 t vd va vb pa pb et sx r a b v fl lat i f hmem _ hi hp hports hreads hm hv hs
  rw [portsAgree_iff] at hports
  simp only [laneOps, List.mem_cons, Prod.mk.injEq, List.not_mem_nil, or_false] at hmem
  rcases hmem with ⟨rfl, rfl, hf⟩ | ⟨rfl, rfl, hf⟩ | ⟨rfl, rfl, hf⟩ | ⟨rfl, rfl, hf⟩ | ⟨rfl, rfl, hf⟩ | ⟨rfl, rfl, hf⟩ |
    ⟨rfl, rfl, hf⟩ | ⟨rfl, rfl, hf⟩ <;> refine issueOne_through hi hports (noReports fun _ => rfl) ?_
  · exact vector2_sends hp hreads hm (fun _ _ _ _ => by rw [hf]; exact elemAdd_eq _) hv hs
  · exact vector2_sends hp hreads hm (fun _ _ _ _ => by rw [hf]; exact elemSub_eq _) hv hs
  · exact vector2_sends hp hreads hm (fun _ _ _ _ => by rw [hf]; exact elemMul_eq) hv hs
  · exact vector2_sends hp hreads hm (fun _ _ hx hy => by rw [hf]; exact elemMin_eq hx hy) hv hs
  · exact vector2_sends hp hreads hm (fun _ _ _ _ => by rw [hf]; exact elemMax_eq) hv hs
  · rw [opVshl, shift2]
    exact vector2_sends hp hreads hm (fun _ y hx _ => by rw [hf, elemShl_eq y hx]) hv hs
  · rw [opVshr, shift2]
    exact vector2_sends hp hreads hm (fun _ y hx _ => by rw [hf, elemShr_eq y hx]) hv hs
  · rw [opVsar, shift2]
    exact vector2_sends hp hreads hm (fun x y _ _ => by rw [hf, elemSar_eq]) hv hs

end Sys2Proof.Proofs
end

section
/-!
Conversions (R105): integers wrap or clamp, NaNs and infinities become what the rule gives, and the 8-bit floats are exact in every wider
float, because rounding depends on the value alone and each of them is a canonical pair there.
-/
namespace Sys2Proof.Proofs

open Sys2Proof Sys2Proof.Laws Sys2Proof.Machine Sys2Proof.Claims

/-! ### Rounding depends on the value -/

theorem roundsAway_scale (r : Round) (neg odd : Bool) (rest half : Nat) {c : Nat} (hc : 0 < c) :
    roundsAway r neg odd (rest * c) (half * c) = roundsAway r neg odd rest half := by
  cases r <;> simp [roundsAway, hc, hc.ne', bne, BEq.beq]

theorem roundAt_scale (r : Round) (neg : Bool) (m t : Nat) (e q : Int) :
    roundAt r neg (m * 2 ^ t) (e - t) q = roundAt r neg m e q := by
  by_cases hq : q ≤ e
  · by_cases hqt : q ≤ e - t
    · have hd : (e - q).toNat = t + (e - t - q).toNat := by omega
      simp only [roundAt, hq, hqt, if_true, hd, pow_add, Nat.mul_assoc]
    · obtain ⟨j, hj⟩ : ∃ j, t = (q - (e - t)).toNat + j := ⟨t - (q - (e - t)).toNat, by omega⟩
      have hd : (e - q).toNat = j := by omega
      have hhalf : (0 : Nat) ≠ 2 ^ ((q - (e - t)).toNat - 1) := (Nat.two_pow_pos _).ne
      simp only [roundAt, hq, hqt, if_true, if_false, hd]
      have hm : m * 2 ^ t = m * 2 ^ j * 2 ^ (q - (e - t)).toNat := by rw [Nat.mul_assoc, ← pow_add, Nat.add_comm, ← hj]
      rw [hm, Nat.mul_mod_left, Nat.mul_div_cancel _ (Nat.two_pow_pos _)]
      cases r <;> simp [roundsAway, bit01, hhalf]
  · have hqt : ¬ q ≤ e - t := by omega
    obtain ⟨d, hd⟩ : ∃ d, (q - e).toNat = d + 1 := ⟨(q - e).toNat - 1, by omega⟩
    have hdt : (q - (e - t)).toNat = d + 1 + t := by omega
    have hhalf : 2 ^ (d + 1 + t - 1) = 2 ^ d * 2 ^ t := by rw [← pow_add]; congr 1; omega
    simp only [roundAt, hq, hqt, if_false, hd, hdt, hhalf]
    rw [pow_add 2 (d + 1) t, Nat.mul_mod_mul_right, Nat.mul_div_mul_right _ _ (Nat.two_pow_pos t), roundsAway_scale _ _ _ _ _ (Nat.two_pow_pos t)]
    simp [bne, BEq.beq]

theorem bitLength_mul_pow {m : Nat} (hm : m ≠ 0) (t : Nat) : bitLength (m * 2 ^ t) = bitLength m + t := by
  have hl : bitLength m = m.log2 + 1 := by simp [bitLength, hm]
  rw [hl, Nat.add_right_comm]
  refine bitLength_top ?_ ?_
  · rw [Nat.add_right_comm, pow_add]
    exact Nat.mul_lt_mul_of_pos_right Nat.lt_log2_self (Nat.two_pow_pos t)
  · rw [pow_add]
    exact Nat.mul_le_mul_right _ (Nat.log2_self_le hm)

/-- One value written in two ways rounds to one result. -/
theorem roundFloat_scale (f : Nat) (r : Round) (sat neg : Bool) (m t : Nat) (e : Int) :
    roundFloat f r sat neg (m * 2 ^ t) (e - t) = roundFloat f r sat neg m e := by
  by_cases hm : m = 0
  · simp [roundFloat, hm]
  · have hmt : m * 2 ^ t ≠ 0 := Nat.mul_ne_zero hm (Nat.two_pow_pos t).ne'
    have hq : e - t + ((bitLength m + t : Nat) : Int) - (fracBits f + 1) = e + bitLength m - (fracBits f + 1) := by push_cast; ring
    simp only [roundFloat, beq_iff_eq, hm, hmt, if_false, bitLength_mul_pow hm, hq, roundAt_scale]

/-! ### Widening the 8-bit floats -/

/-- A significand is lengthened to that of a format, or as far as its subnormals reach; `n` is its place there. -/
theorem lengthened_canonical {d m n : Nat} (hd : d ≠ 11) (hE : 3 ≤ 2 ^ expBits d) (hm : m ≠ 0) (hL : bitLength m ≤ fracBits d + 1)
    (hn : n + bitLength m + 2 ≤ fracBits d + 2 ^ expBits d) : ∃ t p, Canonical d (m * 2 ^ t) p ∧ n = t + p := by
  obtain ⟨l, hl⟩ : ∃ l, bitLength m = l + 1 := ⟨m.log2, by simp [bitLength, hm]⟩
  have hlog : m.log2 = l := by simpa [bitLength, hm] using hl
  have hlo : 2 ^ l ≤ m := hlog ▸ Nat.log2_self_le hm
  have hhi : m < 2 ^ (l + 1) := hlog ▸ Nat.lt_log2_self
  obtain ⟨t, ht⟩ : ∃ t, t = min (fracBits d - l) n := ⟨_, rfl⟩
  have hshort : m * 2 ^ t < 2 ^ (fracBits d + 1) := calc
    m * 2 ^ t < 2 ^ (l + 1) * 2 ^ t := Nat.mul_lt_mul_of_pos_right hhi (Nat.two_pow_pos t)
    _ = 2 ^ (l + 1 + t) := (pow_add ..).symm
    _ ≤ 2 ^ (fracBits d + 1) := Nat.pow_le_pow_right (by norm_num) (by omega)
  refine ⟨t, n - t, ⟨hshort, ?_, ?_⟩, by omega⟩
  · by_cases htn : t = n
    · exact .inl (by omega)
    · refine .inr ?_
      have hF : fracBits d = l + t := by omega
      rw [hF, pow_add]
      exact Nat.mul_le_mul_right _ hlo
  · have htop : topPattern d = (2 ^ expBits d - 1) * 2 ^ fracBits d := by simp [topPattern, hd]
    calc (n - t) * 2 ^ fracBits d + m * 2 ^ t < (n - t + 2) * 2 ^ fracBits d := by rw [Nat.add_mul, Nat.two_mul]; omega
      _ ≤ topPattern d := htop ▸ Nat.mul_le_mul_right _ (by omega)

/-- Every finite value of an 8-bit float is one of each wider float. -/
theorem widened_canonical {d f k q : Nat} (hd : 8 ≤ d ∧ d ≤ 10) (hf : f = 11 ∨ f = 12) (h : Canonical f k q) :
    ∃ t p : Nat, Canonical d (k * 2 ^ t) p ∧ minQuantum f + q - t = minQuantum d + p := by
  obtain ⟨hl, -⟩ := bitLength_canonical h
  obtain ⟨-, hfull, hfin⟩ := h
  obtain ⟨n, hn, hroom⟩ : ∃ n : Nat, minQuantum f + q = minQuantum d + n ∧ n + bitLength k + 2 ≤ fracBits d + 2 ^ expBits d := by
    refine ⟨(minQuantum f + q - minQuantum d).toNat, ?_⟩
    obtain ⟨hd8, hd10⟩ := hd
    rcases hf with rfl | rfl <;> interval_cases d <;>
      simp only [minQuantum, expBias, fracBits, expBits, topPattern, beq_iff_eq, reduceIte] at * <;> norm_num at * <;> omega
  have hwide : d ≠ 11 ∧ 3 ≤ 2 ^ expBits d ∧ fracBits f ≤ fracBits d := by
    obtain ⟨hd8, hd10⟩ := hd
    rcases hf with rfl | rfl <;> interval_cases d <;> decide
  obtain ⟨hd11, hE, hfrac⟩ := hwide
  by_cases hk : k = 0
  · refine ⟨n, 0, ⟨by simp [hk], .inl rfl, ?_⟩, by omega⟩
    simp only [hk, topPattern, hd11, beq_iff_eq, if_false]
    have := Nat.mul_pos (show 0 < 2 ^ expBits d - 1 by omega) (Nat.two_pow_pos (fracBits d))
    omega
  · obtain ⟨t, p, hc, htp⟩ := lengthened_canonical hd11 hE hk (by omega) hroom
    exact ⟨t, p, hc, by omega⟩

theorem packed_lt {f k q : Nat} (neg : Bool) (h : Canonical f k q) : packed f neg k q < 2 ^ floatBits f := by
  have hn : 2 ^ floatBits f = 2 ^ (floatBits f - 1) + 2 ^ (floatBits f - 1) := by
    rw [← Nat.two_mul, ← pow_succ', floatBits_pred]
    congr 1
    unfold floatBits
    omega
  have := h.finite.trans_le (topPattern_le f)
  cases neg <;> simp [packed, withSign, bit01] <;> omega

/-! ### CONV by class of format -/

theorem fmtBytes_int {f : Nat} (h : f < 8) : fmtBytes f = 2 ^ (f % 4) := by interval_cases f <;> rfl

theorem fmtBits_float {f : Nat} (h : 8 ≤ f ∧ f ≤ 12) : fmtBits f = floatBits f := by
  have : ¬ f ≤ 7 := by omega
  simp [fmtBits, isIntFmt, isFloatFmt, h, this]

/-- Between integers the value is wrapped, or clamped under SAT. -/
theorem convert_int {d f x : Nat} (r : Round) (sat : Bool) (hd : d < 8) (hf : f < 8) (hx : x < 2 ^ (8 * fmtBytes f)) :
    convert d f r sat x = (Claims.laneOf d (fmtBytes d) sat (laneInt f (fmtBytes f) x), 0) := by
  have hbits : fmtBits f = 8 * fmtBytes f := by interval_cases f <;> rfl
  have h13 : d ≠ 13 ∧ f ≠ 13 := by omega
  have hfl : ¬ 8 ≤ d ∧ ¬ 8 ≤ f := by omega
  rw [fmtBytes_int hd, laneOf_eq, fmtBytes_int hf, laneInt_eq]
  cases sat <;> simp [convert, hbits, Nat.mod_eq_of_lt hx, h13, isFloatFmt, hfl, satInt]

/-- A float is converted by the class of its destination. -/
theorem convert_float {d f x : Nat} (r : Round) (sat : Bool) (hf : 8 ≤ f ∧ f ≤ 12) (hx : x < 2 ^ floatBits f) :
    convert d f r sat x = if d = 13 then (bit01 (!(floatValue f x).isZero), 0)
      else if isFloatFmt d then convFloatFloat d f r sat x else convFloatInt d f r x := by
  have h13 : f ≠ 13 := by omega
  simp [convert, fmtBits_float hf, Nat.mod_eq_of_lt hx, h13, show isFloatFmt f = true by simp [isFloatFmt, hf]]

/-- A finite value is rounded once. -/
theorem convert_fin {d f x m : Nat} {neg : Bool} {e : Int} (r : Round) (sat : Bool) (hd : 8 ≤ d ∧ d ≤ 12) (hf : 8 ≤ f ∧ f ≤ 12)
    (hx : x < 2 ^ floatBits f) (h : floatValue f x = .fin neg m e) :
    convert d f r sat x = roundFloat d r (sat && !floatWidens d f) neg m e := by
  have h13 : d ≠ 13 := by omega
  rw [convert_float r sat hf hx, if_neg h13, if_pos (by simp [isFloatFmt, hd]), convFloatFloat, h]

theorem convert_nan {d f x : Nat} (r : Round) (sat : Bool) (hd : d ≤ 13) (hf : 8 ≤ f ∧ f ≤ 12) (hx : x < 2 ^ floatBits f)
    (h : (floatValue f x).isNaN = true) :
    convert d f r sat x = if d < 8 then (0, 16) else if d = 13 then (1, 0) else (canonNaN d, 0) := by
  have hn : floatValue f x = .nan := by
    cases hv : floatValue f x <;> simp [hv, Num.isNaN] at h ⊢
  rw [convert_float r sat hf hx, hn]
  rcases lt_trichotomy d 13 with hlt | rfl | hgt
  · by_cases h8 : d < 8
    · simp [hlt.ne, isFloatFmt, h8, not_le.2 h8, convFloatInt, hn, flagNV]
    · have : 8 ≤ d ∧ d ≤ 12 := by omega
      simp [hlt.ne, isFloatFmt, h8, this, convFloatFloat, hn]
  · rfl
  · omega

/-- An infinity becomes the end of the integer range, with NV. -/
theorem convert_inf {d f x : Nat} {neg : Bool} (r : Round) (sat : Bool) (hd : d < 8) (hf : 8 ≤ f ∧ f ≤ 12) (hx : x < 2 ^ floatBits f)
    (h : floatValue f x = .inf neg) :
    convert d f r sat x = (Claims.laneOf d (fmtBytes d) true (if neg then -2 ^ 64 else 2 ^ 64), 16) := by
  have hclamp : intClamp d (if neg then -2 ^ 64 else 2 ^ 64) = if neg then intMin d else intMax d := by
    cases neg <;> interval_cases d <;> rfl
  have h13 : d ≠ 13 := by omega
  rw [convert_float r sat hf hx, if_neg h13, if_neg (by simp [isFloatFmt, not_le.2 hd]), convFloatInt, h, fmtBytes_int hd, laneOf_eq,
    if_pos rfl, satInt, hclamp]
  rfl

/-- An 8-bit float in a wider one raises no flag and comes back as it was. -/
theorem convert_widens {d f x m : Nat} {neg : Bool} {e : Int} (r r' : Round) (sat sat' : Bool) (hf : f = 11 ∨ f = 12)
    (hd : 8 ≤ d ∧ d ≤ 10) (hx : x < 256) (h : floatValue f x = .fin neg m e) :
    (convert d f r sat x).2 = 0 ∧ convert f d r' sat' (convert d f r sat x).1 = (x, 0) := by
  have hf' : 8 ≤ f ∧ f ≤ 12 := by omega
  have hd' : 8 ≤ d ∧ d ≤ 12 := by omega
  have hx' : x < 2 ^ floatBits f := by rcases hf with rfl | rfl <;> exact hx
  rcases floatValue_cases hx' with hn | ⟨-, n, -, hn⟩ | ⟨n, k, q, hc, hpack, hn⟩
  · simp [hn] at h
  · simp [hn] at h
  · obtain ⟨t, p, hct, he⟩ := widened_canonical hd hf hc
    have hto : convert d f r sat x = (packed d n (k * 2 ^ t) p, 0) := by
      rw [convert_fin r sat hd' hf' hx' hn, ← roundFloat_scale d _ _ _ k t, he, roundFloat_canonical _ _ _ hct]
    refine ⟨by rw [hto], ?_⟩
    rw [hto, convert_fin r' sat' hf' hd' (packed_lt n hct) (floatValue_packed n hct), ← he, roundFloat_scale, roundFloat_canonical _ _ _ hc,
      ← hpack]

end Sys2Proof.Proofs
end

section
/-!
VCVT (R437): the converted elements stand where PART places them.
-/
namespace Sys2Proof.Proofs

open Sys2Proof Sys2Proof.Laws Sys2Proof.Machine Sys2Proof.Claims

/-- Zeros above the elements of a vector do not show. -/
theorem ofElems_zeros (w n : Nat) (l : List Nat) : ofElems w (l ++ List.replicate n 0) = ofElems w l := by
  induction l with
  | nil =>
    induction n with
    | zero => rfl
    | succ n ih => simpa [List.replicate_succ, ofElems] using ih
  | cons e l ih => simp [ofElems, ih]

theorem orFlags_zeros (n : Nat) (l : List (Nat × Nat)) : orFlags (l ++ List.replicate n (0, 0)) = orFlags l := by
  rw [orFlags, orFlags, List.foldl_append]
  induction n with
  | zero => rfl
  | succ n ih => simpa [List.replicate_succ] using ih

theorem gather_zeros (w n : Nat) (l : List (Nat × Nat)) : gather w (l ++ List.replicate n (0, 0)) = gather w l := by
  rw [gather, gather, orFlags_zeros, List.map_append, List.map_replicate, ofElems_zeros]

/-- The widths of the elements of VCVT. -/
theorem fmtBytes_mem {f : Nat} (h : f ≤ 12) : fmtBytes f ∈ [1, 2, 4, 8] := by
  interval_cases f <;> decide

/-- Elements that get narrower fill one part of the result. -/
theorem part_fits {wd ws part : Nat} (hd : wd ∈ [1, 2, 4, 8]) (hs : ws ∈ [1, 2, 4, 8]) (hlt : wd < ws)
    (hp : part < max wd ws / min wd ws) : part * (128 / ws) + 128 / ws ≤ 128 / wd := by
  rw [max_eq_right hlt.le, min_eq_left hlt.le] at hp
  fin_cases hd <;> fin_cases hs <;> simp at hlt hp ⊢ <;> omega

/-- Elements that get wider are one part of the source. -/
theorem part_within {wd ws part : Nat} (hd : wd ∈ [1, 2, 4, 8]) (hs : ws ∈ [1, 2, 4, 8]) (hle : ws ≤ wd)
    (hp : part < max wd ws / min wd ws) : part * (128 / wd) + 128 / wd ≤ 128 / ws := by
  rw [max_eq_left hle, min_eq_right hle] at hp
  fin_cases hd <;> fin_cases hs <;> simp at hle hp ⊢ <;> omega

/-- A function of lanes that is 0 outside one part. -/
theorem map_part {α : Type} (z : α) (g : Nat → α) {p k n : Nat} (h : p + k ≤ n) :
    (List.range n).map (fun j => if p ≤ j ∧ j < p + k then g (j - p) else z)
      = List.replicate p z ++ (List.range k).map g ++ List.replicate (n - (p + k)) z := by
  obtain ⟨m, rfl⟩ := Nat.exists_eq_add_of_le h
  rw [List.range_add, List.range_add, List.map_append, List.map_append, List.map_map, List.map_map, Nat.add_sub_cancel_left]
  congr 2
  · refine List.eq_replicate_iff.2 ⟨by simp, ?_⟩
    simp only [List.mem_map, List.mem_range]
    rintro b ⟨j, hj, rfl⟩
    rw [if_neg (by omega)]
  · refine List.map_congr_left fun j hj => ?_
    rw [List.mem_range] at hj
    simp [hj]
  · refine List.eq_replicate_iff.2 ⟨by simp, ?_⟩
    simp only [List.mem_map, List.mem_range, Function.comp_apply]
    rintro b ⟨j, hj, rfl⟩
    rw [if_neg (by omega)]

/-- One part of the elements of a vector. -/
theorem take_drop_elems {w a p k : Nat} (h : p + k ≤ 128 / w) :
    ((elems w a).drop p).take k = (List.range k).map fun j => elemOf w (p + j) a := by
  refine List.ext_getElem (by simp [elems]; omega) fun j hj _ => ?_
  simp [elems]

/-- What VCVT sends is placed by PART. -/
theorem convertVector_eq {fd fs part a v fl : Nat} {r : Round} {sat : Bool} (hd : fd ≤ 12) (hs : fs ≤ 12) (hp : part < cvtRatio fd fs)
    (h : vectorOf (fmtBytes fd) (convPlaced fd fs r sat part a) v fl) : convertVector fd fs r sat part a = (v, fl) := by
  have hlanes : 8 * fmtBytes fd * (128 / fmtBytes fd) = 1024 := by interval_cases fd <;> rfl
  rw [← gather_vectorOf hlanes h, convertVector]
  rcases lt_or_ge (fmtBytes fd) (fmtBytes fs) with hlt | hge
  · have hplaced : convPlaced fd fs r sat part a = fun j =>
        if part * (128 / fmtBytes fs) ≤ j ∧ j < part * (128 / fmtBytes fs) + 128 / fmtBytes fs then convert fd fs r sat (elemOf (fmtBytes fs) (j - part * (128 / fmtBytes fs)) a) else (0, 0) := by
      funext j
      simp only [convPlaced, hlt, if_true]
    have hfit := part_fits (fmtBytes_mem hd) (fmtBytes_mem hs) hlt hp
    rw [if_pos hlt, hplaced, map_part _ (fun j => convert fd fs r sat (elemOf (fmtBytes fs) j a)) hfit, gather_zeros, elems, List.map_map]
    rfl
  · have hplaced : convPlaced fd fs r sat part a = fun j => convert fd fs r sat (elemOf (fmtBytes fs) (part * (128 / fmtBytes fd) + j) a) := by
      funext j
      rcases hge.lt_or_eq with hgt | heq
      · simp only [convPlaced, hge.not_gt, hgt, if_true, if_false]
      · have h0 : part = 0 := by
          rw [cvtRatio, heq, max_self, min_self, Nat.div_self (by interval_cases fd <;> decide)] at hp
          omega
        simp [convPlaced, heq, h0]
    have hpart := part_within (fmtBytes_mem hd) (fmtBytes_mem hs) hge hp
    simp only [if_neg hge.not_gt, hplaced, take_drop_elems hpart, List.map_map, Function.comp_def]

end Sys2Proof.Proofs
end

section
/-!
VRED (R112, R445): the levels of a reduction are those of the tree, and an integer node is one of 64-bit words.
-/
namespace Sys2Proof.Proofs

open Sys2Proof Sys2Proof.Laws Sys2Proof.Machine Sys2Proof.Claims

/-- One level over twice as many contributions pairs neighbours. -/
theorem treeLevel_range {α : Type} (op : α → α → α) (c : Nat → α) (n : Nat) :
    treeLevel op ((List.range (2 * n)).map c) = (List.range n).map fun i => op (c (2 * i)) (c (2 * i + 1)) := by
  induction n generalizing c with
  | zero => rfl
  | succ n ih =>
    have hr : (List.range (2 * (n + 1))).map c = c 0 :: c 1 :: (List.range (2 * n)).map fun i => c (i + 2) := by
      rw [Nat.mul_succ, Nat.add_comm, List.range_add]
      simp [List.range_succ, Function.comp_def, Nat.add_comm]
    rw [hr, treeLevel, ih, List.range_succ_eq_map]
    simp [Function.comp_def, Nat.mul_add, Nat.add_right_comm]

theorem treeReduce_singleton {α : Type} (op : α → α → α) (n : Nat) (a : α) : treeReduce op n [a] = [a] := by
  induction n with
  | zero => rfl
  | succ n ih => exact ih

/-- Over 2^k contributions, k levels or more leave the root of the tree. -/
theorem treeReduce_tree (op : Nat × Nat → Nat × Nat → Nat × Nat) (k j : Nat) (c : Nat → Nat × Nat) :
    treeReduce op (k + j) ((List.range (2 ^ k)).map c) = [tree op k c] := by
  induction k generalizing c with
  | zero => simpa [tree] using treeReduce_singleton op j (c 0)
  | succ k ih => rw [Nat.add_right_comm, treeReduce, pow_succ', treeLevel_range, ih, tree]

theorem treeLevel_map {α β : Type} {op : α → α → α} {op' : β → β → β} {g : α → β} (h : ∀ a b, g (op a b) = op' (g a) (g b)) :
    ∀ l, treeLevel op' (l.map g) = (treeLevel op l).map g
  | [] => rfl
  | [_] => rfl
  | a :: b :: l => by
    have := treeLevel_map h l
    simp only [List.map_cons, treeLevel, h, this]

/-- A reduction may be read in another type. -/
theorem treeReduce_map {α β : Type} {op : α → α → α} {op' : β → β → β} {g : α → β} (h : ∀ a b, g (op a b) = op' (g a) (g b)) (n : Nat)
    (l : List α) : treeReduce op' n (l.map g) = (treeReduce op n l).map g := by
  induction n generalizing l with
  | zero => rfl
  | succ n ih => rw [treeReduce, treeReduce, treeLevel_map h, ih]

/-- A node of an integer reduction on words: the sum, an extreme by the signedness of the format, or bitwise logic. -/
def redWord (fmt op : Nat) (x y : Word) : Word :=
  match op with
  | 0 => x + y
  | 1 => if (if fmt < 4 then y.slt x else y.ult x) then y else x
  | 2 => if (if fmt < 4 then x.slt y else x.ult y) then y else x
  | 3 => x &&& y
  | 4 => x ||| y
  | _ => x ^^^ y

/-- The order of two words as integers of 64 bits. -/
theorem intValue_less (fmt : Nat) (x y : Word) :
    intValue (if intSigned fmt then 3 else 7) x.toNat < intValue (if intSigned fmt then 3 else 7) y.toNat ↔
      (if fmt < 4 then x.slt y else x.ult y) = true := by
  by_cases h : fmt < 4
  · have h3 : ∀ z : Word, intValue 3 z.toNat = z.toInt := fun z => (laneInt_eq 3 z.toNat).symm.trans (by simp [laneInt])
    simp [intSigned, h, h3, BitVec.slt]
  · have h7 : ∀ z : Word, intValue 7 z.toNat = z.toNat := fun z => (laneInt_eq 7 z.toNat).symm.trans (by simp [laneInt])
    simp [intSigned, h, h7, BitVec.ult]

theorem redInt_toNat (fmt op : Nat) (x y : Word) : (redWord fmt op x y).toNat = redInt op (intSigned fmt) x.toNat y.toNat := by
  unfold redInt redWord
  split
  · simp
  · simp only [intValue_less, apply_ite BitVec.toNat]
  · simp only [intValue_less, apply_ite BitVec.toNat]
  all_goals simp

theorem vredNode_word {fmt : Nat} (hf : fmt < 8) (op : Nat) (r : Round) (x y : Word) :
    ((redWord fmt op x y).toNat, 0) = vredNode fmt op r (x.toNat, 0) (y.toNat, 0) := by
  simp only [vredNode, hf, if_true, BitVec.ofNat_toNat, BitVec.setWidth_eq]
  rfl

/-- A node of a float reduction carries the flags below it. -/
theorem vredNode_float {fmt op : Nat} (hf : ¬ fmt < 8) (r : Round) : vredNode fmt op r = withFlags (redFloat op r) := by
  funext a b
  simp only [vredNode, hf, if_false, withFlags, redFloat]
  split <;> simp

theorem toNat_ofInt_word (x : Int) : (BitVec.ofInt 64 x).toNat = wrap 64 x := by
  rw [BitVec.toNat_ofInt, wrap]
  norm_cast

/-- The levels of VRED suffice for its lanes. -/
theorem lanes_log (et : ElemType) : Nat.log2 (128 / ElemType.bytes et) + (7 - Nat.log2 (128 / ElemType.bytes et)) = 7 ∧
    2 ^ Nat.log2 (128 / ElemType.bytes et) = 128 / ElemType.bytes et := by
  revert et
  decide

/-- The root of VRED's tree with its flags. -/
theorem reduceVector_eq (et : ElemType) (op : Nat) (r : Round) (a : Nat) :
    reduceVector (etFmt et) op r (elems (ElemType.bytes et) a) = tree (vredNode (etFmt et) op r) (Nat.log2 (128 / ElemType.bytes et))
      fun k => (widened (etFmt et) (ElemType.bytes et) (elemOf (ElemType.bytes et) k a), 0) := by
  have htree := treeReduce_tree (vredNode (etFmt et) op r) (Nat.log2 (128 / ElemType.bytes et)) (7 - Nat.log2 (128 / ElemType.bytes et))
    fun k => (widened (etFmt et) (ElemType.bytes et) (elemOf (ElemType.bytes et) k a), 0)
  rw [(lanes_log et).1, (lanes_log et).2] at htree
  rw [reduceVector, elems, List.map_map, List.map_map]
  by_cases h : isIntFmt (etFmt et) = true
  · have hf : etFmt et < 8 := by simpa [isIntFmt, Nat.lt_succ_iff] using h
    have hw := bytes_of_int ((isIntFmt_etFmt et).symm.trans h)
    have hwide : (fun k => (widened (etFmt et) (ElemType.bytes et) (elemOf (ElemType.bytes et) k a), 0)) =
        (fun x : Word => (x.toNat, 0)) ∘ fun k => BitVec.ofInt 64 (intValue (etFmt et) (elemOf (ElemType.bytes et) k a)) := by
      funext k
      simp only [widened, hf, if_true, hw, laneInt_eq, Function.comp_apply]
    have hext : intExtend (etFmt et) ∘ (fun k => elemOf (ElemType.bytes et) k a) =
        BitVec.toNat ∘ fun k => BitVec.ofInt 64 (intValue (etFmt et) (elemOf (ElemType.bytes et) k a)) := by
      funext k
      exact (toNat_ofInt_word _).symm
    rw [if_pos h, hext, ← List.map_map, treeReduce_map (redInt_toNat (etFmt et) op)]
    rw [hwide, ← List.map_map, treeReduce_map (vredNode_word hf op r)] at htree
    obtain ⟨t, ht, hroot⟩ := List.map_eq_singleton_iff.1 htree
    rw [hwide, ← hroot, ht]
    rfl
  · have hf : ¬ etFmt et < 8 := by simpa [isIntFmt, Nat.lt_succ_iff] using h
    have hwide : (fun k => (widened (etFmt et) (ElemType.bytes et) (elemOf (ElemType.bytes et) k a), 0)) =
        (fun x => ((convert 8 (etFmt et) .rne false x).1, 0)) ∘ fun k => elemOf (ElemType.bytes et) k a := by
      funext k
      simp only [widened, hf, if_false, Function.comp_apply]
    rw [if_neg h, ← vredNode_float hf, ← hwide, htree]
    rfl

end Sys2Proof.Proofs
end

section
/-!
VAMAX and VARGMX (R99, R433): the elements that are no NaN in the order of their encodings, which is the order of their values with -0
below +0.
-/
namespace Sys2Proof.Proofs

open Sys2Proof Sys2Proof.Laws Sys2Proof.Machine Sys2Proof.Claims

/-! ### The order of floats -/

/-- A magnitude with its sign. -/
def signedMagnitude (neg : Bool) (m : Nat) : Int := if neg then -(m : Int) else m

/-- Of two canonical pairs the one with the greater encoding has the greater value. -/
theorem canonical_lt {f k q k' q' : Nat} (h : Canonical f k q) (h' : Canonical f k' q')
    (hlt : q * 2 ^ fracBits f + k < q' * 2 ^ fracBits f + k') : k * 2 ^ q < k' * 2 ^ q' := by
  have hs := h.short
  rw [pow_succ] at hs
  rcases lt_trichotomy q q' with hq | rfl | hq
  · have hfull := h'.full.resolve_left (by omega)
    calc k * 2 ^ q < 2 ^ (fracBits f + 1) * 2 ^ q := Nat.mul_lt_mul_of_pos_right h.short (Nat.two_pow_pos q)
      _ = 2 ^ fracBits f * 2 ^ (q + 1) := by rw [pow_succ, pow_succ]; ring
      _ ≤ k' * 2 ^ q' := Nat.mul_le_mul hfull (Nat.pow_le_pow_right (by norm_num) hq)
  · exact Nat.mul_lt_mul_of_pos_right (by omega) (Nat.two_pow_pos q)
  · have hfull := h.full.resolve_left (by omega)
    have hs' := h'.short
    obtain ⟨j, rfl⟩ := Nat.exists_eq_add_of_lt hq
    rw [pow_succ] at hs'
    have := Nat.zero_le (j * 2 ^ fracBits f)
    simp only [Nat.add_mul, Nat.one_mul] at hlt
    omega

theorem canonical_eq {f k q k' q' : Nat} (h : Canonical f k q) (h' : Canonical f k' q')
    (heq : q * 2 ^ fracBits f + k = q' * 2 ^ fracBits f + k') : k * 2 ^ q = k' * 2 ^ q' := by
  have hv : packed f false k q = packed f false k' q' := by rw [packed, packed, heq]
  have := (floatValue_packed false h).symm.trans ((congrArg _ hv).trans (floatValue_packed false h'))
  simp only [Num.fin.injEq, true_and] at this
  obtain ⟨rfl, hq⟩ := this
  rw [show q = q' by omega]

/-- The order of two finite values is that of their signed values. -/
theorem order_fin (na nb : Bool) (ka kb qa qb : Nat) (e : Int) :
    Num.order (.fin na ka (e + qa)) (.fin nb kb (e + qb)) = compare (signedMagnitude na (ka * 2 ^ qa)) (signedMagnitude nb (kb * 2 ^ qb)) := by
  have hmin : min (e + qa) (e + qb) = e + (min qa qb : Nat) := by omega
  have hscale (n : Bool) (k q : Nat) (h : min qa qb ≤ q) :
      signedMagnitude n (k * 2 ^ q) = signedAt n k (e + q) (e + (min qa qb : Nat)) * 2 ^ min qa qb := by
    have hd : (e + q - (e + (min qa qb : Nat))).toNat = q - min qa qb := by omega
    have hv : k * 2 ^ q = k * 2 ^ (q - min qa qb) * 2 ^ min qa qb := by rw [Nat.mul_assoc, ← pow_add, Nat.sub_add_cancel h]
    rw [signedMagnitude, signedAt, hd, hv]
    cases n <;> push_cast <;> simp
  have hpos : (0 : Int) < 2 ^ min qa qb := by positivity
  simp only [Num.order, hmin]
  rw [hscale na ka qa (min_le_left ..), hscale nb kb qb (min_le_right ..)]
  rcases lt_trichotomy (signedAt na ka (e + qa) (e + (min qa qb : Nat))) (signedAt nb kb (e + qb) (e + (min qa qb : Nat))) with h | h | h
  · rw [compare_lt_iff_lt.2 h, compare_lt_iff_lt.2 (mul_lt_mul_of_pos_right h hpos)]
  · rw [h, compare_eq_iff_eq.2 rfl, compare_eq_iff_eq.2 rfl]
  · rw [compare_gt_iff_gt.2 h, compare_gt_iff_gt.2 (mul_lt_mul_of_pos_right h hpos)]

/-- The place of an encoding in the order: above 0 by magnitude, below it against the magnitude. -/
theorem ordered_withSign {f w mag : Nat} (neg : Bool) (h8 : ¬ f < 8) (hw : floatBits f = 8 * w) (h : mag < 2 ^ (floatBits f - 1)) :
    ordered f w (withSign f neg mag) = if neg then -(mag : Int) - 1 else mag := by
  have hm := withSign_mod neg h
  rw [ordered, if_neg h8, ← hw, hm]
  cases neg
  · simp [withSign, bit01, h]
  · rw [if_neg (by simp [withSign, bit01])]
    rfl

/-- The values of canonical pairs compare as their encodings do. -/
theorem canonical_lt_iff {f k q k' q' : Nat} (h : Canonical f k q) (h' : Canonical f k' q') :
    (k * 2 ^ q < k' * 2 ^ q' ↔ q * 2 ^ fracBits f + k < q' * 2 ^ fracBits f + k') ∧
      (k * 2 ^ q = k' * 2 ^ q' ↔ q * 2 ^ fracBits f + k = q' * 2 ^ fracBits f + k') := by
  rcases lt_trichotomy (q * 2 ^ fracBits f + k) (q' * 2 ^ fracBits f + k') with hp | hp | hp
  · have := canonical_lt h h' hp
    omega
  · have := canonical_eq h h' hp
    omega
  · have := canonical_lt h' h hp
    omega

/-- `floatBelow` of two encodings by the order of their values and their signs. -/
theorem floatBelow_withSign {f ma mb : Nat} {na nb : Bool} (ha : ma < 2 ^ (floatBits f - 1)) (hb : mb < 2 ^ (floatBits f - 1)) :
    floatBelow f (withSign f na ma) (withSign f nb mb) =
      ((Num.order (floatValue f (withSign f na ma)) (floatValue f (withSign f nb mb))).isLT ||
        (Num.order (floatValue f (withSign f na ma)) (floatValue f (withSign f nb mb))).isEq && na && !nb) := by
  simp only [floatBelow, signBit, withSign_testBit _ ha, withSign_testBit _ hb]
  cases Num.order (floatValue f (withSign f na ma)) (floatValue f (withSign f nb mb)) <;> rfl

/-- An encoding that is no NaN, by sign and magnitude: an infinity, or a finite value. -/
theorem magnitude_cases {f v : Nat} (hv : v < 2 ^ floatBits f) (hn : (floatValue f v).isNaN = false) :
    ∃ neg mag, v = withSign f neg mag ∧ mag < 2 ^ (floatBits f - 1) ∧
      (mag = topPattern f ∧ floatValue f v = .inf neg ∨
        ∃ k q, Canonical f k q ∧ mag = q * 2 ^ fracBits f + k ∧ floatValue f v = .fin neg k (minQuantum f + q)) := by
  rcases floatValue_cases hv with h | ⟨h11, neg, hinf, h⟩ | ⟨neg, k, q, hc, hpack, h⟩
  · simp [h, Num.isNaN] at hn
  · have htop : topPattern f < 2 ^ (floatBits f - 1) := by
      rw [floatBits_pred, pow_add]
      simp only [topPattern, beq_iff_eq, h11, if_false]
      exact Nat.mul_lt_mul_of_pos_right (Nat.sub_lt (Nat.two_pow_pos _) Nat.one_pos) (Nat.two_pow_pos _)
    exact ⟨neg, _, hinf, htop, .inl ⟨rfl, h⟩⟩
  · exact ⟨neg, _, hpack, hc.finite.trans_le (topPattern_le f), .inr ⟨k, q, hc, rfl, h⟩⟩

theorem floatBelow_eq {f w a b : Nat} (h8 : ¬ f < 8) (hw : floatBits f = 8 * w) (ha : a < 2 ^ floatBits f) (hb : b < 2 ^ floatBits f)
    (hna : (floatValue f a).isNaN = false) (hnb : (floatValue f b).isNaN = false) :
    floatBelow f a b = decide (ordered f w a < ordered f w b) := by
  obtain ⟨na, ma, rfl, hma, hva⟩ := magnitude_cases ha hna
  obtain ⟨nb, mb, rfl, hmb, hvb⟩ := magnitude_cases hb hnb
  rw [floatBelow_withSign hma hmb, ordered_withSign na h8 hw hma, ordered_withSign nb h8 hw hmb]
  rcases hva with ⟨hta, hva⟩ | ⟨ka, qa, hca, hta, hva⟩ <;> rcases hvb with ⟨htb, hvb⟩ | ⟨kb, qb, hcb, htb, hvb⟩ <;> rw [hva, hvb]
  · cases na <;> cases nb <;> simp [Num.order] <;> omega
  · have := hcb.finite
    cases na <;> cases nb <;> simp [Num.order] <;> omega
  · have := hca.finite
    cases na <;> cases nb <;> simp [Num.order] <;> omega
  · obtain ⟨hlt, heq⟩ := canonical_lt_iff hca hcb
    rw [← hta, ← htb] at hlt heq
    rw [order_fin]
    generalize ka * 2 ^ qa = va at *
    generalize kb * 2 ^ qb = vb at *
    rcases lt_trichotomy (signedMagnitude na va) (signedMagnitude nb vb) with h | h | h
    · rw [compare_lt_iff_lt.2 h]
      cases na <;> cases nb <;> simp [signedMagnitude] at h ⊢ <;> omega
    · rw [compare_eq_iff_eq.2 h]
      cases na <;> cases nb <;> simp [signedMagnitude] at h ⊢ <;> omega
    · rw [compare_gt_iff_gt.2 h]
      cases na <;> cases nb <;> simp [signedMagnitude] at h ⊢ <;> omega

/-! ### Largest elements -/

/-- Whether an element of a format takes part: it is no NaN. -/
def ranks (f x : Nat) : Bool := isIntFmt f || !(floatValue f x).isNaN

/-- The lanes that VAMAX and VARGMX do not pass over are those whose elements take part. -/
theorem counts_iff {f w a k : Nat} : counts f w a k ↔ k < 128 / w ∧ ranks f (elemOf w k a) = true := by
  simp [counts, ranks, isIntFmt, Nat.lt_succ_iff]

theorem floatBits_etFmt {et : ElemType} (h : ¬ etFmt et < 8) : floatBits (etFmt et) = 8 * ElemType.bytes et := by
  revert et
  decide

theorem int_of_etFmt {et : ElemType} (h : etFmt et < 8) : ElemType.bytes et = 2 ^ (etFmt et % 4) := by
  revert et
  decide

/-- The magnitude of an element as the model takes it. -/
theorem magnitude_eq (et : ElemType) (x : Nat) : magnitude (etFmt et) (ElemType.bytes et) x =
    if isIntFmt (etFmt et) then (intValue (etFmt et) x).natAbs else x % 2 ^ (floatBits (etFmt et) - 1) := by
  by_cases h : etFmt et < 8
  · simp [magnitude, isIntFmt, h, Nat.lt_succ_iff.1 h, int_of_etFmt h, laneInt_eq]
  · simp [magnitude, isIntFmt, h, mt Nat.lt_succ_iff.2 h, floatBits_etFmt h]

/-- The maximum of a list is its element that no other exceeds. -/
theorem foldl_max_eq {l : List Nat} {v : Nat} (hmem : v ∈ l) (hle : ∀ x ∈ l, x ≤ v) : l.foldl max 0 = v := by
  rw [List.foldl_eq_foldr]
  exact le_antisymm (List.max_le_of_forall_le l v hle) (List.le_max_of_le hmem le_rfl)

/-- The elements of a vector that take part. -/
def ranked (et : ElemType) (a : Nat) : List Nat := (elems (ElemType.bytes et) a).filter (ranks (etFmt et))

theorem mem_ranked {et : ElemType} {a x : Nat} : x ∈ ranked et a ↔
    ∃ k, counts (etFmt et) (ElemType.bytes et) a k ∧ elemOf (ElemType.bytes et) k a = x := by
  simp only [ranked, elems, List.mem_filter, List.mem_map, List.mem_range, counts_iff]
  constructor
  · rintro ⟨⟨k, hk, rfl⟩, hr⟩
    exact ⟨k, ⟨hk, hr⟩, rfl⟩
  · rintro ⟨k, ⟨hk, hr⟩, rfl⟩
    exact ⟨⟨k, hk, rfl⟩, hr⟩

/-- The model takes the maximum of the magnitudes that rank, and a NaN where there is none. -/
theorem largestMagnitude_ranked (et : ElemType) (a : Nat) : largestMagnitude (etFmt et) (elems (ElemType.bytes et) a) =
    if ranked et a = [] then canonNaN (etFmt et) else ((ranked et a).map (magnitude (etFmt et) (ElemType.bytes et))).foldl max 0 := by
  have hlanes : 0 < 128 / ElemType.bytes et := by revert et; decide
  have hmag : magnitude (etFmt et) (ElemType.bytes et) = fun x =>
    if isIntFmt (etFmt et) then (intValue (etFmt et) x).natAbs else x % 2 ^ (floatBits (etFmt et) - 1) := funext (magnitude_eq et)
  by_cases h : isIntFmt (etFmt et) = true
  · have hall : ranked et a = elems (ElemType.bytes et) a := List.filter_eq_self.2 fun x _ => by simp [ranks, h]
    have hne : elems (ElemType.bytes et) a ≠ [] := by simpa [elems] using hlanes.ne'
    rw [hall, if_neg hne, largestMagnitude, if_pos h, hmag]
    simp only [h, if_true]
  · have hfilter : ranked et a = (elems (ElemType.bytes et) a).filter fun x => !(floatValue (etFmt et) x).isNaN :=
      List.filter_congr fun x _ => by simp [ranks, h]
    rw [largestMagnitude, if_neg h, ← hfilter, hmag]
    cases ranked et a <;> simp [h]

/-- VAMAX writes the largest magnitude. -/
theorem largestMagnitude_eq {et : ElemType} {a v : Nat} (h : isLargest (etFmt et) (ElemType.bytes et) a v) :
    largestMagnitude (etFmt et) (elems (ElemType.bytes et) a) = v := by
  rw [largestMagnitude_ranked]
  rcases h with ⟨k, hk, hv, hle⟩ | ⟨hnone, hv⟩
  · have hmem : elemOf (ElemType.bytes et) k a ∈ ranked et a := mem_ranked.2 ⟨k, hk, rfl⟩
    rw [if_neg (List.ne_nil_of_mem hmem)]
    refine foldl_max_eq (List.mem_map.2 ⟨_, hmem, hv.symm⟩) ?_
    simp only [List.mem_map, mem_ranked]
    rintro x ⟨y, ⟨j, hj, rfl⟩, rfl⟩
    exact hle j hj
  · rw [if_pos (List.eq_nil_iff_forall_not_mem.2 fun x hx => ?_), hv]
    obtain ⟨k, hk, -⟩ := mem_ranked.1 hx
    exact hnone k hk

/-! ### The first of the largest elements -/

/-- The place of a lane in the order of R99. -/
def laneOrder (et : ElemType) (a k : Nat) : Int := ordered (etFmt et) (ElemType.bytes et) (elemOf (ElemType.bytes et) k a)

/-- The order of lanes that take part is that of their places. -/
theorem ordersAbove_eq {et : ElemType} {a j k : Nat} (hj : ranks (etFmt et) (elemOf (ElemType.bytes et) j a) = true)
    (hk : ranks (etFmt et) (elemOf (ElemType.bytes et) k a) = true) :
    ordersAbove (etFmt et) (elemOf (ElemType.bytes et) j a) (elemOf (ElemType.bytes et) k a) =
      decide (laneOrder et a j < laneOrder et a k) := by
  by_cases h : etFmt et < 8
  · simp only [ordersAbove, laneOrder, isIntFmt, Nat.lt_succ_iff.1 h, decide_true, if_true, ordered, h, int_of_etFmt h, laneInt_eq]
  · have hi : isIntFmt (etFmt et) = false := decide_eq_false (mt Nat.lt_succ_of_le h)
    have hw := floatBits_etFmt h
    simp only [ranks, hi, Bool.false_or, Bool.not_eq_true'] at hj hk
    rw [ordersAbove, hi, if_neg Bool.false_ne_true]
    exact floatBelow_eq h hw (hw ▸ elemOf_lt ..) (hw ▸ elemOf_lt ..) hj hk

/-- The better of the best element so far and one more, each with its index. -/
def betterOf (f : Nat) (best : Option (Nat × Nat)) (p : Nat × Nat) : Option (Nat × Nat) :=
  if isFloatFmt f && (floatValue f p.1).isNaN then best
  else match best with
    | none => some p
    | some b => if ordersAbove f b.1 p.1 then some p else some b

theorem largestIndex_fold (f : Nat) (l : List Nat) :
    largestIndex f l = ((l.zip (List.range l.length)).foldl (betterOf f) none).elim 0 Prod.snd := by
  unfold largestIndex
  show (match (l.zip (List.range l.length)).foldl (betterOf f) none with | some p => p.2 | none => 0) = _
  cases (l.zip (List.range l.length)).foldl (betterOf f) none <;> rfl

/-- An element that does not take part is passed over. -/
theorem passedOver_eq (et : ElemType) (x : Nat) : (isFloatFmt (etFmt et) && (floatValue (etFmt et) x).isNaN) = !ranks (etFmt et) x := by
  have hfloat : isFloatFmt (etFmt et) = !isIntFmt (etFmt et) := by revert et; decide
  simp [ranks, hfloat]

theorem betterOf_skip {et : ElemType} {best : Option (Nat × Nat)} {x n : Nat} (h : ranks (etFmt et) x = false) :
    betterOf (etFmt et) best (x, n) = best := by
  simp [betterOf, passedOver_eq, h]

theorem betterOf_none {et : ElemType} {x n : Nat} (h : ranks (etFmt et) x = true) : betterOf (etFmt et) none (x, n) = some (x, n) := by
  simp [betterOf, passedOver_eq, h]

theorem betterOf_some {et : ElemType} {x y n m : Nat} (h : ranks (etFmt et) x = true) :
    betterOf (etFmt et) (some (y, m)) (x, n) = if ordersAbove (etFmt et) y x then some (x, n) else some (y, m) := by
  simp [betterOf, passedOver_eq, h]

/-- Lane k is the first of the largest among the lanes below n. -/
def firstLargest (et : ElemType) (a n k : Nat) : Prop :=
  k < n ∧ counts (etFmt et) (ElemType.bytes et) a k ∧ ∀ j < n, counts (etFmt et) (ElemType.bytes et) a j →
    laneOrder et a j < laneOrder et a k ∨ laneOrder et a j = laneOrder et a k ∧ k ≤ j

/-- The best of the lanes below n, with its index. -/
def bestBelow (et : ElemType) (a n : Nat) : Option (Nat × Nat) :=
  ((List.range n).map fun k => (elemOf (ElemType.bytes et) k a, k)).foldl (betterOf (etFmt et)) none

theorem bestBelow_succ (et : ElemType) (a n : Nat) :
    bestBelow et a (n + 1) = betterOf (etFmt et) (bestBelow et a n) (elemOf (ElemType.bytes et) n a, n) := by
  simp only [bestBelow, List.range_succ, List.map_append, List.foldl_append, List.map_cons, List.map_nil, List.foldl_cons, List.foldl_nil]

theorem bestBelow_cases (et : ElemType) (a n : Nat) (hn : n ≤ 128 / ElemType.bytes et) :
    (bestBelow et a n = none ∧ ∀ j < n, ¬ counts (etFmt et) (ElemType.bytes et) a j) ∨
      ∃ k, bestBelow et a n = some (elemOf (ElemType.bytes et) k a, k) ∧ firstLargest et a n k := by
  induction n with
  | zero => exact .inl ⟨rfl, fun j hj => absurd hj (Nat.not_lt_zero j)⟩
  | succ n ih =>
    rw [bestBelow_succ]
    by_cases hr : ranks (etFmt et) (elemOf (ElemType.bytes et) n a) = true
    · have hcn : counts (etFmt et) (ElemType.bytes et) a n := counts_iff.2 ⟨hn, hr⟩
      rcases ih (Nat.le_of_succ_le hn) with ⟨hb, hnone⟩ | ⟨k, hb, hkn, hck, hall⟩
      · refine .inr ⟨n, by rw [hb, betterOf_none hr], Nat.lt_succ_self n, hcn, fun j hj hcj => ?_⟩
        rcases Nat.lt_succ_iff_lt_or_eq.1 hj with hlt | rfl
        · exact absurd hcj (hnone j hlt)
        · exact .inr ⟨rfl, le_rfl⟩
      · have hcmp := ordersAbove_eq (counts_iff.1 hck).2 hr
        by_cases hgt : laneOrder et a k < laneOrder et a n
        · refine .inr ⟨n, by rw [hb, betterOf_some hr, hcmp]; simp [hgt], Nat.lt_succ_self n, hcn, fun j hj hcj => ?_⟩
          rcases Nat.lt_succ_iff_lt_or_eq.1 hj with hlt | rfl
          · have := hall j hlt hcj
            omega
          · exact .inr ⟨rfl, le_rfl⟩
        · refine .inr ⟨k, by rw [hb, betterOf_some hr, hcmp]; simp [hgt], Nat.lt_succ_of_lt hkn, hck, fun j hj hcj => ?_⟩
          rcases Nat.lt_succ_iff_lt_or_eq.1 hj with hlt | rfl
          · exact hall j hlt hcj
          · omega
    · have hcn : ¬ counts (etFmt et) (ElemType.bytes et) a n := fun h => hr (counts_iff.1 h).2
      have hstep {P : Nat → Prop} (hP : ∀ j < n, counts (etFmt et) (ElemType.bytes et) a j → P j) (j : Nat) (hj : j < n + 1)
          (hcj : counts (etFmt et) (ElemType.bytes et) a j) : P j :=
        (Nat.lt_succ_iff_lt_or_eq.1 hj).elim (fun hlt => hP j hlt hcj) fun heq => absurd (heq ▸ hcj) hcn
      rw [betterOf_skip (Bool.eq_false_of_not_eq_true hr)]
      rcases ih (Nat.le_of_succ_le hn) with ⟨hb, hnone⟩ | ⟨k, hb, hkn, hck, hall⟩
      · exact .inl ⟨hb, fun j hj hcj => hstep (P := fun _ => False) (fun j hlt h => hnone j hlt h) j hj hcj⟩
      · exact .inr ⟨k, hb, Nat.lt_succ_of_lt hkn, hck, hstep hall⟩

/-- The model's search is that for the best of all lanes. -/
theorem largestIndex_best (et : ElemType) (a : Nat) : largestIndex (etFmt et) (elems (ElemType.bytes et) a) =
    (bestBelow et a (128 / ElemType.bytes et)).elim 0 Prod.snd := by
  have hpairs : (elems (ElemType.bytes et) a).zip (List.range (elems (ElemType.bytes et) a).length) =
      (List.range (128 / ElemType.bytes et)).map fun k => (elemOf (ElemType.bytes et) k a, k) := by
    conv_lhs => rw [elems, List.length_map, List.length_range, ← List.map_id (List.range _), List.map_map, List.zip_map']
    rfl
  rw [largestIndex_fold, hpairs, bestBelow]

/-- VARGMX writes the index of the first of the largest elements. -/
theorem largestIndex_eq {et : ElemType} {a k : Nat} (h : isArgmax (etFmt et) (ElemType.bytes et) a k) :
    largestIndex (etFmt et) (elems (ElemType.bytes et) a) = k := by
  rw [largestIndex_best]
  rcases h with ⟨hck, hallk⟩ | ⟨hnone', rfl⟩ <;> rcases bestBelow_cases et a _ le_rfl with ⟨hb, hnone⟩ | ⟨j, hb, -, hcj, hallj⟩ <;> rw [hb]
  · exact absurd hck (hnone k hck.1)
  · have hjk : laneOrder et a j < laneOrder et a k ∨ laneOrder et a j = laneOrder et a k ∧ k ≤ j := hallk j hcj
    have hkj := hallj k hck.1 hck
    show j = k
    omega
  · rfl
  · exact absurd hcj (hnone' j)

end Sys2Proof.Proofs
end

section
/-!
VSPRS (R181, R183, R447): of each group of eight codes the four of highest rank are kept, and the vector of kept codes and group codes is
determined by them.
-/
namespace Sys2Proof.Proofs

open Sys2Proof Sys2Proof.Laws Sys2Proof.Machine Sys2Proof.Claims

/-! ### The four of highest rank -/

/-- The indices of a group of eight with fewer than four ahead of them. -/
def firstFour (rank : Nat → Nat) : List Nat :=
  (List.range 8).filter fun i => ((List.range 8).filter fun j => rank i < rank j || (rank i == rank j && j < i)).length < 4

/-- What stands ahead of an index in its group: higher ranks, and lower indices of the same rank. -/
def ahead (rank : Nat → Nat) (i : Nat) : Finset Nat := (Finset.range 8).filter fun j => (rank i < rank j || (rank i == rank j && j < i)) = true

theorem mem_ahead {rank : Nat → Nat} {i j : Nat} : j ∈ ahead rank i ↔ j < 8 ∧ (rank i < rank j ∨ rank i = rank j ∧ j < i) := by
  simp [ahead]

/-- No two indices have as many ahead of them. -/
theorem card_ahead_injOn (rank : Nat → Nat) : Set.InjOn (fun i => (ahead rank i).card) (Finset.range 8) := by
  have hlt : ∀ i < 8, ∀ j, (rank j < rank i ∨ rank j = rank i ∧ i < j) → (ahead rank i).card < (ahead rank j).card := by
    intro i hi j hij
    refine Finset.card_lt_card ((Finset.ssubset_iff_of_subset fun k => ?_).2 ⟨i, mem_ahead.2 ⟨hi, hij⟩, by simp [mem_ahead]⟩)
    rw [mem_ahead, mem_ahead]
    omega
  simp only [Set.InjOn, Finset.mem_coe, Finset.mem_range]
  intro i hi j hj h
  by_contra hne
  by_cases hij : rank j < rank i ∨ rank j = rank i ∧ i < j
  · exact (hlt i hi j hij).ne h
  · exact (hlt j hj i (by omega)).ne' h

/-- Just four indices have fewer than four ahead of them. -/
theorem length_firstFour (rank : Nat → Nat) : (firstFour rank).length = 4 := by
  have himage : (Finset.range 8).image (fun i => (ahead rank i).card) = Finset.range 8 := by
    refine Finset.eq_of_subset_of_card_le (fun n hn => ?_) (Finset.card_image_of_injOn (card_ahead_injOn rank)).ge
    obtain ⟨i, hi, rfl⟩ := Finset.mem_image.1 hn
    exact Finset.mem_range.2 ((Finset.card_lt_card (Finset.filter_ssubset.2 ⟨i, hi, by simp⟩)).trans_eq (Finset.card_range 8))
  have hfour : ((Finset.range 8).filter fun i => (ahead rank i).card < 4).image (fun i => (ahead rank i).card) = Finset.range 4 :=
    Finset.filter_image.symm.trans ((congrArg (Finset.filter (· < 4)) himage).trans (by decide))
  have hcount : (firstFour rank).length = ((Finset.range 8).filter fun i => (ahead rank i).card < 4).card := by
    have hlen (i : Nat) : ((List.range 8).filter fun j => rank i < rank j || (rank i == rank j && j < i)).length = (ahead rank i).card := by
      show _ = ((List.range 8).filter fun j => decide ((rank i < rank j || (rank i == rank j && j < i)) = true)).length
      simp only [Bool.decide_eq_true]
    simp only [firstFour, hlen]
    rfl
  rw [hcount, ← Finset.card_image_of_injOn ((card_ahead_injOn rank).mono (Finset.coe_subset.2 (Finset.filter_subset _ _))), hfour,
    Finset.card_range]

theorem mem_firstFour_lt {rank : Nat → Nat} {i : Nat} (h : i ∈ firstFour rank) : i < 8 :=
  List.mem_range.1 (List.mem_filter.1 h).1

/-- The four kept depend on the order of the ranks alone. -/
theorem firstFour_congr {rank rank' : Nat → Nat} (h : ∀ i < 8, ∀ j < 8, (rank i < rank j ↔ rank' i < rank' j)) :
    firstFour rank = firstFour rank' := by
  refine List.filter_congr fun i hi => ?_
  rw [List.mem_range] at hi
  have hsame : ((List.range 8).filter fun j => rank i < rank j || (rank i == rank j && j < i)) =
      (List.range 8).filter fun j => rank' i < rank' j || (rank' i == rank' j && j < i) := by
    refine List.filter_congr fun j hj => ?_
    rw [List.mem_range] at hj
    have hij := h i hi j hj
    have hji := h j hj i hi
    have heq : rank i = rank j ↔ rank' i = rank' j := by omega
    simp only [hij, Bool.eq_iff_iff.2 (by simpa using heq : (rank i == rank j) = true ↔ (rank' i == rank' j) = true)]
  rw [hsame]

/-! ### Ranks -/

/-- A NaN of a floating format is a magnitude above the infinity, or where there is none the topmost one. -/
theorem isNaN_iff {f x : Nat} : (floatValue f x).isNaN = true ↔
    topPattern f ≤ x % 2 ^ (floatBits f - 1) ∧ (f ≠ 11 → x % 2 ^ (floatBits f - 1) ≠ topPattern f) := by
  unfold floatValue
  simp only [ge_iff_le]
  split
  · split <;> simp_all [Num.isNaN]
  · split <;> simp_all [Num.isNaN]

/-- Ranks of codes stand in the order of the model's. -/
theorem sparseMagnitude_lt {f x y : Nat} (hf : f = 0 ∨ f = 4 ∨ f = 11 ∨ f = 12) :
    sparseMagnitude f x < sparseMagnitude f y ↔ sparseRank f x < sparseRank f y := by
  rcases hf with rfl | rfl | rfl | rfl
  · have h0 (z : Nat) : laneInt 0 1 z = intValue 0 z := laneInt_eq 0 z
    simp [sparseMagnitude, sparseRank, h0]
  · simp [sparseMagnitude, sparseRank]
  · have hnan (z : Nat) : (floatValue 11 z).isNaN = true ↔ 127 ≤ z % 128 := by simp [isNaN_iff, topPattern, floatBits, expBits, fracBits]
    simp only [sparseMagnitude, sparseRank, hnan, OfNat.ofNat_ne_zero, if_false, Nat.reduceEqDiff]
    split <;> split <;> omega
  · have hnan (z : Nat) : (floatValue 12 z).isNaN = true ↔ 124 < z % 128 := by
      simp [isNaN_iff, topPattern, floatBits, expBits, fracBits]
      omega
    simp only [sparseMagnitude, sparseRank, hnan, OfNat.ofNat_ne_zero, if_false, Nat.reduceEqDiff]
    split <;> split <;> omega

/-- The codes of a group. -/
def groupOf (a g : Nat) : List Nat := (List.range 8).map fun i => elemOf 1 (8 * g + i) a

theorem groupOf_getD {a g i : Nat} (h : i < 8) : (groupOf a g).getD i 0 = elemOf 1 (8 * g + i) a := by
  simp [groupOf, h]

/-- The model keeps the indices that the rule names. -/
theorem keptIndices_eq {f a g : Nat} (hf : f = 0 ∨ f = 4 ∨ f = 11 ∨ f = 12) : keptIndices f (groupOf a g) = keeps f a g := by
  refine firstFour_congr (rank := fun i => sparseRank f ((groupOf a g).getD i 0))
    (rank' := fun i => sparseMagnitude f (elemOf 1 (8 * g + i) a)) fun i hi j hj => ?_
  rw [groupOf_getD hi, groupOf_getD hj, sparseMagnitude_lt hf]

theorem length_keeps (f a g : Nat) : (keeps f a g).length = 4 := length_firstFour _

/-! ### The compressed vector -/

/-- A list of four by its places. -/
theorem map_four {α : Type} {l : List Nat} (h : l.length = 4) (F : Nat → α) :
    l.map F = (List.range 4).map fun k => F (l.getD k 0) := by
  match l, h with
  | [_, _, _, _], _ => rfl

theorem foldr_four {l : List Nat} (h : l.length = 4) :
    l.foldr (fun i acc => i + 8 * acc) 0 = l.getD 0 0 + 8 * l.getD 1 0 + 64 * l.getD 2 0 + 512 * l.getD 3 0 := by
  match l, h with
  | [a, b, c, d], _ =>
    simp
    ring

/-- Lists of one length side by side. -/
theorem flatMap_range {α : Type} (h : Nat → α) (m n : Nat) :
    ((List.range n).flatMap fun g => (List.range m).map fun k => h (m * g + k)) = (List.range (m * n)).map h := by
  induction n with
  | zero => rfl
  | succ n ih => simp [List.range_succ, ih, Nat.mul_succ, List.range_add, Function.comp_def]

/-- Lanes above the low ones of a vector. -/
theorem elemOf_add (w m k v : Nat) : elemOf w (m + k) v = elemOf w k (v / 2 ^ (8 * w * m)) := by
  rw [elemOf, elemOf, Nat.div_div_eq_div_mul, ← pow_add, Nat.mul_add]

/-- The kept codes, in the first half of the vector. -/
theorem keptCodes_eq {f a v : Nat} (hf : f = 0 ∨ f = 4 ∨ f = 11 ∨ f = 12)
    (h : ∀ g k, g < 16 → k < 4 → elemOf 1 (4 * g + k) v = elemOf 1 (8 * g + (keeps f a g).getD k 0) a) :
    (((List.range 16).map (groupOf a)).flatMap fun l => (keptIndices f l).map fun i => l.getD i 0) =
      (List.range 64).map fun j => elemOf 1 j v := by
  rw [← flatMap_range (fun j => elemOf 1 j v) 4 16, List.flatMap_map]
  refine List.flatMap_congr fun g hg => ?_
  have hcodes : (keeps f a g).map (fun i => (groupOf a g).getD i 0) = (keeps f a g).map fun i => elemOf 1 (8 * g + i) a :=
    List.map_congr_left fun i hi => groupOf_getD (mem_firstFour_lt hi)
  rw [keptIndices_eq hf, hcodes, map_four (length_keeps f a g)]
  exact List.map_congr_left fun k hk => (h g k (List.mem_range.1 hg) (List.mem_range.1 hk)).symm

/-- The group codes behind them. -/
theorem groupCodes_eq {f a v : Nat} (hf : f = 0 ∨ f = 4 ∨ f = 11 ∨ f = 12)
    (h : ∀ g, g < 16 → elemOf 2 (32 + g) v = (keeps f a g).getD 0 0 + 8 * (keeps f a g).getD 1 0 + 64 * (keeps f a g).getD 2 0 +
      512 * (keeps f a g).getD 3 0) :
    ((List.range 16).map (groupOf a)).map (fun l => (keptIndices f l).foldr (fun i acc => i + 8 * acc) 0) =
      (List.range 16).map fun g => elemOf 2 (32 + g) v := by
  rw [List.map_map]
  refine List.map_congr_left fun g hg => ?_
  rw [Function.comp_apply, keptIndices_eq hf, foldr_four (length_keeps f a g), h g (List.mem_range.1 hg)]

/-- The vector that the rule describes is the one that the model makes. -/
theorem compressVector_eq {f a v : Nat} (hf : f = 0 ∨ f = 4 ∨ f = 11 ∨ f = 12) (h : compressed f a v) : compressVector f a = v := by
  obtain ⟨hlt, hkept, hcodes, hzero⟩ := h
  have hlow := ofElems_elemOf 1 64 v
  have hmid : ofElems 2 ((List.range 16).map fun g => elemOf 2 (32 + g) v) = v / 2 ^ (8 * 1 * 64) % 2 ^ (8 * 2 * 16) := by
    rw [show 8 * 1 * 64 = 8 * 2 * 32 from rfl, ← ofElems_elemOf 2 16]
    simp only [elemOf_add]
  have hhigh : v / 2 ^ (8 * 1 * 96) % 2 ^ (8 * 1 * 32) = 0 := by
    have hzeros : ((List.range 32).map fun k => elemOf 1 k (v / 2 ^ (8 * 1 * 96))) = [] ++ List.replicate 32 0 := by
      refine List.eq_replicate_iff.2 ⟨by rw [List.length_map, List.length_range], fun x hx => ?_⟩
      obtain ⟨k, hk, rfl⟩ := List.mem_map.1 hx
      have := List.mem_range.1 hk
      rw [← elemOf_add, hzero _ (by omega) (by omega)]
    rw [← ofElems_elemOf 1 32, hzeros, ofElems_zeros]
    rfl
  have hsmall : v / 2 ^ (8 * 1 * 64) < 2 ^ (8 * 2 * 16) := by
    rw [show 1024 = 8 * 1 * 96 + 8 * 1 * 32 from rfl, pow_add] at hlt
    have hq : v / 2 ^ (8 * 1 * 96) < 2 ^ (8 * 1 * 32) := Nat.div_lt_of_lt_mul hlt
    rw [Nat.mod_eq_of_lt hq, Nat.div_eq_zero_iff_lt (Nat.two_pow_pos (8 * 1 * 96))] at hhigh
    rw [show 8 * 1 * 96 = 8 * 1 * 64 + 8 * 2 * 16 from rfl, pow_add] at hhigh
    exact Nat.div_lt_of_lt_mul hhigh
  have hmodel : compressVector f a = v % 2 ^ (8 * 1 * 64) + 2 ^ (8 * 1 * 64) * (v / 2 ^ (8 * 1 * 64) % 2 ^ (8 * 2 * 16)) := by
    rw [← hlow, ← hmid, ← keptCodes_eq hf hkept, ← groupCodes_eq hf hcodes]
    rfl
  rw [hmodel, Nat.mod_eq_of_lt hsmall, Nat.mod_add_div]

end Sys2Proof.Proofs
end

section
/-!
The conversions and reductions of vectors at issue (R437, R439, R445, R447).
-/
namespace Sys2Proof.Proofs

open Sys2Proof Sys2Proof.Laws Sys2Proof.Machine Sys2Proof.Claims

/-- A lane extended to a word by the signedness of its format (R439). -/
theorem extended_lane {et : ElemType} (h : ElemType.isInt et = true) (x : Nat) :
    w64 (intExtend (etFmt et) x) = BitVec.ofInt 64 (laneInt (etFmt et) (ElemType.bytes et) x) := by
  rw [intExtend, w64_wrap, bytes_of_int h, laneInt_eq]

/-- Settles O28: each instruction sends the value of the model's function, which is that of the rule. -/
theorem conversionsAndReductions : Obligations.ConversionsAndReductions := by
  unfold Obligations.ConversionsAndReductions
  simp only [through_eq_some, portsAgree_iff]
  refine ⟨fun s s1 s2 s3 t vd va pa fd fs rm sat part r a v fl i hform hwf hi hp hports ha hm hv hs => ?_,
    fun d f x r sat => ⟨fun hd hf hx => convert_int r sat hd hf hx, fun hd hf8 hf12 hx hn => convert_nan r sat hd ⟨hf8, hf12⟩ hx hn,
      fun neg hf8 hf12 hx hd h => convert_inf r sat hd ⟨hf8, hf12⟩ hx h,
      fun neg m e r' sat' hf hd8 hd10 hx h => convert_widens r r' sat sat' hf ⟨hd8, hd10⟩ hx h⟩,
    fun s s1 s2 t vd va pa fmt a v i hform hwf hi hp hports ha hv hs => ?_,
    fun s s1 s2 t xd va pa et idx a i hform hwf hi hp hports ha hs => ?_,
    fun s s1 s2 s3 s4 t xd va pa et op r a w v fl i hform hwf hi hp hports ha hm hw hv hs hf => ?_,
    fun s s1 s2 t xd va pa et a i lat v hform hwf hi hp hports ha hs => ?_⟩
  · subst hform
    simp only [wellFormed, Bool.and_eq_true, decide_eq_true_eq] at hwf
    obtain ⟨⟨⟨⟨⟨⟨-, hd⟩, hs'⟩, -⟩, -⟩, hpart⟩, -⟩ := hwf
    refine issueOne_through hi hports (noReports fun _ => rfl) ?_
    rw [opVcvt, guarded_passes hp, op_bind_ok ha, op_bind_ok hm, convertVector_eq hd hs' hpart hv]
    exact putVF_sends hs
  · subst hform
    have hfmt : fmt.toNat = 0 ∨ fmt.toNat = 4 ∨ fmt.toNat = 11 ∨ fmt.toNat = 12 := by
      simp only [wellFormed, Bool.and_eq_true, Bool.or_eq_true, beq_iff_eq] at hwf
      rcases hwf.2 with ((rfl | rfl) | rfl) | rfl <;> decide
    refine issueOne_through hi hports (noReports fun _ => rfl) ?_
    rw [opVsprs, guarded_passes hp, op_bind_ok ha, compressVector_eq hfmt hv]
    exact hs
  · subst hform
    have hint : ElemType.isInt et = true := by
      simp only [wellFormed, Bool.and_eq_true] at hwf
      exact hwf.1.2
    refine issueOne_through hi hports (noReports fun _ => rfl) ?_
    rw [opVext, guarded_passes hp, op_bind_ok ha, extended_lane hint]
    exact hs
  · subst hform hw
    refine issueOne_through hi hports (noReports fun _ => rfl) ?_
    rw [opVred, guarded_passes hp, op_bind_ok ha, op_bind_ok hm, reduceVector_eq, hv]
    exact (op_bind_ok hs).trans hf
  · rcases hform with ⟨rfl, rfl, hv⟩ | ⟨rfl, rfl, hv⟩ <;> refine issueOne_through hi hports (noReports fun _ => rfl) ?_
    · rw [opVamax, guarded_passes hp, op_bind_ok ha, largestMagnitude_eq hv]
      exact hs
    · rw [opVargmx, guarded_passes hp, op_bind_ok ha, largestIndex_eq hv]
      exact hs

end Sys2Proof.Proofs
end

section
/-!
Errors and walks (R116, R127, R135, R139, R140, R424): the counters that errors move, the words that they poison, and what a completed walk
leaves in the TLBs and with the strand that waits for it.
-/
namespace Sys2Proof.Proofs

open Sys2Proof Sys2Proof.Laws Sys2Proof.Machine Sys2Proof.Claims

/-! ### ECC errors -/

/-- A count goes up to all ones. -/
theorem countUp_one (v : Word) : countUp v 1 = if v = BitVec.allOnes 64 then v else v + 1 := by
  have hall : v = BitVec.allOnes 64 ↔ v.toNat = 2 ^ 64 - 1 := by
    rw [← BitVec.toNat_inj, BitVec.toNat_allOnes]
  apply BitVec.eq_of_toNat_eq
  have hlt := v.isLt
  by_cases h : v = BitVec.allOnes 64
  · rw [if_pos h, countUp, BitVec.toNat_ofNat, hall.1 h]
    rfl
  · have hne := mt hall.2 h
    rw [if_neg h, countUp, BitVec.toNat_ofNat, BitVec.toNat_add]
    simp
    omega

theorem countUp_toNat (v : Word) (n : Nat) : (countUp v n).toNat = min (v.toNat + n) (2 ^ 64 - 1) := by
  rw [countUp, BitVec.toNat_ofNat, Nat.mod_eq_of_lt (by omega)]

/-- Where a scratchpad lies. -/
theorem scratch_bounds {c a n : Nat} (h : spaceOf c a = .scratch n) :
    ¬ a < 2 ^ 40 ∧ a < 0x010100000000 ∧ (a - 2 ^ 40) % 0x800000 < 0x400000 := by
  by_cases h1 : a < 2 ^ 40
  · simp only [spaceOf, if_pos h1, reduceCtorEq] at h
  by_cases h2 : a < 0x010100000000
  · by_cases h3 : (a - 2 ^ 40) % 0x800000 < 0x400000
    · exact ⟨h1, h2, h3⟩
    · simp only [spaceOf, if_neg h1, if_pos h2, if_neg h3] at h
      repeat' split at h
      all_goals simp only [reduceCtorEq] at h
  · simp only [spaceOf, if_neg h1, if_neg h2] at h
    repeat' split at h
    all_goals simp only [reduceCtorEq] at h

theorem hbm_bounds {c a : Nat} (h : spaceOf c a = .hbm) : a < 2 ^ 40 := by
  by_contra h1
  simp only [spaceOf, if_neg h1] at h
  repeat' split at h
  all_goals simp only [reduceCtorEq] at h

/-- The ECC word of a scratchpad byte lies in the scratchpad. -/
theorem eccUnit_scratch {s : State} {a n : Nat} (h : s.space a = .scratch n) : s.eccUnit a = 8 ∧ s.eccUnit (a / 8 * 8) = 8 := by
  obtain ⟨h1, h2, h3⟩ := scratch_bounds h
  have h1' : ¬ a / 8 * 8 < 2 ^ 40 := by omega
  have h2' : a / 8 * 8 < 0x010100000000 := by omega
  have h3' : (a / 8 * 8 - 2 ^ 40) % 0x800000 < 0x400000 := by
    obtain ⟨b, rfl⟩ := Nat.exists_eq_add_of_le (not_lt.1 h1)
    rw [Nat.add_sub_cancel_left] at h3
    rw [show (2 ^ 40 + b) / 8 * 8 - 2 ^ 40 = b / 8 * 8 by omega]
    omega
  have hw : s.space (a / 8 * 8) = .scratch ((a / 8 * 8 - 2 ^ 40) / 0x800000) := by
    simp only [State.space, spaceOf, if_neg h1', if_pos h2', if_pos h3']
  simp only [State.eccUnit, h, hw, and_self]

theorem eccUnit_hbm {s : State} {a : Nat} (h : s.space a = .hbm) : s.eccUnit a = 64 ∧ s.eccUnit (a / 64 * 64) = 64 := by
  have hb := hbm_bounds h
  have h1 : a / 64 * 64 < 2 ^ 40 := by omega
  have hw : s.space (a / 64 * 64) = .hbm := by rw [State.space, spaceOf, if_pos h1]
  simp only [State.eccUnit, h, hw, and_self]

/-- One ECC word is poisoned. -/
theorem poisonBytes_word {s : State} {w k : Nat} (hk : 0 < k) (hu : s.eccUnit (w * k) = k) :
    poisonBytes s (w * k) k = { s with poison := if s.poison.contains (w * k) then s.poison else w * k :: s.poison } := by
  have hfirst : w * k / k = w := Nat.mul_div_cancel w hk
  have hlast : (w * k + k - 1) / k = w := by
    rw [Nat.add_sub_assoc hk, Nat.add_comm, Nat.add_mul_div_right _ _ hk, Nat.div_eq_of_lt (by omega), Nat.zero_add]
  simp [poisonBytes, hu, hk.ne', hfirst, hlast]

/-- Its address is among those poisoned, with all that were. -/
theorem poisonBytes_poison {s : State} {w k : Nat} (hk : 0 < k) (hu : s.eccUnit (w * k) = k) :
    w * k ∈ (poisonBytes s (w * k) k).poison ∧ ∀ x ∈ s.poison, x ∈ (poisonBytes s (w * k) k).poison := by
  rw [poisonBytes_word hk hu]
  by_cases h : w * k ∈ s.poison
  · simp [h]
  · simp only [List.contains_eq_mem, h, decide_false, Bool.false_eq_true, if_false]
    exact ⟨List.mem_cons_self, fun x hx => List.mem_cons_of_mem _ hx⟩

/-! ### Completed walks -/

/-- The newest entry of a TLB stays when older ones give way. -/
theorem mem_tlbTrim {o n : Nat} {l : List TlbEntry} {e : TlbEntry} (hn : 0 < n) (he : e.owner = o) : e ∈ tlbTrim o n (l ++ [e]) := by
  refine List.mem_append_left _ ?_
  simp only [List.filter_append, List.filter_cons, he, beq_self_eq_true, if_true, List.filter_nil]
  rw [List.drop_append_of_le_length (by rw [List.length_append, List.length_singleton]; omega)]
  simp

/-- The entry that a filled translation makes in one TLB of its owner. -/
theorem exists_filled (s : State) (owner asid va : Nat) (m : PageMap) : ∃ o ∈ tlbsOf owner,
    (⟨o.1, asid, va / 2 ^ m.bits, m.bits, m.frame, m.perms⟩ : TlbEntry) ∈ (tlbFill s owner asid va m).tlb := by
  by_cases h : owner < 1024
  · refine ⟨(1024 + clusterOf owner, 2048), by simp [tlbsOf, h], ?_⟩
    simp only [tlbFill, tlbsOf, h, if_true, List.foldl_cons, List.foldl_nil]
    exact mem_tlbTrim (by norm_num) rfl
  · refine ⟨(owner, 2048), by simp [tlbsOf, h], ?_⟩
    simp only [tlbFill, tlbsOf, h, if_false, List.foldl_cons, List.foldl_nil]
    exact mem_tlbTrim (by norm_num) rfl

/-- A translation that has been filled in is found. -/
theorem tlbFind_tlbFill (s : State) (owner asid va : Nat) (m : PageMap) : (tlbFind (tlbFill s owner asid va m) owner asid va).isSome = true := by
  obtain ⟨o, ho, hmem⟩ := exists_filled s owner asid va m
  rw [tlbFind, Option.isSome_map, List.find?_isSome]
  exact ⟨_, hmem, by simpa using ⟨o.2, ho⟩⟩

/-- The state without a walk that is over. -/
def withoutWalk (s : State) (w : Walk) : State := { s with walks := s.walks.filter fun x => x.id != w.id }

section
variable {s : State} {w : Walk} {k : Nat} {st : Strand}

/-- A walk that finds its page hands it to the one strand that waits, and fills the TLBs where no TLBI forbade it (R135, R424). -/
theorem walkDone_found {m : PageMap} (hw : s.walks.find? (fun x => x.id == w.id) = some w) (hk : w.waiters = [k]) (ha : w.agents = [])
    (hs : s.strandAt k = some st) (hasid : st.ident.asid = w.asid) (hm : walkTables s w.asid w.va = some m) :
    walkDone s w.id =
      (if w.noFill then withoutWalk s w else tlbFill (withoutWalk s w) (keyCore k) w.asid w.va m).setStrandAt k { st with
        walked := st.walked ++ [⟨w.asid, w.va / 2 ^ m.bits, m.bits, m.frame, m.perms, true⟩] } := by
  have hmatch : (st.ident.asid == w.asid) = true := beq_iff_eq.2 hasid
  simp only [State.strandAt, State.ctx] at hs
  cases hn : w.noFill <;>
    simp only [walkDone, hw, hm, hk, ha, hn, Bool.false_eq_true, if_true, if_false, List.foldl_cons, List.foldl_nil, List.map_cons,
      List.map_nil, List.append_nil, State.strandAt, State.ctx, tlbFill, hs, hmatch, withoutWalk]

/-- One that faults hands the fault on and makes no entry. -/
theorem walkDone_fault (hw : s.walks.find? (fun x => x.id == w.id) = some w) (hk : w.waiters = [k]) (ha : w.agents = [])
    (hs : s.strandAt k = some st) (hasid : st.ident.asid = w.asid) (hm : walkTables s w.asid w.va = none) :
    walkDone s w.id = (withoutWalk s w).setStrandAt k { st with walked := st.walked ++ [⟨w.asid, w.va / 2 ^ 16, 16, 0, 0, false⟩] } := by
  have hmatch : (st.ident.asid == w.asid) = true := beq_iff_eq.2 hasid
  simp only [State.strandAt, State.ctx] at hs
  simp only [walkDone, hw, hm, hk, ha, if_true, List.foldl_cons, List.foldl_nil, List.map_nil, List.append_nil, State.strandAt, State.ctx,
    hs, hmatch, withoutWalk]

end

/-- Settles O44: an error moves one count and poisons one word; a completed walk leaves its strand its result. -/
theorem errorsAndWalks : Obligations.ErrorsAndWalks := by
  refine ⟨fun s core hcore => ?_, fun s addr n hsp hn => ?_, fun s addr hsp => ?_, fun s w k st hw hk ha hs hasid => ?_⟩
  · show Host.Outcome.next (eccCorrection s core) = _
    simp only [eccCorrection, if_neg (not_le.2 hcore), countUp_one]
  · obtain ⟨hu, hu'⟩ := eccUnit_scratch hsp
    obtain ⟨hmem, hall⟩ := poisonBytes_poison (by norm_num) hu'
    have herr : uncorrectableError s addr = (poisonBytes s (addr / 8 * 8) 8).setCore n { (poisonBytes s (addr / 8 * 8) 8).core n with
        uecnt := countUp ((poisonBytes s (addr / 8 * 8) 8).core n).uecnt 1, ueaddr := w64 (addr / 8 * 8 - windowBase n) } := by
      simp [uncorrectableError, hu, hsp, not_le.2 hn]
    have hcore : (poisonBytes s (addr / 8 * 8) 8).core n = s.core n := by
      rw [poisonBytes_word (by norm_num) hu']
      rfl
    refine ⟨_, rfl, ?_⟩
    rw [herr, core_setCore_same, hcore, countUp_toNat]
    exact ⟨hmem, hall, rfl, rfl, by rw [setCore_mem, poisonBytes_word (by norm_num) hu']⟩
  · obtain ⟨hu, hu'⟩ := eccUnit_hbm hsp
    obtain ⟨hmem, hall⟩ := poisonBytes_poison (by norm_num) hu'
    have herr : uncorrectableError s addr = poisonBytes s (addr / 64 * 64) 64 := by
      simp [uncorrectableError, hu, hsp]
    refine ⟨_, rfl, ?_⟩
    rw [herr]
    refine ⟨hmem, hall, ?_, ?_⟩ <;> rw [poisonBytes_word (by norm_num) hu']
  · cases hm : walkTables s w.asid w.va with
    | some m =>
      refine ⟨_, _, congrArg Host.Outcome.next (walkDone_found hw hk ha hs hasid hm), strandAt_setStrandAt_same _ _ _, rfl, ?_, ?_,
        fun h => by simp at h⟩
      · cases w.noFill <;> rfl
      · rintro m' ⟨⟩
        refine ⟨rfl, fun hn => ?_, fun hn => ?_⟩ <;> simp only [hn, Bool.false_eq_true, if_true, if_false]
        · exact tlbFind_tlbFill _ _ _ _ _
        · rfl
    | none =>
      exact ⟨_, _, congrArg Host.Outcome.next (walkDone_fault hw hk ha hs hasid hm), strandAt_setStrandAt_same _ _ _, rfl, rfl,
        fun m h => by simp at h, fun _ => ⟨rfl, _, rfl, rfl⟩⟩

end Sys2Proof.Proofs
end

section
/-!
What the functions of the model do to memory's canonical form (log 2), first part: those that leave memory alone, in the order of the
model's files. A result with several outcomes has a predicate that says where its states' memories stand.
-/
namespace Sys2Proof.Proofs.Form

open Sys2Proof Sys2Proof.Machine Sys2Proof.Laws Sys2Proof.Proofs

/-- Memory is in its canonical form (log 2). -/
abbrev Wf (s : State) : Prop := Memory.wf s.mem = true

theorem foldl_mem {α : Type} (f : State → α → State) (hf : ∀ s a, (f s a).mem = s.mem) (l : List α) (s : State) :
    (l.foldl f s).mem = s.mem := by
  induction l generalizing s with
  | nil => rfl
  | cons a l ih => exact (ih _).trans (hf s a)

theorem wf_of_mem {s t : State} (e : t.mem = s.mem) (h : Wf s) : Wf t := by rwa [Wf, e]

/-- A reading of the array leaves memory as `m`. -/
def GotAt {α : Type} (m : List Host.Cell) : Got α → Prop
  | .got _ s => s.mem = m
  | .empty | .bad _ => True

theorem gotAt_next {α β : Type} {m : List Host.Cell} {g : Got α} {f : α → State → Got β} (hg : GotAt m g)
    (hf : ∀ a s, s.mem = m → GotAt m (f a s)) : GotAt m (g.next f) := by
  cases g with
  | got a s => exact hf a s hg
  | empty => trivial
  | bad r => trivial

/-- A start leaves memory as `m` where it succeeds. -/
def StartAt (m : List Host.Cell) : Except Raise State → Prop
  | .ok s => s.mem = m
  | .error _ => True

/-- An event of the array leaves memory as `m` where it moves. -/
def ArrAt (m : List Host.Cell) : ArrStep → Prop
  | .moved s => s.mem = m
  | .idle | .starved => True

/-- Where a push has come to, memory is as `m`. -/
def PushAt (m : List Host.Cell) : PushFate → Prop
  | .landed s | .blocked s | .fault _ s => s.mem = m

/-- Where an effect has come to, memory is in canonical form. -/
def LandedWf : Landed → Prop
  | .done s | .blocked s | .fault _ s => Wf s

/-! ### Ops -/

@[simp] theorem dropProbes_mem (s : State) (uid : Nat) : (State.dropProbes s uid).mem = s.mem := rfl

@[simp] theorem tlbFill_mem (s : State) (owner asid va : Nat) (m : PageMap) : (tlbFill s owner asid va m).mem = s.mem := rfl

@[simp] theorem addWalk_mem (s : State) (die asid va : Nat) (join : Walk → Walk) : (addWalk s die asid va join).mem = s.mem := by
  unfold addWalk
  grind

@[simp] theorem engineWalks_mem (s : State) (e : Instr) (misses : List (Nat × Nat × Nat)) : (engineWalks s e misses).mem = s.mem :=
  foldl_mem _ (fun s m => by grind [addWalk_mem]) _ s

@[simp] theorem engineRead_mem (s : State) (g : Agent) (va n : Nat) : (engineRead s g va n).2.mem = s.mem := by
  unfold engineRead
  grind [engineAccess_mem, engineAnswer_mem]

@[simp] theorem unwrittenState_mem (s : State) (s' : State) : (unwrittenState s s').mem = s.mem := rfl

@[simp] theorem leaveTrap_mem (s : State) (key status resume : Nat) (kept : List Replay) :
    (leaveTrap s key status resume kept).mem = s.mem := by
  unfold leaveTrap
  grind [setStrandAt_mem]

/-! ### Spool ops -/

@[simp] theorem gRead_mem (s : State) (key : Nat) (sp : Spool) (va n : Nat) : (gRead s key sp va n).2.mem = s.mem := by
  unfold gRead
  grind [engineRead_mem]

@[simp] theorem spoolRead_mem (s : State) (key : Nat) (sp : Spool) (va n : Nat) : (spoolRead s key sp va n).2.mem = s.mem := by
  unfold spoolRead
  grind [gRead_mem]

@[simp] theorem indexAt_mem (s : State) (key : Nat) (sp : Spool) (j : Nat) : (indexAt s key sp j).2.mem = s.mem := by
  unfold indexAt
  grind [spoolRead_mem]

@[simp] theorem gatherItems_mem (key : Nat) (sp ix : Spool) (w n j : Nat) (s : State) : (gatherItems key sp ix w n j s).2.mem = s.mem := by
  induction n generalizing j s with
  | zero => rfl
  | succ n ih =>
    unfold gatherItems
    grind [indexAt_mem, spoolRead_mem]

@[simp] theorem diffItems_mem (key : Nat) (sp : Spool) (w n i : Nat) (s : State) : (diffItems key sp w n i s).2.mem = s.mem := by
  induction n generalizing i s with
  | zero => rfl
  | succ n ih =>
    unfold diffItems
    grind [indexAt_mem]

@[simp] theorem nextElem_mem (s : State) (key : Nat) (st : Strand) (sp : Spool) : (nextElem s key st sp).2.mem = s.mem := by
  unfold nextElem
  simp only
  split
  case h_1 => grind [spoolRead_mem]
  case h_2 => grind [diffItems_mem]
  case h_3 => grind [gatherItems_mem, indexAt_mem, spoolRead_mem]
  case h_6 => rfl
  all_goals
    split
    · grind [spoolRead_mem]
    · grind

@[simp] theorem setSpool_mem (s : State) (key n : Nat) (sp : Option Spool) : (setSpool s key n sp).mem = s.mem := by
  unfold setSpool
  split <;> rfl

@[simp] theorem fetchElement_mem (s : State) (key n : Nat) : (fetchElement s key n).mem = s.mem := by
  unfold fetchElement
  grind [nextElem_mem, setSpool_mem]

@[simp] theorem refetchSpools_mem (s : State) (key : Nat) : (refetchSpools s key).mem = s.mem := by
  unfold refetchSpools
  split <;> rfl

@[simp] theorem pairItems_mem (key : Nat) (sp ix : Spool) (n j : Nat) (s : State) : (pairItems key sp ix n j s).2.mem = s.mem := by
  induction n generalizing j s with
  | zero => rfl
  | succ n ih =>
    unfold pairItems
    grind [indexAt_mem]

/-! ### Flags -/

@[simp] theorem countElement_mem (s : State) (core nan sat : Nat) : (countElement s core nan sat).mem = s.mem := by
  unfold countElement
  split <;> rfl

/-! ### Sys regs -/

@[simp] theorem writeSys_mem (s : State) (key n : Nat) (v : Word) : (writeSys s key n v).mem = s.mem := by
  unfold writeSys
  grind [setStrandAt_mem, setCore_mem, setCtx_mem]

/-! ### Landing -/

@[simp] theorem setSpend_mem (s : State) (asid k : Nat) : (setSpend s asid k).mem = s.mem := rfl

@[simp] theorem pushEntry_mem (s : State) (key : Nat) (f : Flight) (flags : Nat) (r : Raise) : (pushEntry s key f flags r).mem = s.mem := by
  unfold pushEntry
  split <;> rfl

@[simp] theorem takeFlight_mem (s : State) (key : Nat) (f : Flight) (flags : Bool) : (takeFlight s key f flags).mem = s.mem := by
  unfold takeFlight
  split <;> rfl

@[simp] theorem rotateDue_mem (s : State) (key : Nat) : (rotateDue s key).mem = s.mem := by
  unfold rotateDue
  grind [setStrandAt_mem]

/-! ### Array engine -/

theorem popRow_gotAt (s : State) (key n cnt : Nat) : GotAt s.mem (popRow s key n cnt) := by
  unfold popRow
  grind [GotAt, setSpool_mem]

theorem readA_gotAt (s : State) (key : Nat) (o : ArrOp) (aspool : Option Nat) (aview : Word) (sparse : Bool) :
    GotAt s.mem (readA s key o aspool aview sparse) := by
  cases aspool with
  | none =>
    unfold readA
    grind [GotAt]
  | some n =>
    refine gotAt_next (popRow_gotAt ..) fun p s' h => ?_
    grind [GotAt]

theorem readC_gotAt (s : State) (key : Nat) (o : ArrOp) (f : Nat) (src : Option Nat) (v : Word) : GotAt s.mem (readC s key o f src v) := by
  cases src with
  | none =>
    unfold readC
    grind [GotAt]
  | some n => exact gotAt_next (popRow_gotAt ..) fun _ _ h => h

@[simp] theorem setArr_mem (s : State) (key : Nat) (f : Arr → Arr) : (setArr s key f).mem = s.mem := by
  unfold setArr
  split <;> rfl

theorem takeRow_gotAt (s : State) (id i m va : Nat) : GotAt s.mem (takeRow s id i m va) := by
  unfold takeRow
  grind [GotAt]

theorem readElement_gotAt (s : State) (key : Nat) (o : ArrOp) (start : Nat) : GotAt s.mem (readElement s key o start) := by
  unfold readElement
  simp only
  split
  · split
    · trivial
    · exact setArr_mem ..
  · exact gotAt_next (takeRow_gotAt ..) fun _ s' h => (setArr_mem s' _ _).trans h
  · split
    · exact gotAt_next (readC_gotAt ..) fun _ s1 h1 => gotAt_next (h1 ▸ readC_gotAt s1 ..) fun _ s2 h2 => (setArr_mem s2 _ _).trans h2
    · exact gotAt_next (readA_gotAt ..) fun _ s' h => (setArr_mem s' _ _).trans h
  · split
    · split
      · trivial
      · exact setArr_mem ..
    · split
      · trivial
      · split <;> exact setArr_mem ..
  · exact setArr_mem ..
  · exact setArr_mem ..

theorem startCluster_startAt (s : State) (key : Nat) (st : Strand) (o : ArrOp) (addr shape : Word) (x : Nat) :
    StartAt s.mem (startCluster s key st o addr shape x) := by
  have hm := engineAccess_mem s (agentFor key st) addr.toNat 1 .r
  fun_cases startCluster
  case case5 _ _ _ _ _ s1 he _ _ _ _ _ _ _ _ _ _ _ _ forming _ _ _ _ _ _ _ _ _ s2 hs2 _ =>
    have h1 : s1.mem = s.mem := by simpa [he] using hm
    have h2 : s2.mem = s1.mem := by
      clear_value forming
      split at hs2 <;> exact (congrArg (fun p => p.2.mem) hs2).symm
    exact (setArr_mem ..).trans (h2.trans h1)
  all_goals trivial

theorem startRun_startAt (s : State) (key : Nat) (st : Strand) (o : ArrOp) (acc : Word) (aspool : Option Nat) (aview : Word) (m : Nat)
    (sparse : Option Word) (x : Nat) : StartAt s.mem (startRun s key st o acc aspool aview m sparse x) := by
  unfold startRun
  grind [StartAt, setArr_mem]

theorem startOp_startAt (s : State) (key : Nat) (st : Strand) (o : ArrOp) (x : Nat) : StartAt s.mem (startOp s key st o x) := by
  unfold startOp
  split
  · exact startCluster_startAt ..
  · exact startRun_startAt ..
  · exact setArr_mem ..

theorem arrElement_arrAt (s : State) (key : Nat) : ArrAt s.mem (arrElement s key) := by
  have h := readElement_gotAt s key
  unfold arrElement
  grind [ArrAt, GotAt, setStrandAt_mem]

theorem arrCompletion_arrAt (s : State) (key : Nat) : ArrAt s.mem (arrCompletion s key) := by
  unfold arrCompletion
  grind [ArrAt, setStrandAt_mem]

theorem arrStart_arrAt (s : State) (key : Nat) : ArrAt s.mem (arrStart s key) := by
  have h := startOp_startAt s key
  unfold arrStart
  grind [ArrAt, StartAt, setStrandAt_mem]

/-- An event that leaves memory alone does so however often it comes. -/
theorem repeatArr_mem {f : State → Nat → ArrStep} {key : Nat} (hf : ∀ s, ArrAt s.mem (f s key)) (n : Nat) (s : State) :
    (repeatArr f key n s).1.mem = s.mem := by
  induction n generalizing s with
  | zero => rfl
  | succ n ih =>
    have h := hf s
    unfold repeatArr
    grind [ArrAt]

@[simp] theorem arrPulse_mem (s : State) (key : Nat) : (arrPulse s key).1.mem = s.mem := by
  have he := repeatArr_mem fun s => arrElement_arrAt s key
  have hc := repeatArr_mem fun s => arrCompletion_arrAt s key
  have hs := repeatArr_mem fun s => arrStart_arrAt s key
  unfold arrPulse
  grind

@[simp] theorem castRead_mem (s : State) (id : Nat) : (castRead s id).mem = s.mem := by
  unfold castRead
  grind

/-! ### Sequencer -/

@[simp] theorem setRun_mem (s : State) (key : Nat) (bank : RegBank) (k : Nat) (vs : List Bool) : (setRun s key bank k vs).mem = s.mem := by
  induction vs generalizing s k with
  | nil => rfl
  | cons v vs ih => exact (ih _ _).trans (writePAt_mem ..)

@[simp] theorem rotateRun_mem (s : State) (key : Nat) (l : Level) (enter : Bool) : (rotateRun s key l enter).mem = s.mem := by
  unfold rotateRun
  grind [setRun_mem]

@[simp] theorem setLoops_mem (s : State) (key : Nat) (ls : List Level) : (setLoops s key ls).mem = s.mem := by
  unfold setLoops
  split <;> rfl

@[simp] theorem backEdges_mem (key pc after : Nat) (leaving : Bool) (n : Nat) (quiet : Bool) (s : State) :
    (backEdges key pc after leaving n quiet s).2.mem = s.mem := by
  induction n generalizing quiet s with
  | zero => rfl
  | succ n ih =>
    unfold backEdges
    grind [setLoops_mem, rotateRun_mem]

@[simp] theorem reenter_mem (s : State) (key : Nat) : (reenter s key).mem = s.mem := by
  unfold reenter
  split
  · rfl
  · exact foldl_mem _ (fun s l => setRun_mem ..) _ _

@[simp] theorem thaw_mem (s : State) (key : Nat) : (thaw s key).mem = s.mem := by
  unfold thaw
  split <;> rfl

@[simp] theorem freezeAt_mem (s : State) (key : Nat) (w : Wait) : (freezeAt s key w).mem = s.mem := by
  unfold freezeAt
  split <;> rfl

/-! ### Levee -/

@[simp] theorem freeContext_mem (s : State) (key : Nat) : (freeContext s key).mem = s.mem := rfl

@[simp] theorem setSlot_mem (s : State) (n : Nat) (x : LaunchSlot) : (State.setSlot s n x).mem = s.mem := rfl

@[simp] theorem settle_mem (s : State) : (settle s).mem = s.mem := rfl

@[simp] theorem signalPoint_mem (s : State) (slot a : Nat) (b c : Nat) : (signalPoint s slot a b c).mem = s.mem := by
  unfold signalPoint
  grind [settle_mem, setSlot_mem]

@[simp] theorem returnWeight_mem (s : State) (region : Option Nat) (w : Nat) : (returnWeight s region w).mem = s.mem := rfl

@[simp] theorem retirePoint_mem (s : State) (slot a : Nat) (b c : Nat) : (retirePoint s slot a b c).mem = s.mem := by
  unfold retirePoint
  grind [signalPoint_mem, setSlot_mem]

@[simp] theorem askLeave_mem (s : State) (key r : Nat) : (askLeave s key r).mem = s.mem :=
  foldl_mem _ (fun s k => by grind [setStrandAt_mem]) _ s

@[simp] theorem retireStrand_mem (s : State) (key : Nat) : (retireStrand s key).mem = s.mem := by
  have hfree (l : List Nat) (s : State) : (l.foldl freeContext s).mem = s.mem := foldl_mem _ freeContext_mem l s
  unfold retireStrand
  grind [returnWeight_mem, retirePoint_mem, signalPoint_mem, freeContext_mem, setSkein_mem, setStrandAt_mem]

/-! ### Merge -/

@[simp] theorem mergeStart_mem (s : State) (id : Nat) : (mergeStart s id).mem = s.mem := by
  unfold mergeStart
  grind

/-! ### Collectives -/

@[simp] theorem collectiveStart_mem (s : State) (id : Nat) : (collectiveStart s id).mem = s.mem := by
  unfold collectiveStart
  split <;> rfl

/-! ### Copies -/

@[simp] theorem takeCopies_mem (cluster x : Nat) (s : State) : (takeCopies cluster x s).mem = s.mem := by
  fun_induction takeCopies <;> grind

@[simp] theorem enterCopy_mem (s : State) (c : Copy) : (enterCopy s c).mem = s.mem := by
  unfold enterCopy
  grind [takeCopies_mem]

@[simp] theorem locate_mem (s : State) (c : Copy) (r va : Nat) (need : Need) : (locate s c r va need).2.mem = s.mem := by
  unfold locate
  grind [engineAccess_mem]

@[simp] theorem modOwner_mem (s : State) (key uid : Nat) (f : Strand → Strand) : (modOwner s key uid f).mem = s.mem := by
  unfold modOwner
  grind [setStrandAt_mem]

@[simp] theorem copyEnd_mem (s : State) (id : Nat) : (copyEnd s id).mem = s.mem := by
  unfold copyEnd
  grind [takeCopies_mem, modOwner_mem]

/-! ### Tasks -/

@[simp] theorem childRegion_mem (s : State) (st : Strand) : (childRegion s st).2.mem = s.mem := by
  unfold childRegion
  grind

@[simp] theorem packetArrival_mem (s : State) (id : Nat) : (packetArrival s id).mem = s.mem := by
  unfold packetArrival
  grind [setCore_mem]

/-! ### Launch -/

@[simp] theorem moveTail_mem (s : State) (q tail : Nat) : (moveTail s q tail).mem = s.mem := rfl

@[simp] theorem admitRecord_mem (s : State) (n r : Nat) : (admitRecord s n r).mem = s.mem := rfl

@[simp] theorem newRound_mem (s : State) (prio : Nat) : (newRound s prio).mem = s.mem := rfl

/-! ### Leave -/

@[simp] theorem stopCopies_mem (s : State) (uid : Nat) : (stopCopies s uid).mem = s.mem := rfl

@[simp] theorem leaveContext_mem (s : State) (key : Nat) : (leaveContext s key).mem = s.mem := rfl

/-! ### Frontier -/

@[simp] theorem joinLine_mem (s : State) (slot uid : Nat) : (joinLine s slot uid).mem = s.mem := by
  unfold joinLine
  split <;> rfl

@[simp] theorem leaveLine_mem (s : State) (uid : Nat) : (leaveLine s uid).mem = s.mem := rfl

/-! ### Retrieval -/

@[simp] theorem setRequest_mem (s : State) (core id : Nat) (q : Option ProbeReq) : (setRequest s core id q).mem = s.mem := rfl

@[simp] theorem failUpdate_mem (s : State) (core : Nat) (q : ProbeReq) (r : Raise) : (failUpdate s core q r).mem = s.mem := by
  unfold failUpdate
  split <;> rfl

/-! ### Tlb -/

@[simp] theorem walkDone_mem (s : State) (id : Nat) : (walkDone s id).mem = s.mem := by
  unfold walkDone
  split
  · rfl
  · refine (foldl_mem _ (fun s k => by grind [setStrandAt_mem]) _ _).trans ?_
    split
    · split
      · rfl
      · exact foldl_mem _ (fun _ _ => tlbFill_mem ..) _ _
    · rfl

/-! ### Switch -/

@[simp] theorem standBundle_mem (s : State) (key : Nat) (f : Standing) (idle length : Nat) (q : Bool) :
    (standBundle s key f idle length q).mem = s.mem := by
  unfold standBundle
  grind [thaw_mem, reenter_mem]

@[simp] theorem budgetExpiry_mem (s : State) (key : Nat) : (budgetExpiry s key).mem = s.mem := by
  unfold budgetExpiry
  grind [askLeave_mem]

@[simp] theorem preempt_mem (s : State) (key : Nat) : (preempt s key).mem = s.mem := by
  unfold preempt
  grind [askLeave_mem]

@[simp] theorem timeSlice_mem (s : State) (key : Nat) : (timeSlice s key).mem = s.mem := by
  unfold timeSlice
  grind [askLeave_mem]

@[simp] theorem withdrawCast_mem (s : State) (key : Nat) (o : ArrOp) : (withdrawCast s key o).mem = s.mem := rfl

@[simp] theorem withdrawAldbs_mem (s : State) (key : Nat) : (withdrawAldbs s key).mem = s.mem := by
  unfold withdrawAldbs
  split
  · rfl
  · exact foldl_mem _ (fun s o => withdrawCast_mem ..) _ s

@[simp] theorem startLeaving_mem (s : State) (key block : Nat) : (startLeaving s key block).mem = s.mem := by
  unfold startLeaving
  split <;> rfl

@[simp] theorem runOn_mem (s : State) (key : Nat) : (runOn s key).mem = s.mem := by
  unfold runOn
  split <;> rfl

@[simp] theorem resumeCopy_mem (key : Nat) (s : State) (c : Copy) : (resumeCopy key s c).mem = s.mem := by
  unfold resumeCopy
  grind [enterCopy_mem]

@[simp] theorem loadComplete_mem (s : State) (key : Nat) : (loadComplete s key).mem = s.mem := by
  unfold loadComplete
  grind [setCtx_mem]

@[simp] theorem contextSwitch_mem (s : State) (core : Nat) : (contextSwitch s core).mem = s.mem := by
  unfold contextSwitch
  grind [setCore_mem, setCtx_mem]

/-! ### Host -/

@[simp] theorem measure_mem (s : State) (n : Nat) (digest : List Byte) : (measure s n digest).mem = s.mem := rfl

@[simp] theorem writeDevctl_mem (s : State) (v : Word) : (writeDevctl s v).mem = s.mem := by
  unfold writeDevctl
  grind [measure_mem]

@[simp] theorem writePtpcfg_mem (s : State) (v : Word) : (writePtpcfg s v).mem = s.mem := by
  unfold writePtpcfg
  grind

@[simp] theorem syncMessage_mem (s : State) (offset : Int) (domain : Nat) : (syncMessage s offset domain).mem = s.mem := by
  unfold syncMessage
  grind

@[simp] theorem syncTimeout_mem (s : State) : (syncTimeout s).mem = s.mem := rfl

@[simp] theorem waittExpiry_mem (s : State) (key : Nat) : (waittExpiry s key).mem = s.mem := by
  unfold waittExpiry
  grind [setStrandAt_mem]

@[simp] theorem measureStages_mem (s : State) : (measureStages s).mem = s.mem := foldl_mem _ (fun _ _ => measure_mem ..) _ s

@[simp] theorem powerOnBoot_mem (s : State) : (powerOnBoot s).mem = s.mem := by
  unfold powerOnBoot
  grind [measure_mem, measureStages_mem]

@[simp] theorem quote_mem (s : State) (nonce : List Byte) : (quote s nonce).mem = s.mem := by
  unfold quote
  split <;> rfl

@[simp] theorem raiseVersion_mem (s : State) (version : Nat) (sig : List Byte) : (raiseVersion s version sig).mem = s.mem := by
  unfold raiseVersion
  split <;> rfl

@[simp] theorem identityRead_mem (s : State) (off n : Nat) : (identityRead s off n).mem = s.mem := rfl

/-! ### Debug -/

@[simp] theorem setRefused_mem (s : State) (r : Bool) : (setRefused s r).mem = s.mem := rfl

@[simp] theorem debugCommand_mem (s : State) (fits : Strand → Bool) (f : Strand → Strand) : (debugCommand s fits f).mem = s.mem := by
  unfold debugCommand
  grind [setStrandAt_mem, setRefused_mem]

@[simp] theorem debugHalt_mem (s : State) : (debugHalt s).mem = s.mem := by
  unfold debugHalt
  grind [debugCommand_mem]

@[simp] theorem debugData_mem (s : State) (write : Option Word) : (debugData s write).mem = s.mem := by
  unfold debugData
  grind [setStrandAt_mem]

/-! ### Evacuation -/

@[simp] theorem setEvac_mem (s : State) (n : Nat) : (setEvac s n).mem = s.mem := rfl

@[simp] theorem failEvac_mem (s : State) (cause : Nat) : (failEvac s cause).mem = s.mem := rfl

@[simp] theorem leaveEverywhere_mem (s : State) : (leaveEverywhere s).mem = s.mem :=
  foldl_mem _ (fun s c => by grind [setStrandAt_mem]) _ s

@[simp] theorem evacAbort_mem (s : State) : (evacAbort s).mem = s.mem := by
  unfold evacAbort
  split <;> rfl

@[simp] theorem evacRecv_mem (s : State) : (evacRecv s).mem = s.mem := by
  unfold evacRecv
  split <;> rfl

@[simp] theorem saveLaunches_mem (s : State) : (saveLaunches s).mem = s.mem := rfl

@[simp] theorem evacStreamed_mem (s : State) : (evacStreamed s).mem = s.mem := by
  unfold evacStreamed
  split <;> rfl

@[simp] theorem evacDrained_mem (s : State) : (evacDrained s).mem = s.mem := by
  unfold evacDrained
  grind [saveLaunches_mem, setEvac_mem]

@[simp] theorem evacTimeout_mem (s : State) : (evacTimeout s).mem = s.mem := by
  unfold evacTimeout
  split <;> rfl

theorem mem_of_adoptAll {s t : State} (h : adoptAll s = some t) : t.mem = s.mem := by
  unfold adoptAll at h
  obtain ⟨p, -, h⟩ := Option.bind_eq_some_iff.1 h
  simp only at h
  split at h
  · cases h
  · injection h with h
    rw [← h]
    rw [foldl_mem, foldl_mem, foldl_mem] <;> (intros; rfl)

@[simp] theorem evacAdopted_mem (s : State) (ident : Nat) : (evacAdopted s ident).mem = s.mem := by
  unfold evacAdopted
  grind [failEvac_mem, setEvac_mem, mem_of_adoptAll]

@[simp] theorem stationDown_mem (s : State) (n : Nat) (live : Bool) : (stationDown s n live).mem = s.mem := by
  unfold stationDown
  split <;> rfl

@[simp] theorem throttle_mem (s : State) (core mhz : Nat) : (throttle s core mhz).mem = s.mem := by
  unfold throttle
  split
  · rfl
  · exact foldl_mem _ (fun s n => setCore_mem ..) _ s

/-! ### Fabric -/

@[simp] theorem failFar_mem (s : State) (key : Nat) (f : FarOp) (r : Raise) : (failFar s key f r).mem = s.mem := by
  unfold failFar
  grind [setStrandAt_mem]

@[simp] theorem fabricTimeout_mem (s : State) (key id : Nat) : (fabricTimeout s key id).mem = s.mem := by
  unfold fabricTimeout
  grind [failFar_mem]

@[simp] theorem poisonBytes_mem (s : State) (addr n : Nat) : (poisonBytes s addr n).mem = s.mem := by
  unfold poisonBytes
  grind

@[simp] theorem eccCorrection_mem (s : State) (core : Nat) : (eccCorrection s core).mem = s.mem := by
  unfold eccCorrection
  split <;> rfl

@[simp] theorem uncorrectableError_mem (s : State) (addr : Nat) : (uncorrectableError s addr).mem = s.mem := by
  unfold uncorrectableError
  grind [poisonBytes_mem, setCore_mem]

/-! ### Boundary -/

@[simp] theorem replayBranch_mem (s : State) : (replayBranch s).mem = s.mem := by
  unfold replayBranch
  split <;> rfl

@[simp] theorem replayProbes_mem (s : State) : (replayProbes s).mem = s.mem := by
  unfold replayProbes
  grind [setCore_mem, setStrand_mem]

@[simp] theorem popAgenda_mem (s : State) : (popAgenda s).mem = s.mem := rfl

@[simp] theorem afterStep_mem (s : State) : (afterStep s).mem = s.mem := rfl

end Sys2Proof.Proofs.Form
end

section
/-!
The work of engines keeps memory's canonical form: a triple over `Eng` for each part of the merge, collective, update and probe
engines, with its reading as a fact about `Eng.on`.
-/
namespace Sys2Proof.Proofs.Form

open Sys2Proof Sys2Proof.Machine Sys2Proof.Laws Sys2Proof.Proofs
open Std.Do

set_option mvcgen.warning false

/-- The work of an engine keeps the form of memory, whether it ends or stops at a fault. -/
abbrev EngKeeps {α : Type} (e : Eng α) : Prop :=
  ⦃fun s => ⌜Wf s⌝⦄ e ⦃post⟨fun _ s => ⌜Wf s⌝, fun _ s => ⌜Wf s⌝⟩⦄

theorem engKeeps_iff {α : Type} {e : Eng α} : EngKeeps e ↔ ∀ s, Wf s → Wf (e.on s).2 := by
  refine forall_congr' fun s => imp_congr Iff.rfl ?_
  cases h : e.on s with
  | mk r s' =>
    have h' : (e : State → Except Raise α × State) s = (r, s') := h
    cases r <;> simp [WP.wp, PredTrans.pushExcept, PredTrans.pushArg, PredTrans.apply, StateT.run, ExceptT.run, h'] <;> rfl

theorem wf_engOn {α : Type} {e : Eng α} (he : EngKeeps e) {s : State} (h : Wf s) : Wf (e.on s).2 := engKeeps_iff.1 he s h

theorem wf_of_engOn {α : Type} {e : Eng α} {s s' : State} {r : Except Raise α} (he : EngKeeps e) (hr : e.on s = (r, s')) (h : Wf s) :
    Wf s' := by
  simpa [hr] using wf_engOn he h

theorem engKeeps_of {α : Type} {f : State → Except Raise α × State} (hf : ∀ s, Wf s → Wf (f s).2) : EngKeeps (Eng.of f) := engKeeps_iff.2 hf

theorem engKeeps_throw {α : Type} (r : Raise) : EngKeeps (throw r : Eng α) := engKeeps_iff.2 fun _ h => h

theorem engKeeps_bind {α β : Type} {e : Eng α} {f : α → Eng β} (he : EngKeeps e) (hf : ∀ a, EngKeeps (f a)) : EngKeeps (e >>= f) := by
  mvcgen [he, hf]

theorem engKeeps_pure {α : Type} (a : α) : EngKeeps (pure a : Eng α) := engKeeps_iff.2 fun _ h => h

theorem engKeeps_mapM {α β : Type} {f : α → Eng β} (hf : ∀ a, EngKeeps (f a)) (l : List α) : EngKeeps (l.mapM f) := by
  induction l with
  | nil => exact engKeeps_pure _
  | cons a l ih =>
    rw [List.mapM_cons]
    exact engKeeps_bind (hf a) fun _ => engKeeps_bind ih fun _ => engKeeps_pure _

theorem engKeeps_forM {α : Type} {f : α → Eng PUnit} (hf : ∀ a, EngKeeps (f a)) (l : List α) : EngKeeps (l.forM f) := by
  induction l with
  | nil => exact engKeeps_pure _
  | cons a l ih => exact engKeeps_bind (hf a) fun _ => ih

theorem engKeeps_filterM {α : Type} {f : α → Eng Bool} (hf : ∀ a, EngKeeps (f a)) (l : List α) : EngKeeps (l.filterM f) := by
  have haux (acc : List α) : EngKeeps (List.filterAuxM f l acc) := by
    induction l generalizing acc with
    | nil => exact engKeeps_pure _
    | cons a l ih => exact engKeeps_bind (hf a) fun _ => ih _
  exact engKeeps_bind (haux _) fun _ => engKeeps_pure _

theorem engKeeps_read (g : Agent) (va n : Nat) : EngKeeps (g.read va n) :=
  engKeeps_of fun s h => by
    have hm := engineRead_mem s g va n
    grind

theorem engKeeps_write (g : Agent) (va : Nat) (data : List Byte) : EngKeeps (g.write va data) :=
  engKeeps_of fun s h => by
    have hm := wf_engineWrite g va data h
    grind

theorem engKeeps_readLong (g : Agent) (n va len : Nat) : EngKeeps (g.readLong n va len) := by
  induction n generalizing va len with
  | zero => exact engKeeps_pure _
  | succ n ih =>
    unfold Agent.readLong
    mvcgen [engKeeps_read, ih]

theorem engKeeps_writeLong (g : Agent) (n va : Nat) (data : List Byte) : EngKeeps (g.writeLong n va data) := by
  induction n generalizing va data with
  | zero => exact engKeeps_pure _
  | succ n ih =>
    unfold Agent.writeLong
    mvcgen [engKeeps_write, ih]

theorem engKeeps_reach (g : Agent) (va n : Nat) (need : Need) : EngKeeps (g.reach va n need) :=
  engKeeps_of fun s h => by
    have hm := engineAccess_mem s g va n need
    grind

theorem engKeeps_baseOk (g : Agent) (va : Nat) : EngKeeps (baseOk g va) :=
  engKeeps_of fun s h => by
    have hm := engineMap_mem s g va
    grind

/-! #### Merges and collectives (R163, R291) -/

theorem engKeeps_fibreNext (g : Agent) (f : Fibre) (pos : Nat) (last : Option Nat) : EngKeeps (fibreNext g f pos last) := by
  mvcgen [fibreNext, engKeeps_read, engKeeps_throw]

theorem engKeeps_fibreOpen (j : MergeJob) (i : Nat) : EngKeeps (fibreOpen j i) := by
  mvcgen [fibreOpen, engKeeps_read, engKeeps_throw, engKeeps_fibreNext]

theorem engKeeps_valuesAt (g : Agent) (x : Nat) (fs : List Fibre) : EngKeeps (valuesAt g x fs) :=
  engKeeps_mapM (fun _ => engKeeps_read _ _ _) _

theorem engKeeps_passCoord (g : Agent) (x : Nat) (fs : List Fibre) : EngKeeps (passCoord g x fs) :=
  engKeeps_mapM (fun f => by split; exacts [engKeeps_fibreNext _ _ _ _, engKeeps_pure _]) _

theorem engKeeps_putPair (j : MergeJob) (n x v : Nat) : EngKeeps (putPair j n x v) := engKeeps_write _ _ _

theorem engKeeps_collectiveData (c : Collective) (below : Nat) (others : List (List Byte)) : EngKeeps (collectiveData c below others) := by
  mvcgen [collectiveData, engKeeps_readLong, engKeeps_writeLong]

/-! #### Tables, updates and probes (R193-R215) -/

theorem engKeeps_readTable (g : Agent) (fams : List Nat) (va : Nat) : EngKeeps (readTable g fams va) := by
  have hb := engKeeps_mapM (engKeeps_baseOk g)
  mvcgen [readTable, engKeeps_read, hb, engKeeps_throw]

theorem engKeeps_readChain (g : Agent) (t n a : Nat) : EngKeeps (readChain g t n a) := by
  induction n generalizing a with
  | zero => exact engKeeps_throw _
  | succ n ih =>
    unfold readChain
    mvcgen [engKeeps_read, engKeeps_throw, ih]

theorem engKeeps_writeBlock (g : Agent) (b : Block) : EngKeeps (writeBlock g b) := engKeeps_write _ _ _

theorem engKeeps_countDrop (g : Agent) (va : Nat) : EngKeeps (countDrop g va) := by
  mvcgen [countDrop, engKeeps_read, engKeeps_write]

theorem engKeeps_insertId (g : Agent) (va d head gbn id : Nat) : EngKeeps (insertId g va d head gbn id) := by
  mvcgen [insertId, engKeeps_readChain, engKeeps_writeBlock, engKeeps_countDrop, engKeeps_read, engKeeps_write, engKeeps_throw]

theorem engKeeps_deleteId (g : Agent) (d head id : Nat) : EngKeeps (deleteId g d head id) := by
  mvcgen [deleteId, engKeeps_readChain, engKeeps_writeBlock]

theorem engKeeps_readRow (g : Agent) (banks : Tab Word) (t fam j : Nat) : EngKeeps (readRow g banks t fam j) := by
  mvcgen [readRow, engKeeps_read, engKeeps_throw]

theorem engKeeps_signature (g : Agent) (d l : Nat) (xs : List Num) : EngKeeps (signature g d l xs) := by
  have hr (f : Nat → Nat) (n : Nat) := engKeeps_mapM fun k => engKeeps_read g (f k) n
  mvcgen [signature, hr]

theorem engKeeps_signatureOf (g : Agent) (d l : Nat) (h : Hashed) : EngKeeps (signatureOf g d l h) := by
  mvcgen [signatureOf, engKeeps_signature]

theorem engKeeps_allSignatures (g : Agent) (fam : Nat) (h : Hashed) : EngKeeps (allSignatures g fam h) :=
  engKeeps_mapM (fun _ => engKeeps_signatureOf _ _ _ _) _

theorem engKeeps_planRow (g : Agent) (q : ProbeReq) (t : Table) (row : Nat) : EngKeeps (planRow g q t row) := by
  mvcgen [planRow, engKeeps_readRow, engKeeps_allSignatures]

theorem engKeeps_touchBucket (g : Agent) (q : ProbeReq) (p : Plan) (fam old row step : Nat) :
    EngKeeps (touchBucket g q p fam old row step) := by
  mvcgen [touchBucket, engKeeps_deleteId, engKeeps_insertId]

theorem engKeeps_accumulatorOk (g : Agent) (va size : Nat) : EngKeeps (accumulatorOk g va size) := by
  have hr (n : Nat) (need : Need) := engKeeps_mapM fun a => engKeeps_reach g a n need
  mvcgen [accumulatorOk, hr]

theorem engKeeps_findSlot (g : Agent) (key : Nat) (l : List Nat) : EngKeeps (findSlot g key l) := by
  induction l with
  | nil => exact engKeeps_pure _
  | cons a l ih =>
    unfold findSlot
    mvcgen [engKeeps_read, ih]

theorem engKeeps_findOverflow (g : Agent) (key : Nat) (l : List Nat) : EngKeeps (findOverflow g key l) := by
  induction l with
  | nil => exact engKeeps_pure _
  | cons a l ih =>
    unfold findOverflow
    mvcgen [engKeeps_read, ih]

theorem engKeeps_accumulate (g : Agent) (va key v : Nat) : EngKeeps (accumulate g va key v) := by
  mvcgen [accumulate, engKeeps_read, engKeeps_write, engKeeps_throw, engKeeps_accumulatorOk, engKeeps_findSlot, engKeeps_findOverflow]

theorem engKeeps_updateStep (g : Agent) (q : ProbeReq) : EngKeeps (updateStep g q) := by
  mvcgen [updateStep, engKeeps_accumulate, engKeeps_planRow, engKeeps_touchBucket]

theorem engKeeps_updateBegin (g : Agent) (q : ProbeReq) : EngKeeps (updateBegin g q) := by
  mvcgen [updateBegin, engKeeps_readTable, engKeeps_write, engKeeps_throw, engKeeps_planRow]

theorem engKeeps_keepEqual (g : Agent) (banks : Tab Word) (t fam : Nat) (h : Hashed) (ids : List Nat) :
    EngKeeps (keepEqual g banks t fam h ids) :=
  engKeeps_filterM (fun _ => engKeeps_bind (engKeeps_readRow _ _ _ _ _) fun _ => engKeeps_pure _) _

theorem engKeeps_probeBegin (g : Agent) (q : ProbeReq) : EngKeeps (probeBegin g q) := by
  mvcgen [probeBegin, engKeeps_readTable, engKeeps_throw, engKeeps_allSignatures]

theorem engKeeps_fibreOf (g : Agent) (q : ProbeReq) (desc fam base l sig : Nat) : EngKeeps (fibreOf g q desc fam base l sig) := by
  mvcgen [fibreOf, engKeeps_readChain, engKeeps_keepEqual]

theorem engKeeps_nextFibre (g : Agent) (q : ProbeReq) (p : Plan) : EngKeeps (nextFibre g q p) := by
  mvcgen [nextFibre, engKeeps_fibreOf]

end Sys2Proof.Proofs.Form
end

section
/-!
What the functions of the model do to memory's canonical form, second part: those that may write memory keep it, in the order of the
model's files.
-/
namespace Sys2Proof.Proofs.Form

open Sys2Proof Sys2Proof.Machine Sys2Proof.Laws Sys2Proof.Proofs

set_option mvcgen.warning false

/-! ### Spool ops -/

theorem landPush_pushAt (s : State) (key n v seq : Nat) : PushAt s.mem (landPush s key n v seq) := by
  fun_cases landPush <;> grind [PushAt, setSpool_mem, indexAt_mem, pairItems_mem]

theorem wf_writeItems (key : Nat) (sp : Spool) (w : Nat) (ts : List (Option Nat)) (i v : Nat) (s : State) (h : Wf s) :
    Wf (writeItems key sp w ts i v s).2 := by
  fun_induction writeItems <;> grind [wf_engineWrite]

theorem wf_writeElement (s : State) (key n : Nat) (h : Wf s) : Wf (writeElement s key n) := by
  unfold writeElement
  (repeat' split) <;> grind [setStrandAt_mem, setSpool_mem, wf_writeItems]

/-! ### Landing -/

theorem wf_sluiceArrive (s : State) (asid k : Nat) (v : Word) (h : Wf s) : Wf (sluiceArrive s asid k v) := by
  unfold sluiceArrive
  grind [setSpend_mem, wf_writePhys]

theorem wf_landQueue (s : State) (key q seq : Nat) (v : Word) (h : Wf s) : LandedWf (landQueue s key q seq v) := by
  fun_cases landQueue <;> grind [LandedWf, setSkein_mem, setStrandAt_mem]

theorem wf_flushSpool (key n k : Nat) (s : State) (h : Wf s) : Wf (flushSpool key n k s) := by
  fun_induction flushSpool <;> grind [wf_writeElement]

theorem wf_settlePushes (key n : Nat) (fs : List Flight) (s : State) (h : Wf s) : Wf (settlePushes key n fs s).2 := by
  induction fs generalizing s with
  | nil => exact wf_flushSpool _ _ _ _ h
  | cons f fs ih =>
    unfold settlePushes
    grind [landPush_pushAt, PushAt, wf_flushSpool, takeFlight_mem, pushEntry_mem]

theorem wf_releaseSpool (s : State) (key n : Nat) (h : Wf s) : LandedWf (releaseSpool s key n) := by
  unfold releaseSpool
  grind [LandedWf, wf_settlePushes, setStrandAt_mem]

theorem wf_configureSpool (s : State) (key n : Nat) (new : Strand → Spool) (h : Wf s) : LandedWf (configureSpool s key n new) := by
  have hr := wf_releaseSpool s key n h
  unfold configureSpool
  grind [LandedWf, setSpool_mem]

theorem wf_applyEffect (s : State) (key : Nat) (f : Flight) (h : Wf s) : LandedWf (applyEffect s key f) := by
  unfold applyEffect
  split
  case h_1 => exact wf_of_mem (writeXAt_mem ..) h
  case h_2 => exact wf_of_mem (writePAt_mem ..) h
  case h_4 => exact wf_writePhys _ _ h
  case h_5 => exact wf_of_mem (writeSys_mem ..) h
  case h_7 => exact wf_landQueue _ _ _ _ _ h
  case h_8 n v _ => grind [landPush_pushAt, PushAt, LandedWf]
  case h_12 => exact wf_configureSpool _ _ _ _ h
  case h_13 => exact wf_releaseSpool _ _ _ h
  case h_14 => grind [LandedWf, setSpool_mem]
  all_goals grind [LandedWf, setStrandAt_mem]

theorem wf_applyArrWrite (before s : State) (key : Nat) (w : ArrWrite) (h : Wf s) : Wf (applyArrWrite before s key w) := by
  unfold applyArrWrite
  grind [wf_writePhys, countElement_mem]

theorem wf_landArrWrite (before s : State) (key : Nat) (w : ArrWrite) (h : Wf s) : Wf (landArrWrite before s key w) := by
  unfold landArrWrite
  grind [setStrandAt_mem, wf_applyArrWrite]

theorem wf_landAll (before : State) (key : Nat) (flags : List Flight) (held : Bool) (ds : List Due) (s : State) (h : Wf s) :
    Wf (landAll before key flags held ds s).2 := by
  fun_induction landAll <;> grind [wf_landArrWrite, wf_applyEffect, LandedWf, pushEntry_mem]

theorem wf_land (s : State) (key : Nat) (h : Wf s) : Wf (land s key).1 := by
  unfold land
  grind [setStrandAt_mem, wf_landAll]

/-! ### Sequencer -/

theorem wf_advance (s : State) (key : Nat) (h : Wf s) : Wf (advance s key) := by
  unfold advance
  grind [setStrandAt_mem, freezeAt_mem, rotateDue_mem, wf_land]

theorem wf_boundaryTake (s : State) (key : Nat) (t : TrapCall) (h : Wf s) : Wf (boundaryTake s key t) := by
  unfold boundaryTake
  grind [setStrandAt_mem, wf_takeTrap, dropProbes_mem]

theorem wf_commitBundle (s : State) (posts : List Replay) (h : Wf s) : Wf (commitBundle s posts) := by
  unfold commitBundle
  grind [setStrandAt_mem, wf_land, backEdges_mem, arrPulse_mem]

theorem wf_settleIssue (s : State) (posts : List Replay) (h : Wf s) : Wf (settleIssue s posts) := by
  unfold settleIssue
  grind [wf_commitBundle, wf_advance]

/-! ### Levee -/

theorem wf_hubWrite (s : State) (asid va : Nat) (data : List Byte) (h : Wf s) : Wf (hubWrite s asid va data).2 := by
  unfold hubWrite
  grind [wf_engineWrite]

theorem wf_bindStrand (s : State) (key : Nat) (b : Start) (h : Wf s) : Wf (bindStrand s key b) := by
  unfold bindStrand
  grind [wf_memClear, setCtx_mem]

theorem wf_writeCompletion (s : State) (asid r cause : Nat) (h : Wf s) : Wf (writeCompletion s asid r cause).2 := by
  unfold writeCompletion
  grind [wf_hubWrite]

theorem wf_endLaunch (s : State) (slot cause : Nat) (h : Wf s) : Wf (endLaunch s slot cause) := by
  unfold endLaunch
  grind [settle_mem, wf_writeCompletion, wf_postEvent]

theorem wf_completePoint (s : State) (slot a : Nat) (b c : Nat) (h : Wf s) : Wf (completePoint s slot a b c) := by
  unfold completePoint
  grind [setSlot_mem, wf_endLaunch]

theorem wf_fillImage (v : Word) (s : State) (x : Saved) (h : Wf s) : Wf (fillImage v s x) := by
  unfold fillImage
  grind [wf_writePhys]

theorem wf_releaseWaiters (s : State) (cell : Nat) (v : Word) (h : Wf s) : Wf (releaseWaiters s cell v) :=
  wf_foldl _ (fun s x h => wf_fillImage v s x h) _ h

/-! ### Merge -/

theorem engKeeps_putKept (j : MergeJob) (x : Nat) (fs : List Fibre) (m : MergeEnd) (keep : Prop) [Decidable keep] :
    EngKeeps (if keep then do
        let vs ← valuesAt j.agent x fs
        if m.written < mdCap j.desc then putPair j m.written x (combined j vs) else pure ()
      else pure () : Eng Unit) := by
  mvcgen [engKeeps_valuesAt, engKeeps_putPair]

theorem wf_mergeRun (j : MergeJob) (n : Nat) (fs : List Fibre) (m : MergeEnd) (s : State) (h : Wf s) : Wf (mergeRun j n fs m s).2.2 := by
  fun_induction mergeRun
  case case1 => exact h
  case case2 hp => exact wf_of_engOn (engKeeps_putPair _ _ _ _) hp h
  case case3 hp => exact wf_of_engOn (engKeeps_putPair _ _ _ _) hp h
  case case4 hp => exact wf_of_engOn (engKeeps_putKept _ _ _ _ _) hp h
  case case5 hp _ _ _ hq => exact wf_of_engOn (engKeeps_passCoord _ _ _) hq (wf_of_engOn (engKeeps_putKept _ _ _ _ _) hp h)
  case case6 hp _ _ _ hq ih => exact ih (wf_of_engOn (engKeeps_passCoord _ _ _) hq (wf_of_engOn (engKeeps_putKept _ _ _ _ _) hp h))

theorem wf_mergeAll (j : MergeJob) (s : State) (h : Wf s) : Wf (mergeAll j s).2.2 := by
  have hf := wf_engOn (engKeeps_mapM (engKeeps_fibreOpen j) (List.range (mdNf j.desc))) h
  unfold mergeAll
  grind [wf_mergeRun]

theorem wf_mergeEnd (s : State) (id : Nat) (h : Wf s) : Wf (mergeEnd s id) := by
  unfold mergeEnd
  grind [wf_mergeAll, modByUid_mem]

/-! ### Collectives -/

theorem wf_collectiveEnd (s : State) (id : Nat) (others : List (List Byte)) (down : Bool) (h : Wf s) :
    Wf (collectiveEnd s id others down) := by
  have he (c : Collective) (below : Nat) := wf_engOn (engKeeps_collectiveData c below others) h
  unfold collectiveEnd
  grind [wf_engineWrite, modByUid_mem]

/-! ### Copies -/

theorem wf_copyWrite (s : State) (c : Copy) (da : Nat) (src d : Side) (v : Nat) (h : Wf s) : Wf (copyWrite s c da src d v).2 := by
  unfold copyWrite
  grind [wf_engineWrite]

theorem wf_copyPoint (s : State) (c : Copy) (h : Wf s) : Wf (copyPoint s c).2 := by
  unfold copyPoint
  grind [engineRead_mem, locate_mem, wf_copyWrite]

theorem wf_copyStep (s : State) (id : Nat) (h : Wf s) : Wf (copyStep s id) := by
  unfold copyStep
  grind [wf_copyPoint, modOwner_mem]

theorem wf_copyMove (n : Nat) (s : State) (id : Nat) (h : Wf s) : Wf (copyMove n s id) := by
  induction n generalizing s with
  | zero => exact h
  | succ n ih =>
    unfold copyMove
    grind [wf_copyStep]

/-! ### Image -/

theorem wf_writeCells (a : Nat) (t : Cells) (s : State) (h : Wf s) : Wf (writeCells a t s) :=
  wf_foldl _ (fun _ _ h => wf_writePhys _ _ h) t h

theorem wf_writeEvents (a : Nat) (t : Cells) (s : State) (h : Wf s) : Wf (writeEvents a t s) :=
  wf_foldl _ (fun _ _ h => wf_writePhys _ _ h) t h

theorem wf_writeImage (s : State) (key block : Nat) (st : Strand) (copies : List Copy) (f : ImageFacts) (h : Wf s) :
    Wf (writeImage s key block st copies f) :=
  wf_moveBytes _ _ _ <| wf_writePhys _ _ <| wf_writeEvents _ _ _ <| wf_writeCells _ _ _ <| wf_writeCells _ _ _ <| wf_writeCells _ _ _ <|
    wf_writeCells _ _ _ <| wf_foldl _ (fun _ _ h => wf_writePhys _ _ h) _ <| wf_writePhys _ _ <| wf_writePhys _ _ <| wf_writePhys _ _ <|
    wf_memClear _ _ h

/-! ### Tasks -/

theorem wf_waitersBy (s : State) (pa : Nat) (up : Bool) (h : Wf s) : Wf (waitersBy s pa up) := by
  unfold waitersBy
  grind [wf_writePhys]

theorem wf_squash (s : State) (key pa : Nat) (h : Wf s) : Wf (squash s key pa) := by
  unfold squash
  grind [freeContext_mem, wf_waitersBy]

theorem wf_awaitFuture (s : State) (key va pa : Nat) (h : Wf s) : Wf (awaitFuture s key va pa) := by
  unfold awaitFuture
  grind [setStrandAt_mem, wf_waitersBy]

theorem wf_taskBind (s : State) (core ctx : Nat) (h : Wf s) : Wf (taskBind s core ctx) := by
  unfold taskBind
  grind [wf_bindStrand, setCore_mem]

/-! ### Launch -/

theorem wf_disableQueue (s : State) (q cause : Nat) (h : Wf s) : Wf (disableQueue s q cause) := by
  unfold disableQueue
  grind [wf_writePhys]

theorem wf_advanceHead (s : State) (q prio : Nat) (h : Wf s) : Wf (advanceHead s q prio) := by
  unfold advanceHead
  grind [wf_writePhys]

theorem wf_doorbell (s : State) (q : Nat) (v : Word) (h : Wf s) : Wf (doorbell s q v) := by
  unfold doorbell
  simp only []
  split_ifs
  · exact h
  · exact h
  · exact wf_disableQueue _ _ _ h
  · exact wf_of_mem (moveTail_mem ..) h

theorem wf_admission (s : State) (q : Nat) (h : Wf s) : Wf (admission s q) := by
  fun_cases admission <;> grind [wf_disableQueue, newRound_mem, wf_writeCompletion, wf_advanceHead, wf_postEvent, admitRecord_mem]

theorem wf_bindMembers (shot : Shot) (x : LaunchSlot) (skein : Option Nat) (m : Nat) (l : List (Nat × Nat)) (s : State) (h : Wf s) :
    Wf (bindMembers shot x skein m l s) := by
  fun_induction bindMembers <;> grind [wf_bindStrand]

theorem wf_pointFire (s : State) (slot a b c key : Nat) (h : Wf s) : Wf (pointFire s slot a b c key) := by
  unfold pointFire
  grind [wf_bindMembers, setSlot_mem]

theorem wf_skeinBind (s : State) (slot a b c : Nat) (h : Wf s) : Wf (skeinBind s slot a b c) := by
  unfold skeinBind
  grind [wf_bindMembers, setSlot_mem]

theorem wf_pointCompletion (s : State) (slot a : Nat) (b c : Nat) (h : Wf s) : Wf (pointCompletion s slot a b c) := by
  unfold pointCompletion
  grind [wf_completePoint]

/-! ### Leave -/

theorem wf_dropWaiters (s : State) (uid : Nat) (h : Wf s) : Wf (dropWaiters s uid) :=
  wf_foldl _ (fun s w h => wf_waitersBy s w.cell false h) _ h

theorem wf_returnBlock (s : State) (die block : Nat) (h : Wf s) : Wf (returnBlock s die block) := by
  unfold returnBlock
  grind [wf_memPut]

theorem mem_of_takeBlock {die : Nat} {s t : State} {b : Nat} (h : takeBlock s die = some (b, t)) : t.mem = s.mem := by
  unfold takeBlock at h
  grind

/-! ### Frontier -/

theorem wf_returnStrand (s : State) (slot key : Nat) (h : Wf s) : Wf (returnStrand s slot key) := by
  unfold returnStrand
  grind [wf_returnBlock, setStrandAt_mem, stopCopies_mem, leaveContext_mem, wf_dropWaiters]

theorem wf_returnSaved (slot : Nat) (s : State) (x : Saved) (h : Wf s) : Wf (returnSaved slot s x) := by
  unfold returnSaved
  grind [wf_returnBlock, wf_dropWaiters]

theorem wf_discardPackets (s : State) (slot : Nat) (h : Wf s) : Wf (discardPackets s slot) :=
  wf_foldl _ (fun s p h => by split <;> grind [wf_waitersBy]) _ h

theorem wf_sweepSave (s : State) (slot : Nat) (h : Wf s) : Wf (sweepSave s slot) :=
  wf_discardPackets _ _ <| wf_foldl _ (fun s v h => wf_returnSaved slot s v h) _ <|
    wf_foldl _ (fun s c h => wf_returnStrand s slot c.1 h) _ h

theorem wf_beginSave (s : State) (slot : Nat) (h : Wf s) : Wf (beginSave s slot) := by
  unfold beginSave
  grind [setSlot_mem, wf_sweepSave]

theorem wf_dropLaunch (s : State) (launch : Nat) (h : Wf s) : Wf (dropLaunch s launch) :=
  wf_foldl _ (fun s p h => by cases p.parkedOn <;> grind [wf_waitersBy]) _ <|
    wf_foldl _ (fun s v h => wf_dropWaiters _ _ (wf_returnBlock s _ _ h)) _ h

theorem wf_finishSave (s : State) (slot : Nat) (h : Wf s) : Wf (finishSave s slot) := by
  unfold finishSave
  grind [wf_dropLaunch, setSlot_mem, wf_discardPackets]

theorem wf_restoreFrontier (s : State) (slot : Nat) (f : Frontier) (h : Wf s) : Wf (restoreFrontier s slot f) := by
  unfold restoreFrontier
  grind [wf_dropLaunch, settle_mem, setSlot_mem, wf_endLaunch]

/-! ### Retrieval -/

theorem wf_startUpdate (s : State) (core : Nat) (h : Wf s) : Wf (startUpdate s core) := by
  have hb (q : ProbeReq) := wf_engOn (engKeeps_updateBegin q.agent q) h
  unfold startUpdate
  grind [setRequest_mem, unwrittenState_mem, failUpdate_mem]

theorem wf_endUpdate (s : State) (core : Nat) (h : Wf s) : Wf (endUpdate s core) := by
  have hb (q : ProbeReq) := wf_engOn (engKeeps_updateStep q.agent q) h
  unfold endUpdate
  grind [setRequest_mem, unwrittenState_mem, failUpdate_mem]

theorem wf_failProbe (s : State) (core : Nat) (q : ProbeReq) (r : Raise) (h : Wf s) : Wf (failProbe s core q r) := by
  have he := wf_engOn (engKeeps_write q.agent q.area (probeHeader r.cause 0 0)) h
  unfold failProbe
  grind [setRequest_mem, modByUid_mem]

theorem wf_startProbe (s : State) (core : Nat) (h : Wf s) : Wf (startProbe s core) := by
  have hb (q : ProbeReq) := wf_engOn (engKeeps_probeBegin q.agent q) h
  unfold startProbe
  grind [setRequest_mem, wf_failProbe]

theorem wf_publishProbe (s : State) (core : Nat) (q : ProbeReq) (ids : List Nat) (h : Wf s) : Wf (publishProbe s core q ids) := by
  have hk (l : List (List Byte × Nat)) : EngKeeps (l.forM fun (b, i) => q.agent.write (q.area + 64 + 128 * i) b) :=
    engKeeps_forM (f := fun (b, i) => q.agent.write (q.area + 64 + 128 * i) b) (fun (b, i) => by exact engKeeps_write _ _ _) l
  fun_cases publishProbe
  case case1 hs => exact wf_failProbe _ _ _ _ (wf_of_engOn (hk _) hs h)
  case case2 s1 hs s2 u s3 hw => exact wf_of_engOn (s := s2) (s' := s3) (engKeeps_write _ _ _) hw (wf_of_engOn (s' := s1) (hk _) hs h)
  case case3 s1 hs s2 e s3 hw =>
    exact wf_failProbe _ _ _ _ (wf_of_engOn (s := s2) (engKeeps_write _ _ _) hw (wf_of_engOn (s' := s1) (hk _) hs h))

theorem wf_probeUnion (s : State) (core : Nat) (q : ProbeReq) (p : Plan) (h : Wf s) : Wf (probeUnion s core q p) := by
  unfold probeUnion
  grind [wf_publishProbe, setRequest_mem]

theorem wf_endProbe (s : State) (core : Nat) (h : Wf s) : Wf (endProbe s core) := by
  have hf (q : ProbeReq) (p : Plan) := wf_engOn (engKeeps_nextFibre q.agent q p) h
  unfold endProbe
  grind [setRequest_mem, wf_failProbe, wf_probeUnion]

/-! ### Switch -/

theorem wf_hungStrand (s : State) (key : Nat) (h : Wf s) : Wf (hungStrand s key) := by
  unfold hungStrand
  grind [setStrandAt_mem, wf_postEvent]

theorem mem_of_leaveAll {die : Nat} {l : List Nat} {s t : State} (h : leaveAll die l s = some t) : t.mem = s.mem := by
  induction l generalizing s with
  | nil => cases h; rfl
  | cons k l ih =>
    unfold leaveAll at h
    grind [mem_of_takeBlock, startLeaving_mem]

theorem wf_strandSwitch (s : State) (key : Nat) (h : Wf s) : Wf (strandSwitch s key) := by
  have hr (l : List Nat) : (l.foldl runOn s).mem = s.mem := foldl_mem _ runOn_mem l s
  unfold strandSwitch
  grind [setCtx_mem, startLeaving_mem, mem_of_leaveAll, wf_postEvent, freezeAt_mem]

theorem withdrawAll_mem (l : List ArrOp) (s : State) (key : Nat) : (l.foldl (fun s o => withdrawCast s key o) s).mem = s.mem :=
  foldl_mem _ (fun _ _ => withdrawCast_mem ..) l s

theorem wf_saveComplete (s : State) (key : Nat) (h : Wf s) : Wf (saveComplete s key) := by
  have hw (l : List ArrOp) (s : State) := withdrawAll_mem l s key
  fun_cases saveComplete <;> grind [stopCopies_mem, leaveContext_mem, wf_dropWaiters, dropProbes_mem, wf_writeImage, wf_postEvent]

theorem wf_resumeOne (s : State) (x : Saved) (key : Nat) (h : Wf s) : Wf (resumeOne s x key) := by
  unfold resumeOne
  exact wf_of_mem (foldl_mem _ (fun s c => resumeCopy_mem ..) _ _) <| wf_returnBlock _ _ _ (wf_moveBytes _ _ _ h)

theorem wf_strandResume (s : State) (image key : Nat) (h : Wf s) : Wf (strandResume s image key) := by
  have hr (l : List (Saved × Nat)) :
    Wf (l.foldl (fun s p => resumeOne s p.1 p.2) s) := wf_foldl _ (fun s p h => wf_resumeOne s p.1 p.2 h) l h
  unfold strandResume
  grind

theorem wf_resultLanding (s : State) (key : Nat) (h : Wf s) : Wf (resultLanding s key) := by
  unfold resultLanding
  grind [wf_advance]

/-! ### Host -/

theorem wf_svpoolAppend (s : State) (die : Nat) (v : Word) (h : Wf s) : Wf (svpoolAppend s die v) := by
  unfold svpoolAppend
  grind [wf_returnBlock]

theorem wf_writeHostReg (s : State) (off : Nat) (v : Word) (h : Wf s) : Wf (writeHostReg s off v) := by
  fun_cases writeHostReg <;> grind [wf_drainRing]

/-! ### Debug -/

theorem wf_settleDrafts (s : State) (key : Nat) (h : Wf s) : Wf (settleDrafts s key) := by
  have hd (l : List (Nat × Nat)) :
    Wf (l.foldl (fun s d => flushSpool key d.1 9 s) s) := wf_foldl _ (fun s d h => wf_flushSpool _ _ _ s h) l h
  unfold settleDrafts
  grind [setStrandAt_mem]

theorem wf_runOnCommand (s : State) (f : Strand → Strand) (h : Wf s) : Wf (runOnCommand s f) := by
  unfold runOnCommand
  grind [debugCommand_mem, wf_settleDrafts]

theorem wf_debugResume (s : State) (h : Wf s) : Wf (debugResume s) := by
  unfold debugResume
  grind [wf_runOnCommand]

theorem wf_debugStep (s : State) (h : Wf s) : Wf (debugStep s) := by
  unfold debugStep
  grind [wf_runOnCommand]

theorem wf_haltAt (s : State) (key : Nat) (h : Wf s) : Wf (haltAt s key) := by
  unfold haltAt
  grind [setStrandAt_mem]

theorem wf_debuggerHalt (s : State) (core : Nat) (h : Wf s) : Wf (debuggerHalt s core) := by
  unfold debuggerHalt
  grind [wf_haltAt]

/-! ### Evacuation -/

theorem wf_endCollective (s : State) (id : Nat) (h : Wf s) : Wf (endCollective s id) := by
  unfold endCollective
  grind [wf_collectiveEnd]

theorem wf_evacGo (s : State) (h : Wf s) : Wf (evacGo s) := by
  have hc (l : List Nat) : Wf (l.foldl endCollective s) := wf_foldl _ (fun s n h => wf_endCollective s n h) l h
  unfold evacGo
  grind [leaveEverywhere_mem, setEvac_mem, failEvac_mem]

theorem wf_evacControl (s : State) (ctl : Nat) (h : Wf s) : Wf (evacControl s ctl) := by
  unfold evacControl
  grind [wf_evacGo, evacRecv_mem, evacAbort_mem]

theorem wf_hostRegisterWrite (s : State) (off : Nat) (v : Word) (h : Wf s) : Wf (hostRegisterWrite s off v) := by
  unfold hostRegisterWrite
  grind [wf_writeHostReg, wf_evacControl]

theorem wf_evacStopped (s : State) (h : Wf s) : Wf (evacStopped s) := by
  unfold evacStopped
  grind [saveLaunches_mem, setEvac_mem, wf_writePhys]

theorem wf_powerLost (s : State) : Wf (powerLost s) := rfl

theorem wf_thermalShutdown (s : State) (celsius : Nat) (h : Wf s) : Wf (thermalShutdown s celsius) := by
  unfold thermalShutdown
  grind [wf_powerLost]

/-! ### Fabric -/

theorem wf_landFar (s : State) (key : Nat) (d : Dest) (v : Nat) (h : Wf s) : Wf (landFar s key d v) := by
  unfold landFar
  grind [wf_writePhys, writeXAt_mem]

theorem wf_endFar (s : State) (key : Nat) (f : FarOp) (v : Nat) (h : Wf s) : Wf (endFar s key f v) := by
  unfold endFar
  grind [setStrandAt_mem, wf_landFar]

theorem wf_performFar (s : State) (key : Nat) (f : FarOp) (h : Wf s) : Wf (performFar s key f) := by
  unfold performFar
  grind [wf_writePieces, wf_endFar, failFar_mem]

theorem wf_performSend (s : State) (key : Nat) (st : Strand) (f : FarOp) (q : Nat) (v : Word) (h : Wf s) :
    Wf (performSend s key st f q v) := by
  fun_cases performSend <;> grind [failFar_mem, wf_sluiceArrive, setStrandAt_mem]

theorem wf_performOrFail (s : State) (key : Nat) (st : Strand) (f : FarOp) (served : State) (h : Wf s) (hs : Wf served) :
    Wf (performOrFail s key st f served) := by
  unfold performOrFail
  grind [failFar_mem]

theorem wf_farLoadLanding (s : State) (key : Nat) (id : Nat) (h : Wf s) : Wf (farLoadLanding s key id) := by
  unfold farLoadLanding
  grind [wf_performFar, wf_performOrFail]

theorem wf_farStorePerform (s : State) (key : Nat) (id : Nat) (h : Wf s) : Wf (farStorePerform s key id) := by
  unfold farStorePerform
  grind [wf_performFar, wf_performSend, wf_performOrFail]

theorem wf_fabricResponse (s : State) (key id : Nat) (mark : Bool) (data : List Byte) (status : Nat) (h : Wf s) :
    Wf (fabricResponse s key id mark data status) := by
  unfold fabricResponse
  grind [setStrandAt_mem, wf_endFar, failFar_mem]

theorem wf_serveAtomic (s : State) (addr n : Nat) (new : Nat → Option (List Byte)) (h : Wf s) : Wf (serveAtomic s addr n new) := by
  unfold serveAtomic
  grind [wf_writePhys]

theorem wf_serveOuter (s : State) (addr : Nat) (access : OuterAccess) (h : Wf s) : Wf (serveOuter s addr access) := by
  unfold serveOuter
  grind [poisonBytes_mem, wf_writePhys, wf_serveAtomic]

theorem wf_fabricAccess (s : State) (source addr : Nat) (access : OuterAccess) (h : Wf s) : Wf (fabricAccess s source addr access) := by
  unfold fabricAccess
  grind [wf_serveOuter]

theorem wf_hostMemory (s : State) (addr : Nat) (access : OuterAccess) (h : Wf s) : Wf (hostMemory s addr access) := by
  unfold hostMemory
  grind [wf_serveOuter]

theorem wf_hostAccess (s : State) (addr : Nat) (access : OuterAccess) (h : Wf s) : Wf (hostAccess s addr access) := by
  unfold hostAccess
  grind [wf_hostMemory]

theorem wf_landDue (s : State) (key : Nat) (h : Wf s) : Wf (landDue s key) := by
  unfold landDue
  grind [wf_land]

theorem wf_windowWrite (s : State) (core off : Nat) (data : List Byte) (h : Wf s) : Wf (windowWrite s core off data) := by
  unfold windowWrite
  grind [wf_writePhys, wf_landDue]

theorem wf_windowRead (s : State) (core off n : Nat) (h : Wf s) : Wf (windowRead s core off n) := by
  unfold windowRead
  grind [wf_serveOuter]

theorem wf_sluiceArrival (s : State) (source asid k : Nat) (v : Word) (h : Wf s) : Wf (sluiceArrival s source asid k v) := by
  unfold sluiceArrival
  grind [wf_sluiceArrive]

/-! ### Traps -/

theorem wf_trapEntry (s : State) (key cause : Nat) (info : Word) (h : Wf s) : Wf (trapEntry s key cause info) := by
  unfold trapEntry
  grind [wf_boundaryTake]

theorem wf_userInterrupt (s : State) (key : Nat) (h : Wf s) : Wf (userInterrupt s key) := by
  unfold userInterrupt
  grind [setStrandAt_mem]

/-! ### Boundary -/

theorem wf_landPulse (s : State) (key : Nat) (h : Wf s) : Wf (landPulse s key).1 := by
  unfold landPulse
  grind [freezeAt_mem, wf_land, arrPulse_mem]

theorem wf_waitOn (s : State) (key : Nat) (st : Strand) (w : Wait) (h : Wf s) : Wf (waitOn s key st w) := by
  unfold waitOn
  grind [setStrandAt_mem, wf_advance]

end Sys2Proof.Proofs.Form
end

section
/-!
The operations of the slot instructions keep memory's canonical form: a triple over `Op` for each shared operation and each
instruction. What an operation registers while its core waits keeps the form too.
-/
namespace Sys2Proof.Proofs.Form

open Sys2Proof Sys2Proof.Machine Sys2Proof.Laws Sys2Proof.Proofs
open Std.Do

set_option mvcgen.warning false

/-! ### What an operation leaves -/

/-- What an operation that has stopped registers, while its core waits, keeps the form. -/
def Benign : Stop → Prop
  | .hold _ register => ∀ s, Wf s → Wf (register s)
  | _ => True

/-- What an operation comes to is in canonical form. -/
def Sound {α : Type} : Except Stop (α × State) → Prop
  | .ok (_, s) => Wf s
  | .error e => Benign e

/-- An operation keeps the form of memory, as a triple. -/
abbrev Keeps {α : Type} (op : Op α) : Prop :=
  ⦃fun s => ⌜Wf s⌝⦄ op ⦃post⟨fun _ s => ⌜Wf s⌝, fun e => ⌜Benign e⌝⟩⦄

/-- The triple says of every run what the operation comes to in it. -/
theorem keeps_iff {α : Type} {op : Op α} : Keeps op ↔ ∀ s, Wf s → Sound (op s) := by
  refine forall_congr' fun s => imp_congr Iff.rfl ?_
  simp only [WP.wp, PredTrans.pushArg]
  cases h : op s with
  | ok r => obtain ⟨a, s'⟩ := r; simp [Sound, PredTrans.apply, StateT.run, h]; rfl
  | error e => simp [Sound, PredTrans.apply, StateT.run, h]; rfl

/-- An operation that answers in the state it was given. -/
theorem keeps_throw {α : Type} (e : Stop) (h : Benign e) : Keeps (throw e : Op α) := keeps_iff.2 fun _ _ => h

theorem keeps_failAt {α : Type} (early : Bool) (rank : Nat) (r : Raise) : Keeps (failAt (α := α) early rank r) :=
  keeps_iff.2 fun s _ => by unfold failAt; split <;> trivial

theorem keeps_raiseNow {α : Type} (r : Raise) : Keeps (raiseNow (α := α) r) := keeps_failAt _ _ _

theorem keeps_fail {α : Type} (cause : Nat) (info : Option Nat) : Keeps (fail (α := α) cause info) :=
  keeps_iff.2 fun s => keeps_iff.1 (keeps_raiseNow (raiseOf s cause info)) s

theorem keeps_failForm {α : Type} (cause : Nat) (info : Option Nat) : Keeps (failForm (α := α) cause info) :=
  keeps_iff.2 fun s => keeps_iff.1 (keeps_failAt true (faultRank cause) (raiseOf s cause info)) s

theorem keeps_failAnswer {α : Type} (r : Raise) : Keeps (failAnswer (α := α) r) :=
  keeps_iff.2 fun s _ => by unfold failAnswer; split <;> trivial

theorem keeps_waitLast {α : Type} (w : Wait) (register : State → State) (h : ∀ s, Wf s → Wf (register s)) :
    Keeps (waitLast (α := α) w register) :=
  keeps_iff.2 fun s _ => by
    unfold waitLast
    split
    · trivial
    · exact h

theorem keeps_report (early : Bool) (rank : Nat) (r : Raise) : Keeps (report early rank r) :=
  keeps_iff.2 fun s h => by
    unfold report
    split
    · exact h
    · trivial

theorem keeps_check (c : Bool) (cause : Nat) (info : Option Nat) : Keeps (check c cause info) :=
  keeps_iff.2 fun s h => by
    unfold check
    split
    · exact h
    · exact keeps_iff.1 (keeps_report _ _ _) s h

theorem keeps_formCheck (c : Bool) (cause : Nat) (info : Option Nat) : Keeps (formCheck c cause info) :=
  keeps_iff.2 fun s h => by
    unfold formCheck
    split
    · exact h
    · exact keeps_iff.1 (keeps_report _ _ _) s h

theorem keeps_waitValue (c : Bool) (w : Wait) : Keeps (waitValue c w) :=
  keeps_iff.2 fun s h => by
    unfold waitValue
    split
    · exact h
    · trivial

theorem keeps_capturing : Keeps capturing := keeps_iff.2 fun _ h => h
theorem keeps_getStrand : Keeps getStrand := keeps_iff.2 fun _ h => h
theorem keeps_modStrand (f : Strand → Strand) : Keeps (modStrand f) := keeps_iff.2 fun _ h => h
theorem keeps_freshId : Keeps freshId := keeps_iff.2 fun _ h => h

/-- A reading that a scan passes over keeps the form when the reading does. -/
theorem keeps_scanned {α : Type} (dflt : α) {op : Op α} (h : Keeps op) : Keeps (scanned dflt op) :=
  keeps_iff.2 fun s hs => by
    have ho := keeps_iff.1 h s hs
    unfold scanned
    split
    · exact hs
    · split
      · exact hs
      · trivial
    · exact ho

theorem keeps_emit (lat : Nat) (eff : Effect) : Keeps (emit lat eff) :=
  keeps_iff.2 fun s h => by
    unfold emit
    split <;> exact h

/-- An operand keeps the form when its reading does, whether it is read, captured or supplied. -/
theorem keeps_operand {read : Op Nat} (h : Keeps read) : Keeps (operand read) := by
  mvcgen [operand, h, keeps_scanned, keeps_throw]

theorem keeps_waitWhile (c : Bool) (w : Wait) : Keeps (waitWhile c w) := by
  mvcgen [waitWhile, keeps_throw, -Spec.throw_Except]

theorem keeps_touchAs (source : Bool) (hits : Dest → Bool) : Keeps (touchAs source hits) := by
  mvcgen [touchAs, keeps_throw, keeps_report, -Spec.throw_Except]

theorem keeps_touch (hits : Dest → Bool) : Keeps (touch hits) := by
  mvcgen [touch, keeps_touchAs]

theorem keeps_touchDest (hits : Dest → Bool) : Keeps (touchDest hits) := by
  mvcgen [touchDest, keeps_touchAs]

theorem keeps_acquireWait : Keeps acquireWait := by
  mvcgen [acquireWait, keeps_waitWhile]

theorem keeps_getX (n : XReg) : Keeps (getX n) := by
  mvcgen [getX, keeps_operand, keeps_touch]

theorem keeps_getP (n : PReg) : Keeps (getP n) := by
  mvcgen [getP, keeps_operand]

theorem keeps_putX (lat : Nat) (n : XReg) (v : Word) : Keeps (putX lat n v) := by
  mvcgen [putX, keeps_touchDest, keeps_emit]

theorem keeps_putP (lat : Nat) (n : PReg) (v : Bool) : Keeps (putP lat n v) := by
  mvcgen [putP, keeps_emit]

theorem keeps_getRound (rm : BitVec 3) : Keeps (getRound rm) := by
  mvcgen [getRound, keeps_operand, keeps_getStrand]

theorem keeps_startWalk (va : Nat) : Keeps (startWalk va) :=
  keeps_iff.2 fun s _ => by
    unfold startWalk
    split
    · trivial
    · intro t ht
      grind [addWalk_mem]

theorem keeps_strandMap (va : Nat) : Keeps (strandMap va) := by
  mvcgen [strandMap, keeps_startWalk]

theorem keeps_strandAccess (va n : Nat) (need : Need) (word : Bool) : Keeps (strandAccess va n need word) := by
  mvcgen [strandAccess, keeps_fail, keeps_strandMap, keeps_raiseNow]

theorem keeps_notInTrap : Keeps notInTrap := by
  mvcgen [notInTrap, keeps_formCheck]

theorem keeps_popLive (n : Nat) : Keeps (popLive n) := by
  mvcgen [popLive, keeps_notInTrap, keeps_failForm, -Spec.throw_Except]
  exact wf_of_mem (setSpool_mem ..) ‹_›

theorem keeps_failable {live : Op Nat} (h : Keeps live) : Keeps (failable live) := by
  mvcgen [failable, h, keeps_scanned, keeps_throw]
  refine keeps_iff.2 (fun t ht => ?_) _ ‹_›
  have := keeps_iff.1 h t ht
  split <;> grind [Sound, Benign]

theorem keeps_popSpool (n : Nat) : Keeps (popSpool n) := by
  mvcgen [popSpool, keeps_failable, keeps_popLive]

theorem keeps_pushSpool (lat n v : Nat) : Keeps (pushSpool lat n v) := by
  mvcgen [pushSpool, keeps_notInTrap, keeps_formCheck, keeps_check, keeps_emit]
  exact wf_of_mem (setSpool_mem ..) ‹_›

theorem keeps_commits (t : Tag) : Keeps (commits t) := by
  mvcgen [commits]

theorem keeps_guarded {t : Tag} {op : Op Unit} (h : Keeps op) : Keeps (guarded t op) := by
  mvcgen [guarded, keeps_commits, h]

theorem keeps_markEffect : Keeps markEffect := by
  mvcgen [markEffect, keeps_modStrand]

theorem keeps_forbidden (inTrap inUser : Bool) : Keeps (forbidden inTrap inUser) := by
  mvcgen [forbidden, keeps_formCheck]

theorem keeps_readVector (v : Nat) : Keeps (readVector v) := by
  mvcgen [readVector, keeps_formCheck, keeps_touch, keeps_failAt]

theorem keeps_getV (v : VReg) : Keeps (getV v) := by
  mvcgen [getV, keeps_popSpool, keeps_operand, keeps_readVector]

theorem keeps_putV (lat : Nat) (v : VReg) (x : Nat) : Keeps (putV lat v x) := by
  mvcgen [putV, keeps_pushSpool, keeps_markEffect, keeps_operand, keeps_formCheck, keeps_touchDest, keeps_emit]

theorem keeps_popQueue (q : Nat) : Keeps (popQueue q) := by
  mvcgen [popQueue, keeps_acquireWait, keeps_notInTrap, keeps_failForm, -Spec.throw_Except]
  all_goals exact wf_writePhys _ _ ‹_›

theorem keeps_pushQueue (lat q : Nat) (v : Word) : Keeps (pushQueue lat q v) := by
  mvcgen [pushQueue, keeps_acquireWait, keeps_notInTrap, keeps_formCheck, keeps_markEffect, keeps_emit]

theorem keeps_getXQ (n : XReg) : Keeps (getXQ n) := by
  mvcgen [getXQ, keeps_getX, keeps_operand, keeps_popQueue]

theorem keeps_putXQ (lat : Nat) (n : XReg) (v : Word) : Keeps (putXQ lat n v) := by
  mvcgen [putXQ, keeps_putX, keeps_pushQueue]

theorem keeps_emitFlags (lat f : Nat) : Keeps (emitFlags lat f) := by
  mvcgen [emitFlags, keeps_emit]

theorem keeps_fetchBytes (a : Nat) : Keeps (fetchBytes a) := by
  mvcgen [fetchBytes, keeps_fail, keeps_strandMap, keeps_raiseNow]

theorem keeps_fetchFrom (n a : Nat) : Keeps (fetchFrom n a) := by
  induction n generalizing a with
  | zero => exact keeps_fail _ _
  | succ n ih =>
    unfold fetchFrom
    mvcgen [keeps_check, ih, keeps_fetchBytes]

theorem keeps_fetchOp : Keeps fetchOp := by
  mvcgen [fetchOp, keeps_fetchFrom]

theorem keeps_afterEnd (a : Nat) : Keeps (afterEnd a) := by
  mvcgen [afterEnd, keeps_fail, keeps_fetchBytes, keeps_failAt]

theorem keeps_waitsOn (s : State) (st : Strand) (scope : Option Nat) (paths : Nat) : Keeps (waitsOn s st scope paths) := by
  mvcgen [waitsOn, keeps_waitWhile]

theorem keeps_orderWait (scope : Option Nat) (paths : Nat) : Keeps (orderWait scope paths) := by
  mvcgen [orderWait, keeps_waitsOn]

theorem keeps_trigWait (scope : Nat) : Keeps (trigWait scope) := by
  mvcgen [trigWait, keeps_waitsOn]

theorem keeps_releaseWait (scope : Nat) : Keeps (releaseWait scope) := by
  mvcgen [releaseWait, keeps_orderWait]

theorem keeps_sendFar (a : Access) (kind : FarKind) (acquire : Bool) : Keeps (sendFar a kind acquire) := by
  mvcgen [sendFar, keeps_freshId]

theorem keeps_releaseAt (scope : Option Nat) (a : Access) : Keeps (releaseAt scope a) := by
  mvcgen [releaseAt, keeps_releaseWait]

theorem keeps_localPoison (a : Access) : Keeps (localPoison a) := by
  mvcgen [localPoison, keeps_raiseNow]

theorem keeps_localSubword (a : Access) : Keeps (localSubword a) := by
  mvcgen [localSubword, keeps_raiseNow]

theorem keeps_performLocal_go (ps : List (Nat × Nat)) (d : List Byte) : Keeps (performLocal.go ps d) := by
  induction ps generalizing d with
  | nil => mvcgen [performLocal.go]
  | cons p ps ih => mvcgen [performLocal.go, keeps_emit, ih]

theorem keeps_performLocal (a : Access) (data : List Byte) : Keeps (performLocal a data) := keeps_performLocal_go _ _

theorem keeps_pipelineLoad (va n : Nat) (word : Bool) (acquire : Option Nat) (dest : Dest) {put : Nat → Op Unit} (h : ∀ v, Keeps (put v)) :
    Keeps (pipelineLoad va n word acquire dest put) := by
  mvcgen [pipelineLoad, keeps_acquireWait, keeps_strandAccess, keeps_localPoison, h, keeps_sendFar]

theorem keeps_pipelineStore (va : Nat) (data : List Byte) (word : Bool) (release : Option Nat) :
    Keeps (pipelineStore va data word release) := by
  mvcgen [pipelineStore, keeps_acquireWait, keeps_strandAccess, keeps_releaseAt, keeps_localSubword, keeps_performLocal, keeps_sendFar,
    keeps_markEffect]

theorem keeps_loadScalar (xd : XReg) (va : Nat) (sz : BitVec 3) (acquire : Option Nat) : Keeps (loadScalar xd va sz acquire) := by
  mvcgen [loadScalar, keeps_touchDest, keeps_pipelineLoad, keeps_putX]

theorem keeps_storeScalar (xs : XReg) (va : Nat) (sz : BitVec 3) (release : Option Nat) : Keeps (storeScalar xs va sz release) := by
  mvcgen [storeScalar, keeps_getX, keeps_pipelineStore]

theorem keeps_opLd (t : Tag) (xv xa : XReg) (sz : BitVec 3) (imm : BitVec 22) : Keeps (opLd t xv xa sz imm) :=
  keeps_guarded (by mvcgen [keeps_getX, keeps_loadScalar])

theorem keeps_opSt (t : Tag) (xv xa : XReg) (sz : BitVec 3) (imm : BitVec 22) : Keeps (opSt t xv xa sz imm) :=
  keeps_guarded (by mvcgen [keeps_getX, keeps_storeScalar])

theorem keeps_naturally (va n : Nat) : Keeps (naturally va n) := by
  mvcgen [naturally, keeps_check]

theorem keeps_opLda (t : Tag) (xv xa : XReg) (sz : BitVec 3) (scope : BitVec 4) (imm : BitVec 18) : Keeps (opLda t xv xa sz scope imm) :=
  keeps_guarded (by mvcgen [keeps_getX, keeps_naturally, keeps_loadScalar])

theorem keeps_opStl (t : Tag) (xv xa : XReg) (sz : BitVec 3) (scope : BitVec 4) (imm : BitVec 18) : Keeps (opStl t xv xa sz scope imm) :=
  keeps_guarded (by mvcgen [keeps_getX, keeps_naturally, keeps_storeScalar])

theorem keeps_opVld (t : Tag) (vv : VReg) (xa : XReg) (imm : BitVec 20) : Keeps (opVld t vv xa imm) :=
  keeps_guarded (by mvcgen [keeps_getX, keeps_formCheck, keeps_touchDest, keeps_pipelineLoad, keeps_putV])

theorem keeps_opVst (t : Tag) (vv : VReg) (p1 : Port) (xa : XReg) (imm : BitVec 20) : Keeps (opVst t vv p1 xa imm) :=
  keeps_guarded (by mvcgen [keeps_getV, keeps_getX, keeps_pipelineStore])

theorem keeps_atomicAccess (va n : Nat) (ord : BitVec 2) (scope : BitVec 4) (kind : FarKind) {perform : Access → Op Unit}
    (h : ∀ a, Keeps (perform a)) : Keeps (atomicAccess va n ord scope kind perform) := by
  mvcgen [atomicAccess, keeps_acquireWait, keeps_check, keeps_strandAccess, keeps_releaseAt, keeps_localPoison, h, keeps_sendFar,
    keeps_markEffect]

theorem keeps_opAmo (t : Tag) (xd xa xb : XReg) (op : BitVec 4) (w : BitVec 1) (ord : BitVec 2) (scope : BitVec 4) :
    Keeps (opAmo t xd xa xb op w ord scope) :=
  keeps_guarded (by mvcgen [keeps_getX, keeps_touchDest, keeps_atomicAccess, keeps_performLocal, keeps_putX])

theorem keeps_getPair (n : XReg) : Keeps (getPair n) := by
  mvcgen [getPair, keeps_getX]

theorem keeps_opAcas (t : Tag) (xd xa xb xc : XReg) (ord : BitVec 2) (scope : BitVec 4) : Keeps (opAcas t xd xa xb xc ord scope) :=
  keeps_guarded (by mvcgen [keeps_getX, keeps_getPair, keeps_touchDest, keeps_atomicAccess, keeps_performLocal, keeps_putX])

theorem keeps_opFence (t : Tag) (scope : BitVec 4) (src _dst : BitVec 7) : Keeps (opFence t scope src _dst) :=
  keeps_guarded (by mvcgen [keeps_orderWait])

theorem keeps_opDrain (t : Tag) (paths : BitVec 7) : Keeps (opDrain t paths) :=
  keeps_guarded (by mvcgen [keeps_orderWait])

theorem keeps_opScfg (t : Tag) (va : VReg) (pa : Port) (sd : SpoolNo) : Keeps (opScfg t va pa sd) := by
  unfold opScfg
  generalize 2 ^ 512 = m
  exact keeps_guarded (by mvcgen [keeps_acquireWait, keeps_getV, keeps_formCheck, onceRead, keeps_capturing, keeps_check, keeps_emit])

theorem keeps_opSrel (t : Tag) (sd : SpoolNo) : Keeps (opSrel t sd) :=
  keeps_guarded (by mvcgen [keeps_getStrand, keeps_formCheck, keeps_emit])

theorem keeps_setSetting (f : Arr → Arr) : Keeps (setSetting f) := by
  mvcgen [setSetting, keeps_modStrand]

theorem keeps_opCprog (t : Tag) (pg : BitVec 2) (va : VReg) (_pa : Port) : Keeps (opCprog t pg va _pa) :=
  keeps_guarded (by mvcgen [keeps_forbidden, keeps_getV, keeps_check, keeps_setSetting, onceRead, keeps_capturing])

theorem keeps_opCsel (t : Tag) (pg : BitVec 2) : Keeps (opCsel t pg) :=
  keeps_guarded (by mvcgen [keeps_forbidden, keeps_setSetting])

theorem keeps_opAflow (t : Tag) (xa : XReg) : Keeps (opAflow t xa) :=
  keeps_guarded (by mvcgen [keeps_forbidden, keeps_getX, keeps_check, keeps_setSetting])

theorem keeps_opAscl (t : Tag) (am : BitVec 2) (ta : TileNo) (bm : BitVec 2) (tb : TileNo) : Keeps (opAscl t am ta bm tb) :=
  keeps_guarded (by mvcgen [keeps_forbidden, keeps_setSetting])

theorem keeps_checkAll (l : List (Bool × Nat)) : Keeps (checkAll l) := by
  mvcgen [checkAll, keeps_fail]

theorem keeps_enqueue (kind : Strand → ArrKind) (rows cols : Strand → Nat) (checks : State → Strand → Nat → List (Bool × Nat)) :
    Keeps (enqueue kind rows cols checks) := by
  mvcgen [enqueue, keeps_forbidden, keeps_waitWhile, keeps_checkAll, keeps_modStrand]

theorem keeps_opAldbLocal (t : Tag) (tv : TileNo) (_pt : Port) : Keeps (opAldbLocal t tv _pt) :=
  keeps_guarded (by mvcgen [keeps_enqueue])

theorem keeps_opAldbCluster (t : Tag) (xa xb : XReg) : Keeps (opAldbCluster t xa xb) :=
  keeps_guarded (by mvcgen [keeps_forbidden, keeps_acquireWait, keeps_getX, keeps_waitWhile, keeps_check, keeps_enqueue])

theorem keeps_opArun (t : Tag) (av : AccNo) (asp : BitVec 1) (an : TileNo) (pan : Port) (bsp : BitVec 1) (bn : TileNo) (pbn : Port)
    (mm1 : BitVec 12) : Keeps (opArun t av asp an pan bsp bn pbn mm1) :=
  keeps_guarded (by mvcgen [keeps_enqueue])

theorem keeps_opAruns (t : Tag) (av : AccNo) (asp : BitVec 1) (an : TileNo) (pan : Port) (mv : TileNo) (pmv : Port)
    (mm1 : BitVec 12) : Keeps (opAruns t av asp an pan mv pmv mm1) :=
  keeps_guarded (by mvcgen [keeps_enqueue])

theorem keeps_opAclrView (t : Tag) (av : AccNo) : Keeps (opAclrView t av) :=
  keeps_guarded (by mvcgen [keeps_enqueue])

theorem keeps_opAclrArray (t : Tag) : Keeps (opAclrArray t) :=
  keeps_guarded (by mvcgen [keeps_enqueue])

theorem keeps_opAdrn (t : Tag) (td : TileNo) (sk : BitVec 2) (av : AccNo) (_pav : Port) (sat : BitVec 1) :
    Keeps (opAdrn t td sk av _pav sat) :=
  keeps_guarded (by mvcgen [keeps_enqueue])

theorem wf_of_engineRead {s s' : State} {g : Agent} {va n : Nat} {r : Except Raise (List Byte)} (hr : engineRead s g va n = (r, s'))
    (h : Wf s) : Wf s' := wf_of_mem (by rw [← engineRead_mem s g va n, hr]) h

theorem keeps_readWaited (va n : Nat) : Keeps (readWaited va n) := by
  mvcgen [readWaited, keeps_strandAccess, keeps_raiseNow, -Spec.throw_Except]
  · exact fun _ h => h
  · exact wf_of_engineRead ‹_› ‹_›

theorem keeps_opMerge (t : Tag) (xa : XReg) (sd : SpoolNo) : Keeps (opMerge t xa sd) :=
  keeps_guarded (by mvcgen [keeps_acquireWait, keeps_getX, keeps_getStrand, keeps_formCheck, keeps_check, keeps_readWaited,
    keeps_freshId, keeps_emit])

theorem keeps_opCred (t : Tag) (xa : XReg) : Keeps (opCred t xa) :=
  keeps_guarded (by mvcgen [keeps_acquireWait, keeps_getX, keeps_check, keeps_strandAccess, keeps_fail, keeps_localPoison,
    keeps_readWaited, keeps_markEffect, keeps_freshId])

theorem keeps_tlBaseOk (r : Nat) (need : Need) : Keeps (tlBaseOk r need) := by
  mvcgen [tlBaseOk, keeps_strandMap]

set_option maxRecDepth 2000 in
theorem keeps_opDcp (t : Tag) (tag : BitVec 4) (vs : VReg) (ps : Port) (vd : VReg) (pd : Port) : Keeps (opDcp t tag vs ps vd pd) := by
  unfold opDcp
  generalize 2 ^ 768 = m
  refine keeps_guarded ?_
  mvcgen [keeps_acquireWait, keeps_waitWhile, keeps_getV, onceRead, keeps_capturing, keeps_fail, keeps_tlBaseOk, keeps_check,
    keeps_markEffect, keeps_freshId, keeps_modStrand]
  all_goals exact wf_of_mem (enterCopy_mem ..) ‹_›

theorem keeps_opDstat (t : Tag) (xd : XReg) (tag : BitVec 4) : Keeps (opDstat t xd tag) :=
  keeps_guarded (by mvcgen [keeps_putX, keeps_modStrand])

theorem keeps_branchTo (a : Nat) : Keeps (branchTo a) := by
  mvcgen [branchTo]

theorem keeps_pcPlus (off : BitVec 32) : Keeps (pcPlus off) := by
  mvcgen [pcPlus]

theorem keeps_getB (b : BReg) : Keeps (getB b) := by
  mvcgen [getB, keeps_getStrand]

theorem keeps_opBrLabel (off : BitVec 32) : Keeps (opBrLabel off) := by
  mvcgen [opBrLabel, keeps_branchTo, keeps_pcPlus]

theorem keeps_opBrReg (b : BReg) : Keeps (opBrReg b) := by
  mvcgen [opBrReg, keeps_branchTo, keeps_getB]

theorem keeps_leafHolds (t : LeafTest) : Keeps (leafHolds t) := by
  mvcgen [leafHolds, keeps_getP]

theorem keeps_opBtree (t0 t1 t2 t3 : LeafTest) : Keeps (opBtree t0 t1 t2 t3) := by
  mvcgen [opBtree, keeps_leafHolds, keeps_branchTo, keeps_getB]

theorem keeps_callTo (a : Nat) : Keeps (callTo a) := by
  mvcgen [callTo, keeps_forbidden, keeps_getStrand, keeps_check, keeps_branchTo]

theorem keeps_opCallLabel (off : BitVec 32) : Keeps (opCallLabel off) := by
  mvcgen [opCallLabel, keeps_callTo, keeps_pcPlus]

theorem keeps_opCallReg (b : BReg) : Keeps (opCallReg b) := by
  mvcgen [opCallReg, keeps_callTo, keeps_getB]

theorem keeps_opRet : Keeps opRet := by
  mvcgen [opRet, keeps_forbidden, keeps_getStrand, keeps_fail, keeps_modStrand, keeps_branchTo]

theorem keeps_opMovb (xf : BitVec 1) (bd : BReg) (xa : XReg) (off : BitVec 32) : Keeps (opMovb xf bd xa off) := by
  mvcgen [opMovb, keeps_emit, keeps_pcPlus, keeps_getX]

theorem keeps_loopPlace : Keeps loopPlace := by
  mvcgen [loopPlace, keeps_operand]

theorem keeps_loopChecks (pc : Nat) : Keeps (loopChecks pc) := by
  mvcgen [loopChecks, keeps_getStrand, keeps_check]

theorem keeps_enterLoop (pc next : Nat) (endOff : BitVec 20) (count stages run : Nat) :
    Keeps (enterLoop pc next endOff count stages run) := by
  mvcgen [enterLoop, keeps_check, keeps_branchTo, keeps_afterEnd, keeps_modStrand, keeps_emit] invariants
    · post⟨fun _ s => ⌜Wf s⌝, fun e => ⌜Benign e⌝⟩
  exact id

theorem keeps_opLoopImm (endOff : BitVec 20) (count : BitVec 28) : Keeps (opLoopImm endOff count) := by
  mvcgen [opLoopImm, keeps_loopPlace, keeps_forbidden, keeps_loopChecks, keeps_enterLoop]

theorem keeps_opLoopX (endOff : BitVec 20) (xa : XReg) : Keeps (opLoopX endOff xa) := by
  mvcgen [opLoopX, keeps_loopPlace, keeps_forbidden, keeps_getX, keeps_loopChecks, keeps_enterLoop]

theorem keeps_keepCounts (n : Nat) (l : List Nat) : Keeps (keepCounts n l) := by
  mvcgen [keepCounts, keeps_modStrand]

theorem keeps_nextCount (n : Nat) : Keeps (nextCount n) := by
  mvcgen [nextCount, keeps_getStrand, keeps_keepCounts, keeps_popSpool, keeps_capturing, keeps_failForm]

theorem keeps_opLoopSpool (endOff : BitVec 20) (s : SpoolNo) : Keeps (opLoopSpool endOff s) := by
  mvcgen [opLoopSpool, keeps_loopPlace, keeps_forbidden, keeps_getStrand, keeps_formCheck, keeps_loopChecks, keeps_nextCount,
    keeps_enterLoop, onceRead, keeps_capturing]

theorem keeps_opLoops (endOff : BitVec 20) (sm1 : BitVec 3) (pk : PReg) (xf : BitVec 1) (count : BitVec 17) :
    Keeps (opLoops endOff sm1 pk xf count) := by
  mvcgen [opLoops, keeps_loopPlace, keeps_forbidden, keeps_getX, keeps_loopChecks, keeps_enterLoop]

theorem keeps_opLeave (n : BitVec 3) : Keeps (opLeave n) := by
  mvcgen [opLeave, keeps_forbidden, keeps_getStrand, keeps_check, keeps_fail, keeps_afterEnd, keeps_modStrand, keeps_branchTo]

theorem keeps_getPN (n : BitVec 1) (p : PReg) : Keeps (getPN n p) := by
  mvcgen [getPN, keeps_getP]

theorem keeps_opPand (na nb : BitVec 1) (pd pa pb : PReg) : Keeps (opPand na nb pd pa pb) := by
  mvcgen [opPand, keeps_getPN, keeps_putP]

theorem keeps_opPor (na nb : BitVec 1) (pd pa pb : PReg) : Keeps (opPor na nb pd pa pb) := by
  mvcgen [opPor, keeps_getPN, keeps_putP]

theorem keeps_opPxor (na nb : BitVec 1) (pd pa pb : PReg) : Keeps (opPxor na nb pd pa pb) := by
  mvcgen [opPxor, keeps_getPN, keeps_putP]

theorem keeps_opPnot (pd pa : PReg) : Keeps (opPnot pd pa) := by
  mvcgen [opPnot, keeps_putP, keeps_getP]

theorem keeps_opPmov (na : BitVec 1) (pd pa : PReg) : Keeps (opPmov na pd pa) := by
  mvcgen [opPmov, keeps_putP, keeps_getPN]

theorem keeps_endIssue : Keeps endIssue := by
  mvcgen [endIssue]

theorem keeps_opDone : Keeps opDone := by
  mvcgen [opDone, keeps_forbidden, keeps_waitWhile, keeps_endIssue]
  exact wf_of_mem (retireStrand_mem ..) ‹_›

theorem keeps_opYield : Keeps opYield := by
  mvcgen [opYield, keeps_forbidden, -Spec.throw_Except]
  exact fun s h => wf_of_mem (askLeave_mem ..) h

theorem keeps_opWaitt (xa : XReg) : Keeps (opWaitt xa) := by
  mvcgen [opWaitt, keeps_getX, -Spec.throw_Except]
  exact fun _ h => h

theorem keeps_opBar (o : BitVec 1) (paths : BitVec 7) : Keeps (opBar o paths) := by
  mvcgen [opBar, keeps_forbidden, keeps_waitLast, keeps_orderWait, keeps_check, keeps_modStrand]
  · exact fun _ h => h
  all_goals exact fun _ _ _ h => h

theorem keeps_opTrig : Keeps opTrig := by
  mvcgen [opTrig, keeps_trigWait]
  all_goals exact wf_of_mem (signalPoint_mem ..) ‹_›

theorem keeps_callTrap (cause : Nat) (code : BitVec 16) : Keeps (callTrap cause code) := by
  mvcgen [callTrap, keeps_modStrand]

theorem keeps_opRft : Keeps opRft := by
  mvcgen [opRft, keeps_getStrand, keeps_fail, keeps_waitWhile, keeps_strandAccess, keeps_raiseNow, keeps_modStrand, keeps_endIssue]
  · exact wf_of_engineRead ‹_› ‹_›
  · exact wf_of_engineRead ‹_› ‹_›
  · exact wf_of_mem (refetchSpools_mem ..) (wf_of_mem (leaveTrap_mem ..) ‹_›)

theorem keeps_opUret : Keeps opUret := by
  mvcgen [opUret, keeps_fail, keeps_check, keeps_waitWhile, keeps_modStrand, keeps_endIssue]

theorem keeps_opMfs (xd : XReg) (srn : BitVec 12) : Keeps (opMfs xd srn) := by
  mvcgen [opMfs, keeps_check, keeps_putX]

theorem keeps_opMts (xa : XReg) (srn : BitVec 12) : Keeps (opMts xa srn) := by
  mvcgen [opMts, keeps_check, keeps_getX, keeps_emit]

theorem keeps_futureCell (va : Nat) : Keeps (futureCell va) := by
  mvcgen [futureCell, keeps_acquireWait, keeps_check, keeps_strandAccess, keeps_waitValue, keeps_failAnswer]

theorem keeps_opFrd (t : Tag) (xd xa : XReg) : Keeps (opFrd t xd xa) :=
  keeps_guarded (by
    mvcgen [keeps_getX, keeps_touchDest, keeps_modStrand, keeps_putX, keeps_waitLast, keeps_futureCell, keeps_failAnswer]
    · exact fun _ _ _ h => h
    · exact fun _ h => wf_squash _ _ _ h
    · exact fun _ h => wf_awaitFuture _ _ _ _ h)

theorem keeps_opFwr (t : Tag) (xa xb : XReg) : Keeps (opFwr t xa xb) :=
  keeps_guarded (by
    mvcgen [keeps_getX, keeps_releaseWait, keeps_futureCell, keeps_failAnswer, keeps_markEffect]
    all_goals exact wf_releaseWaiters _ _ _ (wf_writePhys _ _ ‹_›))

theorem keeps_opFclr (t : Tag) (xa : XReg) : Keeps (opFclr t xa) :=
  keeps_guarded (by
    mvcgen [keeps_getX, keeps_futureCell, keeps_markEffect]
    exact wf_writePhys _ _ ‹_›)

theorem keeps_opSpawn (t : Tag) (xe xa xb xc : XReg) : Keeps (opSpawn t xe xa xb xc) :=
  keeps_guarded (by
    mvcgen [keeps_forbidden, keeps_acquireWait, keeps_getX, keeps_getStrand, keeps_orderWait, keeps_check, keeps_strandMap, keeps_fail,
      keeps_waitValue, keeps_markEffect, keeps_freshId, keeps_emit]
    exact wf_of_mem (childRegion_mem ..) ‹_›)

theorem keeps_opLnch (t : Tag) (xa : XReg) (va : VReg) (pa : Port) : Keeps (opLnch t xa va pa) := by
  unfold opLnch
  generalize 2 ^ 1024 = m
  refine keeps_guarded ?_
  mvcgen [keeps_forbidden, keeps_acquireWait, keeps_getX, keeps_getV, keeps_orderWait, keeps_fail, keeps_check, keeps_waitValue,
    onceRead, keeps_capturing, keeps_raiseNow, keeps_markEffect]
  all_goals exact wf_of_mem (moveTail_mem ..) (wf_of_engineWrite ‹_› ‹_›)

theorem keeps_writeFrontier (va slot : Nat) : Keeps (writeFrontier va slot) := by
  mvcgen [writeFrontier, -Spec.throw_Except]
  exact wf_of_engOn (engKeeps_writeLong _ _ _ _) ‹_› ‹_›

theorem keeps_frontierOperands (xa xb : XReg) : Keeps (frontierOperands xa xb) := by
  mvcgen [frontierOperands, keeps_check, keeps_getX]

theorem keeps_leveeTurn (slot : Nat) : Keeps (leveeTurn slot) := by
  mvcgen [leveeTurn, keeps_waitLast]
  exact fun _ h => wf_of_mem (joinLine_mem ..) h

theorem keeps_opLvs (t : Tag) (xa xb : XReg) : Keeps (opLvs t xa xb) :=
  keeps_guarded (by
    mvcgen [keeps_acquireWait, keeps_frontierOperands, keeps_check, keeps_writeFrontier, keeps_leveeTurn, keeps_waitLast]
    · exact fun _ _ _ h => wf_of_mem (joinLine_mem ..) (wf_beginSave _ _ h)
    · exact fun _ _ _ h => wf_sweepSave _ _ h
    all_goals exact wf_of_mem (leaveLine_mem ..) (wf_finishSave _ _ ‹_›))

theorem keeps_readFrontier (va n : Nat) : Keeps (readFrontier va n) := by
  mvcgen [readFrontier, keeps_raiseNow]
  exact wf_of_engOn (engKeeps_readLong _ _ _ _) ‹_› ‹_›

theorem keeps_opLvr (t : Tag) (xa xb : XReg) : Keeps (opLvr t xa xb) :=
  keeps_guarded (by
    mvcgen [keeps_acquireWait, keeps_frontierOperands, keeps_check, keeps_leveeTurn, keeps_readFrontier]
    · exact wf_endLaunch _ _ _ ‹_›
    · exact wf_restoreFrontier _ _ _ ‹_›)

theorem keeps_opHfam (t : Tag) (va : VReg) (pa : Port) (f : BitVec 4) : Keeps (opHfam t va pa f) := by
  unfold opHfam
  generalize 2 ^ 512 = m
  exact keeps_guarded (by mvcgen [keeps_getV, onceRead, keeps_capturing, keeps_check, keeps_emit])

theorem keeps_probeWait : Keeps probeWait := by
  mvcgen [probeWait, keeps_acquireWait, keeps_waitWhile]

theorem keeps_enqueueProbe (q : ProbeReq) : Keeps (enqueueProbe q) := by
  mvcgen [enqueueProbe]

theorem keeps_newRequest (kind : Nat) (i : Instr) (table arg stamp : Nat) : Keeps (newRequest kind i table arg stamp) := by
  unfold newRequest
  generalize 2 ^ 4113 = m
  mvcgen [keeps_freshId]

theorem keeps_takeStamp : Keeps takeStamp := by
  mvcgen [takeStamp, keeps_operand]

theorem keeps_updateOp (kind : Nat) (i : Instr) (xt xi : XReg) : Keeps (updateOp kind i xt xi) := by
  mvcgen [updateOp, keeps_probeWait, keeps_getX, keeps_check, keeps_takeStamp, keeps_markEffect, keeps_enqueueProbe, keeps_newRequest]

theorem keeps_opHins (t : Tag) (xt xi : XReg) : Keeps (opHins t xt xi) :=
  keeps_guarded (by mvcgen [keeps_updateOp])

theorem keeps_opHdel (t : Tag) (xt xi : XReg) : Keeps (opHdel t xt xi) :=
  keeps_guarded (by mvcgen [keeps_updateOp])

theorem keeps_opHreh (t : Tag) (xt xn : XReg) : Keeps (opHreh t xt xn) :=
  keeps_guarded (by mvcgen [keeps_updateOp])

theorem keeps_opHacc (t : Tag) (xa : XReg) (va : VReg) (pa : Port) : Keeps (opHacc t xa va pa) :=
  keeps_guarded (by mvcgen [keeps_probeWait, keeps_getX, keeps_getV, keeps_check, keeps_takeStamp, keeps_markEffect, keeps_newRequest,
    keeps_enqueueProbe, onceRead, keeps_capturing])

theorem keeps_readQuery (v : Word) : Keeps (readQuery v) := by
  mvcgen [readQuery, keeps_touch, keeps_failAt]

theorem keeps_queryWidth (xt : Nat) : Keeps (queryWidth xt) := by
  mvcgen [queryWidth, keeps_operand, keeps_readWaited, keeps_fail]

theorem keeps_popMany (n k : Nat) : Keeps (popMany n k) := by
  induction k with
  | zero => mvcgen [popMany]
  | succ k ih =>
    unfold popMany
    generalize 2 ^ 1024 = m
    mvcgen [keeps_popSpool, ih]

theorem keeps_takeQuery (xt : Nat) (qs : BitVec 1) (qn : TileNo) : Keeps (takeQuery xt qs qn) := by
  mvcgen [takeQuery, keeps_operand, keeps_readQuery, keeps_queryWidth, keeps_getStrand, keeps_popMany]

theorem keeps_opHprb (t : Tag) (sd : SpoolNo) (xt xo xc : XReg) (qs : BitVec 1) (qn : TileNo) (pq : Port) :
    Keeps (opHprb t sd xt xo xc qs qn pq) :=
  keeps_guarded (by mvcgen [keeps_probeWait, keeps_getX, keeps_formCheck, keeps_check, keeps_takeStamp, keeps_takeQuery,
    keeps_newRequest, keeps_emit, keeps_enqueueProbe, onceRead, keeps_capturing])

theorem keeps_scalar2 (t : Tag) (xd xa xb : XReg) (lat : Nat) (f : Word → Word → Word) : Keeps (scalar2 t xd xa xb lat f) :=
  keeps_guarded (by mvcgen [keeps_getXQ, keeps_putXQ])

theorem keeps_scalar1 (t : Tag) (xd xa : XReg) (lat : Nat) (f : Word → Word) : Keeps (scalar1 t xd xa lat f) :=
  keeps_guarded (by mvcgen [keeps_getXQ, keeps_putXQ])

theorem keeps_division (t : Tag) (xd xa xb : XReg) (f : Word → Word → Word) : Keeps (division t xd xa xb f) :=
  keeps_guarded (by mvcgen [keeps_getXQ, keeps_check, keeps_putXQ])

theorem keeps_opCmp (t : Tag) (pd : PReg) (xa xb : XReg) (cc fmt : BitVec 4) : Keeps (opCmp t pd xa xb cc fmt) :=
  keeps_guarded (by mvcgen [keeps_getXQ, keeps_putP])

theorem keeps_opCmpi (t : Tag) (pd : PReg) (xa : XReg) (cc : BitVec 4) (imm : BitVec 20) : Keeps (opCmpi t pd xa cc imm) :=
  keeps_guarded (by mvcgen [keeps_getXQ, keeps_putP])

theorem keeps_opSel (t : Tag) (xd xa xb : XReg) (ps : PReg) : Keeps (opSel t xd xa xb ps) :=
  keeps_guarded (by mvcgen [keeps_getXQ, keeps_getP, keeps_putXQ])

theorem keeps_opLi (t : Tag) (xd : XReg) (imm : BitVec 31) : Keeps (opLi t xd imm) :=
  keeps_guarded (by mvcgen [keeps_putXQ])

theorem keeps_opLih (t : Tag) (xd : XReg) (imm : BitVec 31) : Keeps (opLih t xd imm) :=
  keeps_guarded (by mvcgen [keeps_getXQ, keeps_putXQ])

theorem keeps_opBfi (t : Tag) (xd xa : XReg) (pos lm1 : BitVec 6) : Keeps (opBfi t xd xa pos lm1) :=
  keeps_guarded (by mvcgen [keeps_getXQ, keeps_putXQ])

theorem keeps_putFloat (xd : XReg) (r : Nat × Nat) : Keeps (putFloat xd r) := by
  mvcgen [putFloat, keeps_putXQ, keeps_emitFlags]

theorem keeps_float2 (t : Tag) (xd xa xb : XReg) (fmt : Fmt) (rm : BitVec 3) (f : Nat → Round → Nat → Nat → Nat × Nat) :
    Keeps (float2 t xd xa xb fmt rm f) :=
  keeps_guarded (by mvcgen [keeps_getXQ, keeps_getRound, keeps_putFloat])

theorem keeps_floatExtreme (t : Tag) (xd xa xb : XReg) (fmt : Fmt) (isMax : Bool) : Keeps (floatExtreme t xd xa xb fmt isMax) :=
  keeps_guarded (by mvcgen [keeps_getXQ, keeps_putXQ])

theorem keeps_opFfma (t : Tag) (xd xa xb xc : XReg) (fmt : Fmt) (rm : BitVec 3) : Keeps (opFfma t xd xa xb xc fmt rm) :=
  keeps_guarded (by mvcgen [keeps_getXQ, keeps_getRound, keeps_putFloat])

theorem keeps_opFcmp (t : Tag) (pd : PReg) (xa xb : XReg) (cc fmt : BitVec 4) : Keeps (opFcmp t pd xa xb cc fmt) :=
  keeps_guarded (by mvcgen [keeps_getXQ, keeps_putP])

theorem keeps_opFcvt (t : Tag) (xd xa : XReg) (fd fs : Fmt) (rm : BitVec 3) (sat : BitVec 1) : Keeps (opFcvt t xd xa fd fs rm sat) :=
  keeps_guarded (by mvcgen [keeps_getXQ, keeps_getRound, keeps_putXQ, keeps_emitFlags])

theorem keeps_tlbiOp {target : Op TlbTarget} (h : Keeps target) : Keeps (tlbiOp target) := by
  mvcgen [tlbiOp, keeps_check, h]

theorem keeps_opTlbiAll (t : Tag) : Keeps (opTlbiAll t) :=
  keeps_guarded (by mvcgen [keeps_tlbiOp])

theorem keeps_opTlbiAs (t : Tag) (xb : XReg) : Keeps (opTlbiAs t xb) :=
  keeps_guarded (by mvcgen [keeps_tlbiOp, keeps_getX])

theorem keeps_opTlbiPage (t : Tag) (xa xb : XReg) : Keeps (opTlbiPage t xa xb) :=
  keeps_guarded (by mvcgen [keeps_tlbiOp, keeps_getX])

theorem keeps_transposerRead (v : Nat) : Keeps (transposerRead v) := by
  mvcgen [transposerRead, keeps_operand, keeps_formCheck, keeps_touch, keeps_failable, keeps_throw, -Spec.throw_Except]

theorem keeps_opTxin (t : Tag) (va : VReg) (_pa : Port) (row : BitVec 7) : Keeps (opTxin t va _pa row) :=
  keeps_guarded (by mvcgen [keeps_forbidden, keeps_getV, keeps_transposerRead, keeps_emit])

theorem keeps_opTxout (t : Tag) (vd : VReg) (ci : BitVec 7) (h wl : BitVec 2) : Keeps (opTxout t vd ci h wl) :=
  keeps_guarded (by mvcgen [keeps_forbidden, keeps_getStrand, keeps_putV])

theorem keeps_opTxclr (t : Tag) : Keeps (opTxclr t) :=
  keeps_guarded (by mvcgen [keeps_forbidden, keeps_emit])

theorem keeps_etRound (e : ElemType) : Keeps (etRound e) := by
  mvcgen [etRound, keeps_getRound]

theorem keeps_putVF (lat : Nat) (vd : VReg) (r : Nat × Nat) : Keeps (putVF lat vd r) := by
  mvcgen [putVF, keeps_putV, keeps_emitFlags]

theorem keeps_vector2 (t : Tag) (vd va vb : VReg) (et : ElemType) (lat : Nat) (f : Nat → Round → Nat → Nat → Nat × Nat) :
    Keeps (vector2 t vd va vb et lat f) :=
  keeps_guarded (by mvcgen [keeps_getV, keeps_etRound, keeps_putVF])

theorem keeps_vector1 (t : Tag) (vd va : VReg) (et : ElemType) (lat : Nat) (f : Nat → Round → Nat → Nat × Nat) :
    Keeps (vector1 t vd va et lat f) :=
  keeps_guarded (by mvcgen [keeps_getV, keeps_etRound, keeps_putVF])

theorem keeps_logic2 (t : Tag) (vd va vb : VReg) (f : Nat → Nat → Nat) : Keeps (logic2 t vd va vb f) :=
  keeps_guarded (by mvcgen [keeps_getV, keeps_putV])

theorem keeps_shift2 (t : Tag) (vd va vb : VReg) (et : ElemType) (f : Nat → Nat → Nat → Nat) : Keeps (shift2 t vd va vb et f) := by
  mvcgen [shift2, keeps_vector2]

theorem keeps_opVfma (t : Tag) (vd : VShort) (p1 : Port) (va : VReg) (p2 : Port) (vb : VReg) (p3 : Port) (et : ElemType) :
    Keeps (opVfma t vd p1 va p2 vb p3 et) :=
  keeps_guarded (by mvcgen [keeps_getV, keeps_etRound, keeps_putVF])

theorem keeps_opVnot (t : Tag) (vd va : VReg) (p1 : Port) (p2 : ElemType) : Keeps (opVnot t vd va p1 p2) :=
  keeps_guarded (by mvcgen [keeps_getV, keeps_putV])

theorem keeps_opVcmp (t : Tag) (vd : VShort) (va : VReg) (p1 : Port) (vb : VReg) (p2 : Port) (fmt : Fmt) (cc : BitVec 3) :
    Keeps (opVcmp t vd va p1 vb p2 fmt cc) :=
  keeps_guarded (by mvcgen [keeps_getV, keeps_putV])

theorem keeps_opVsel (t : Tag) (vd : VShort) (p1 : Port) (va : VReg) (p2 : Port) (vb : VReg) (p3 : Port) (et : ElemType) :
    Keeps (opVsel t vd p1 va p2 vb p3 et) :=
  keeps_guarded (by mvcgen [keeps_getV, keeps_putV])

theorem keeps_opVcvt (t : Tag) (vd va : VReg) (p1 : Port) (fd fs : Fmt) (rm : BitVec 3) (sat : BitVec 1) (part : BitVec 2) :
    Keeps (opVcvt t vd va p1 fd fs rm sat part) :=
  keeps_guarded (by mvcgen [keeps_getV, keeps_getRound, keeps_putVF])

theorem keeps_opVbcst (t : Tag) (vd : VReg) (xa : XReg) (et : ElemType) : Keeps (opVbcst t vd xa et) :=
  keeps_guarded (by mvcgen [keeps_getX, keeps_putV])

theorem keeps_opVperm (t : Tag) (vd va : VReg) (p1 : Port) (vb : VReg) (p2 : Port) (et : ElemType) : Keeps (opVperm t vd va p1 vb p2 et) :=
  keeps_guarded (by mvcgen [keeps_getV, keeps_putV])

theorem keeps_opVins (t : Tag) (vd : VReg) (p1 : Port) (xa : XReg) (ew : BitVec 2) (idx : BitVec 7) : Keeps (opVins t vd p1 xa ew idx) :=
  keeps_guarded (by mvcgen [keeps_getV, keeps_getX, keeps_putV])

theorem keeps_opVext (t : Tag) (xd : XReg) (va : VReg) (p1 : Port) (et : ElemType) (idx : BitVec 7) : Keeps (opVext t xd va p1 et idx) :=
  keeps_guarded (by mvcgen [keeps_getV, keeps_putX])

theorem keeps_opVred (t : Tag) (xd : XReg) (va : VReg) (p1 : Port) (et : ElemType) (op : BitVec 3) : Keeps (opVred t xd va p1 et op) :=
  keeps_guarded (by mvcgen [keeps_getV, keeps_etRound, keeps_putX, keeps_emitFlags])

theorem keeps_opVamax (t : Tag) (xd : XReg) (va : VReg) (p1 : Port) (et : ElemType) : Keeps (opVamax t xd va p1 et) :=
  keeps_guarded (by mvcgen [keeps_getV, keeps_putX])

theorem keeps_opVargmx (t : Tag) (xd : XReg) (va : VReg) (p1 : Port) (et : ElemType) : Keeps (opVargmx t xd va p1 et) :=
  keeps_guarded (by mvcgen [keeps_getV, keeps_putX])

theorem keeps_opVmask (t : Tag) (vd va : VReg) (p1 : Port) (vb : VReg) (p2 : Port) (et : ElemType) : Keeps (opVmask t vd va p1 vb p2 et) :=
  keeps_guarded (by mvcgen [keeps_getV, keeps_putV])

theorem keeps_opVsprs (t : Tag) (vd va : VReg) (p1 : Port) (fmt : Fmt) : Keeps (opVsprs t vd va p1 fmt) :=
  keeps_guarded (by mvcgen [keeps_getV, keeps_putV])
/-- Every operation keeps the form of memory. -/
theorem keeps_operate (i : Instr) : Keeps (operate i) := by
  cases i
  case sysc | brk => exact keeps_callTrap _ _
  case add | sub | mul | mulh | mulhn | and | or | xor | shl | shr | sar | min | max | minn | maxn | lea =>
    exact keeps_scalar2 _ _ _ _ _ _
  case addi | andi | ori | xori | shli | shri | sari | clz | ctz | popc | bfx => exact keeps_scalar1 _ _ _ _ _
  case div | divn | rem | remn => exact keeps_division _ _ _ _ _
  case fadd | fsub | fmul => exact keeps_float2 _ _ _ _ _ _ _
  case fmin | fmax => exact keeps_floatExtreme _ _ _ _ _ _
  case vadd | vsub | vmul | vmin | vmax => exact keeps_vector2 _ _ _ _ _ _ _
  case vabs | vneg | vexp2 | vlog2 | vrcp | vrsq => exact keeps_vector1 _ _ _ _ _ _
  case vand | vor | vxor => exact keeps_logic2 _ _ _ _ _
  case vshl | vshr | vsar => exact keeps_shift2 _ _ _ _ _ _
  case brLabel => exact keeps_opBrLabel _
  case brReg => exact keeps_opBrReg _
  case btree => exact keeps_opBtree _ _ _ _
  case callLabel => exact keeps_opCallLabel _
  case callReg => exact keeps_opCallReg _
  case ret => exact keeps_opRet
  case movb => exact keeps_opMovb _ _ _ _
  case loopImm => exact keeps_opLoopImm _ _
  case loopX => exact keeps_opLoopX _ _
  case loopSpool => exact keeps_opLoopSpool _ _
  case loops => exact keeps_opLoops _ _ _ _ _
  case leave => exact keeps_opLeave _
  case pand => exact keeps_opPand _ _ _ _ _
  case por => exact keeps_opPor _ _ _ _ _
  case pxor => exact keeps_opPxor _ _ _ _ _
  case pnot => exact keeps_opPnot _ _
  case pmov => exact keeps_opPmov _ _ _
  case done => exact keeps_opDone
  case yield => exact keeps_opYield
  case waitt => exact keeps_opWaitt _
  case bar => exact keeps_opBar _ _
  case trig => exact keeps_opTrig
  case rft => exact keeps_opRft
  case uret => exact keeps_opUret
  case mfs => exact keeps_opMfs _ _
  case mts => exact keeps_opMts _ _
  case cmp t pd xa xb cc fmt => exact keeps_opCmp t pd xa xb cc fmt
  case cmpi t pd xa cc imm => exact keeps_opCmpi t pd xa cc imm
  case sel t xd xa xb ps => exact keeps_opSel t xd xa xb ps
  case li => exact keeps_opLi _ _ _
  case lih => exact keeps_opLih _ _ _
  case bfi => exact keeps_opBfi _ _ _ _ _
  case ffma => exact keeps_opFfma _ _ _ _ _ _ _
  case fcmp t pd xa xb cc fmt => exact keeps_opFcmp t pd xa xb cc fmt
  case fcvt => exact keeps_opFcvt _ _ _ _ _ _ _
  case vfma t vd pd va pa vb pb et => exact keeps_opVfma t vd pd va pa vb pb et
  case vnot t vd va pa et => exact keeps_opVnot t vd va pa et
  case vcmp t vd va pa vb pb fmt cc => exact keeps_opVcmp t vd va pa vb pb fmt cc
  case vsel t vd pd va pa vb pb et => exact keeps_opVsel t vd pd va pa vb pb et
  case vcvt t vd va pa fd fs rm sat part => exact keeps_opVcvt t vd va pa fd fs rm sat part
  case vbcst => exact keeps_opVbcst _ _ _ _
  case vperm t vd va pa vb pb et => exact keeps_opVperm t vd va pa vb pb et
  case vins t vd pd xa ew idx => exact keeps_opVins t vd pd xa ew idx
  case vext t xd va pa et idx => exact keeps_opVext t xd va pa et idx
  case vred t xd va pa et op => exact keeps_opVred t xd va pa et op
  case vamax t xd va pa et => exact keeps_opVamax t xd va pa et
  case vargmx t xd va pa et => exact keeps_opVargmx t xd va pa et
  case vmask t vd va pa vb pb et => exact keeps_opVmask t vd va pa vb pb et
  case vsprs t vd va pa fmt => exact keeps_opVsprs t vd va pa fmt
  case ld => exact keeps_opLd _ _ _ _ _
  case st => exact keeps_opSt _ _ _ _ _
  case lda => exact keeps_opLda _ _ _ _ _ _
  case stl => exact keeps_opStl _ _ _ _ _ _
  case vld => exact keeps_opVld _ _ _ _
  case vst t vv pv xa imm => exact keeps_opVst t vv pv xa imm
  case amo => exact keeps_opAmo _ _ _ _ _ _ _ _
  case acas => exact keeps_opAcas _ _ _ _ _ _ _
  case fence t scope src dst => exact keeps_opFence t scope src dst
  case drain => exact keeps_opDrain _ _
  case scfg t va pa sd => exact keeps_opScfg t va pa sd
  case srel => exact keeps_opSrel _ _
  case dcp t tag vs ps vd pd => exact keeps_opDcp t tag vs ps vd pd
  case dstat => exact keeps_opDstat _ _ _
  case frd => exact keeps_opFrd _ _ _
  case fwr => exact keeps_opFwr _ _ _
  case fclr => exact keeps_opFclr _ _
  case spawn => exact keeps_opSpawn _ _ _ _ _
  case lnch t xa va pa => exact keeps_opLnch t xa va pa
  case hfam t va pa f => exact keeps_opHfam t va pa f
  case hprb => exact keeps_opHprb _ _ _ _ _ _ _ _
  case hins => exact keeps_opHins _ _ _
  case hdel => exact keeps_opHdel _ _ _
  case hreh => exact keeps_opHreh _ _ _
  case hacc t xa va pa => exact keeps_opHacc t xa va pa
  case merge => exact keeps_opMerge _ _ _
  case cred => exact keeps_opCred _ _
  case tlbiAll => exact keeps_opTlbiAll _
  case tlbiAs => exact keeps_opTlbiAs _ _
  case tlbiPage => exact keeps_opTlbiPage _ _ _
  case lvs => exact keeps_opLvs _ _ _
  case lvr => exact keeps_opLvr _ _ _
  case cprog t pg va pa => exact keeps_opCprog t pg va pa
  case csel => exact keeps_opCsel _ _
  case aflow => exact keeps_opAflow _ _
  case aldbLocal t tv pt => exact keeps_opAldbLocal t tv pt
  case aldbCluster => exact keeps_opAldbCluster _ _ _
  case arun t av asp an pan bsp bn pbn mm1 => exact keeps_opArun t av asp an pan bsp bn pbn mm1
  case aruns t av asp an pan mv pmv mm1 => exact keeps_opAruns t av asp an pan mv pmv mm1
  case ascl => exact keeps_opAscl _ _ _ _ _
  case aclrView => exact keeps_opAclrView _ _
  case aclrArray => exact keeps_opAclrArray _
  case adrn t td sk av pav sat => exact keeps_opAdrn t td sk av pav sat
  case txin t va pa row => exact keeps_opTxin t va pa row
  case txout => exact keeps_opTxout _ _ _ _ _
  case txclr => exact keeps_opTxclr _
  all_goals exact fun _ h => h

end Sys2Proof.Proofs.Form
end

section
/-!
The issue of a bundle keeps memory's canonical form, and so does every meaning and with it the step.
-/
namespace Sys2Proof.Proofs.Form

open Sys2Proof Sys2Proof.Machine Sys2Proof.Laws Sys2Proof.Proofs

/-! ### The issue of a bundle -/

/-- What a wait registers keeps the form of memory. -/
def Registers (f : State → State) : Prop := ∀ s, Wf s → Wf (f s)

theorem registers_id : Registers id := fun _ h => h

/-- Where an operation has come to, memory is in canonical form, and what it registers keeps it so. -/
def OpEndWf : OpEnd → Prop
  | .ok s => Wf s
  | .hold _ register => Registers register
  | _ => True

theorem opEndWf_runOp {op : Op Unit} (ho : Keeps op) {s : State} (h : Wf s) : OpEndWf (runOp op s) := by
  have hs := keeps_iff.1 ho s h
  unfold runOp
  split
  case h_1 heq =>
    rw [heq] at hs
    exact hs
  case h_6 heq =>
    rw [heq] at hs
    exact hs
  all_goals trivial

theorem wf_of_runOp {op : Op Unit} (ho : Keeps op) {s s' : State} (he : runOp op s = .ok s') (h : Wf s) : Wf s' := by
  have hr := opEndWf_runOp ho h
  rwa [he] at hr

theorem registers_of_runOp {op : Op Unit} (ho : Keeps op) {s : State} {w : Wait} {register : State → State} 
    (he : runOp op s = .hold w register) (h : Wf s) : Registers register := by
  have hr := opEndWf_runOp ho h
  rwa [he] at hr

/-- What the operations of a bundle came to, with memory in canonical form. -/
structure BundleWf (b : BundleEnd) : Prop where
  state : Wf b.state
  held : ∀ f ∈ b.held, Registers f
  late : ∀ p ∈ b.late, Registers p.2

theorem BundleWf.wait {b : BundleEnd} (hb : BundleWf b) (w : Wait) {register : State → State} (hr : Registers register) :
    BundleWf (b.wait w register) := by
  obtain ⟨hs, hh, hl⟩ := hb
  unfold BundleEnd.wait
  split <;> exact ⟨hs, hh, by simp_all⟩

/-- A wait that begins before the issue joins a bundle. -/
theorem BundleWf.freeze {b : BundleEnd} (hb : BundleWf b) (w : Wait) {register : State → State} (hr : Registers register) :
    BundleWf { b with freeze := b.freeze.or (some w), held := b.held.or (some register) } := by
  obtain ⟨hs, hh, hl⟩ := hb
  refine ⟨hs, ?_, hl⟩
  cases h : b.held <;> simp_all

theorem bundleWf_captureOp (i : Instr) {op : Op Unit} (ho : Keeps op) (r : Raise) (n : Nat) {b : BundleEnd} (hb : BundleWf b) :
    BundleWf (captureOp i op r n b) := by
  unfold captureOp
  dsimp only
  split
  case h_1 s' heq =>
    have hs : Wf s' := wf_of_runOp ho heq hb.state
    exact ⟨hs, hb.held, hb.late⟩
  case h_6 heq => exact hb.freeze _ (registers_of_runOp ho heq hb.state)
  all_goals exact ⟨hb.state, hb.held, hb.late⟩

theorem bundleWf_runBundle {ops : List (Instr × Op Unit)} (ho : ∀ p ∈ ops, Keeps p.2) {b : BundleEnd} (hb : BundleWf b) :
    BundleWf (runBundle ops b) := by
  induction ops generalizing b with
  | nil => exact hb
  | cons p ops ih =>
    obtain ⟨i, op⟩ := p
    have hop : Keeps op := ho (i, op) (by simp)
    refine ih (fun q hq => ho q (by simp [hq])) ?_
    split
    case h_1 heq => exact ⟨wf_of_runOp hop heq hb.state, hb.held, hb.late⟩
    case h_6 heq =>
      split
      · exact hb.wait _ (registers_of_runOp hop heq hb.state)
      · exact hb.freeze _ (registers_of_runOp hop heq hb.state)
    case h_7 => exact bundleWf_captureOp i hop _ _ hb
    all_goals exact ⟨hb.state, hb.held, hb.late⟩

/-- What a scan finds registers nothing that breaks the form of memory. -/
theorem registers_scanBundle {ops : List (Instr × Op Unit)} (ho : ∀ p ∈ ops, Keeps p.2) {s : State} (h : Wf s) (f : Option Raise) :
    ∀ p ∈ (scanBundle ops s f).freeze, Registers p.2 := by
  induction ops generalizing s f with
  | nil => intro p hp; cases hp
  | cons p ops ih =>
    obtain ⟨i, op⟩ := p
    have hop : Keeps op := ho (i, op) (by simp)
    have ih' {s : State} (h : Wf s) (f : Option Raise) := ih (fun q hq => ho q (by simp [hq])) h f
    unfold scanBundle
    dsimp only
    split
    case h_1 heq => exact ih' (wf_of_runOp hop heq h) _
    case h_7 heq => simpa using registers_of_runOp hop heq h
    case h_6 => simpa using registers_id
    all_goals exact ih' h _

/-- A judgement whose waits register what keeps the form, and whose bundle has kept it. -/
def VerdictWf : Verdict → Prop
  | .wait _ register | .late _ register => Registers register
  | .pass b => BundleWf b
  | _ => True

theorem verdictWf_judge {ops : List (Instr × Op Unit)} (ho : ∀ p ∈ ops, Keeps p.2) {s : State} (h : Wf s) : VerdictWf (judge ops s) := by
  have hb : BundleWf (runBundle ops ⟨s, none, none, none, none, none, []⟩) := bundleWf_runBundle ho ⟨h, by simp, by simp⟩
  have hs := registers_scanBundle ho h none
  fun_cases judge
  case case2 b scan _ w register hw _ =>
    have hscan : ∀ p ∈ scan.freeze, Registers p.2 := by
      dsimp only [scan]
      split
      · rintro p ⟨⟩
        cases hh : b.held with
        | none => exact registers_id
        | some f => exact hb.held f hh
      · exact hs
      · rintro p ⟨⟩
    exact hscan (w, register) hw
  case case7 b scan _ _ _ _ w register hl _ _ => exact hb.late (w, register) hl
  case case8 => exact hb
  all_goals trivial

/-- An outcome whose state, if there is one, has memory in canonical form. -/
def NextWf : Host.Outcome State Fault Refusal → Prop
  | .next s => Wf s
  | _ => True

theorem nextWf_issueOps {ops : List (Instr × Op Unit)} (ho : ∀ p ∈ ops, Keeps p.2) {s : State} (h : Wf s) : NextWf (issueOps ops s) := by
  have hj := verdictWf_judge ho (s := beginIssue s) h
  unfold issueOps
  split
  · trivial
  · dsimp only
    split
    case h_1 heq | h_2 heq =>
      rw [heq] at hj
      exact wf_of_mem (freezeAt_mem ..) (hj _ h)
    case h_3 => exact wf_boundaryTake _ _ _ h
    case h_4 => exact wf_takeTrap _ _ _ _ _ h
    case h_5 heq =>
      rw [heq] at hj
      exact wf_settleIssue _ _ hj.state

theorem nextWf_issueOne (i : Instr) {op : Op Unit} (ho : Keeps op) {s : State} (h : Wf s) : NextWf (issueOne i op s) :=
  nextWf_issueOps (by simpa using ho) h
/-! ### The meanings and the step -/

theorem nextWf_operate (i : Instr) {s : State} (h : Wf s) : NextWf (issueOne i (operate i) s) := nextWf_issueOne i (keeps_operate i) h

/-- An event of the array that leaves memory alone where it moves keeps its form. -/
theorem wf_arrayEvent {f : State → Nat → ArrStep} (s : State) (key : Nat) (hf : ∀ s key, ArrAt s.mem (f s key)) (h : Wf s) :
    Wf (arrayEvent f s key) := by
  have ha := hf s key
  unfold arrayEvent afterArr
  grind [ArrAt]

theorem nextWf_execStrandResume (image ctx : Nat) {s : State} (h : Wf s) : NextWf (execStrandResume image ctx s) := by
  unfold execStrandResume NextWf
  dsimp only
  split
  · exact wf_strandResume _ _ _ h
  · exact h

/-- Every instruction and every event keeps the form of memory. -/
theorem nextWf_exec (i : Instr) {s : State} (h : Wf s) : NextWf (exec i s) := by
  cases i
  case idleBundle => exact nextWf_issueOps (by simp) h
  case resultLanding => exact wf_resultLanding _ _ h
  case farLoadLanding => exact wf_farLoadLanding _ _ _ h
  case farStorePerform => exact wf_farStorePerform _ _ _ h
  case windowWrite => exact wf_windowWrite _ _ _ _ h
  case windowRead => exact wf_windowRead _ _ _ _ h
  case eccCorrection => exact wf_of_mem (eccCorrection_mem ..) h
  case uncorrectableError => exact wf_of_mem (uncorrectableError_mem ..) h
  case walkComplete => exact wf_of_mem (walkDone_mem ..) h
  case trapEntry => exact wf_trapEntry _ _ _ _ h
  case userInterrupt => exact wf_userInterrupt _ _ h
  case budgetExpiry => exact wf_of_mem (budgetExpiry_mem ..) h
  case hung => exact wf_hungStrand _ _ h
  case preemption => exact wf_of_mem (preempt_mem ..) h
  case timeSliceSwitch => exact wf_of_mem (timeSlice_mem ..) h
  case strandSwitch => exact wf_strandSwitch _ _ h
  case contextSaveComplete => exact wf_saveComplete _ _ h
  case strandResume => exact nextWf_execStrandResume _ _ h
  case contextSwitch => exact wf_of_mem (contextSwitch_mem ..) h
  case skeinBind => exact wf_skeinBind _ _ _ _ _ h
  case pointFire => exact wf_pointFire _ _ _ _ _ _ h
  case pointCompletion => exact wf_pointCompletion _ _ _ _ _ h
  case launchAdmission => exact wf_admission _ _ h
  case doorbell => exact wf_doorbell _ _ _ h
  case taskPacketArrival => exact wf_of_mem (packetArrival_mem ..) h
  case taskBind => exact wf_taskBind _ _ _ h
  case spoolElementFetch => exact wf_of_mem (fetchElement_mem ..) h
  case storeSpoolWrite => exact wf_writeElement _ _ _ h
  case copyElement => exact wf_copyMove _ _ _ h
  case copyCompletion => exact wf_of_mem (copyEnd_mem ..) h
  case mergeStart => exact wf_of_mem (mergeStart_mem ..) h
  case mergeEnd => exact wf_mergeEnd _ _ h
  case probeStart => exact wf_startProbe _ _ h
  case probeEnd => exact wf_endProbe _ _ h
  case updateStart => exact wf_startUpdate _ _ h
  case updateEnd => exact wf_endUpdate _ _ h
  case arrayStart => exact wf_arrayEvent _ _ (fun _ _ => arrStart_arrAt ..) h
  case arrayElement => exact wf_arrayEvent _ _ (fun _ _ => arrElement_arrAt ..) h
  case arrayCompletion => exact wf_arrayEvent _ _ (fun _ _ => arrCompletion_arrAt ..) h
  case multicastRowRead => exact wf_of_mem (castRead_mem ..) h
  case collectiveStart => exact wf_of_mem (collectiveStart_mem ..) h
  case collectiveEnd => exact wf_collectiveEnd _ _ _ _ h
  case sluiceArrival => exact wf_sluiceArrival _ _ _ _ _ h
  case fabricAccess => exact wf_fabricAccess _ _ _ _ h
  case fabricResponse => exact wf_fabricResponse _ _ _ _ _ _ h
  case fabricTimeout => exact wf_of_mem (fabricTimeout_mem ..) h
  case hostAccess => exact wf_hostAccess _ _ _ h
  case syncMessage => exact wf_of_mem (syncMessage_mem ..) h
  case syncTimeout => exact wf_of_mem (syncTimeout_mem ..) h
  case waittExpiry => exact wf_of_mem (waittExpiry_mem ..) h
  case powerOnBoot => exact wf_of_mem (powerOnBoot_mem ..) h
  case quote => exact wf_of_mem (quote_mem ..) h
  case securityVersionRaise => exact wf_of_mem (raiseVersion_mem ..) h
  case identityRead => exact wf_of_mem (identityRead_mem ..) h
  case devctl => exact wf_of_mem (writeDevctl_mem ..) h
  case svpoolAppend => exact wf_svpoolAppend _ _ _ h
  case ptpcfg => exact wf_of_mem (writePtpcfg_mem ..) h
  case hostRegisterWrite => exact wf_hostRegisterWrite _ _ _ h
  case halt => exact wf_of_mem (debugHalt_mem ..) h
  case debugResume => exact wf_debugResume _ h
  case step => exact wf_debugStep _ h
  case debuggerHalt => exact wf_debuggerHalt _ _ h
  case dbgdata => exact wf_of_mem (debugData_mem ..) h
  case go => exact wf_evacControl _ _ h
  case abort => exact wf_evacControl _ _ h
  case recv => exact wf_evacControl _ _ h
  case evacStopComplete => exact wf_evacStopped _ h
  case evacStreamComplete => exact wf_of_mem (evacStreamed_mem ..) h
  case evacDrainComplete => exact wf_of_mem (evacDrained_mem ..) h
  case evacTimeout => exact wf_of_mem (evacTimeout_mem ..) h
  case adopted => exact wf_of_mem (evacAdopted_mem ..) h
  case throttle => exact wf_of_mem (throttle_mem ..) h
  case thermalShutdown => exact wf_thermalShutdown _ _ h
  case powerOff => exact wf_powerLost s
  case stationDown => exact wf_of_mem (stationDown_mem ..) h
  case loadComplete => exact wf_of_mem (loadComplete_mem ..) h
  all_goals exact nextWf_operate _ h

theorem wf_replayAll (es : List Replay) (bad : List Nat) (s : State) (h : Wf s) : Wf (replayAll es bad s) := by
  fun_induction replayAll
  case case1 => exact h
  case case2 heq ih => exact ih (wf_of_mem (replayBranch_mem ..) (wf_of_runOp (keeps_operate _) heq h))
  case case8 heq => exact registers_of_runOp (keeps_operate _) heq h _ h
  case case7 => exact h
  all_goals rename_i ih; exact ih h

theorem wf_replayStep (s : State) (h : Wf s) : Wf (replayStep s) := wf_replayAll _ _ _ (wf_of_mem (replayProbes_mem ..) h)

theorem nextWf_issueStanding (f : Standing) {s : State} (h : Wf s) : NextWf (issueStanding s f) := by
  unfold issueStanding
  split
  · exact nextWf_exec _ (wf_of_mem (standBundle_mem ..) h)
  · split
    · exact nextWf_exec _ (wf_of_mem (standBundle_mem ..) h)
    · exact nextWf_issueOps (by simp [keeps_operate]) (wf_of_mem (standBundle_mem ..) h)
  · exact h
  · exact h

theorem nextWf_boundaryStep (core ctx : Nat) (st : Strand) (f : Except Raise Standing) {s : State} (h : Wf s) :
    NextWf (boundaryStep s core ctx st f) := by
  unfold boundaryStep
  grind [nextWf_exec, nextWf_issueStanding, NextWf]

theorem nextWf_fetchStep (core ctx : Nat) (st : Strand) {s : State} (h : Wf s) : NextWf (fetchStep s core ctx st) := by
  have hf := keeps_iff.1 keeps_fetchOp s h
  unfold fetchStep
  split
  case h_1 => exact nextWf_boundaryStep _ _ _ _ h
  case h_7 heq =>
    rw [heq] at hf
    exact wf_of_mem (freezeAt_mem ..) (hf s h)
  case h_6 => exact wf_of_mem (freezeAt_mem ..) h
  case h_5 => exact h
  all_goals exact nextWf_boundaryStep _ _ _ _ h

theorem nextWf_runStep (core ctx : Nat) {s : State} (h : Wf s) : NextWf (runStep s core ctx) := by
  have hl := wf_landPulse s s.focus h
  unfold runStep release
  grind [nextWf_exec, nextWf_fetchStep, NextWf, thaw_mem]

theorem nextWf_drainStep (core ctx : Nat) {s : State} (h : Wf s) : NextWf (drainStep s core ctx) := by
  have hl := wf_landPulse (withdrawAldbs (thaw s s.focus) s.focus) s.focus (wf_of_mem (withdrawAldbs_mem ..) (wf_of_mem (thaw_mem ..) h))
  unfold drainStep
  grind [nextWf_exec, NextWf]

theorem nextWf_issuingStep (core ctx : Nat) (st : Strand) {s : State} (h : Wf s) : NextWf (issuingStep s core ctx st) := by
  fun_cases issuingStep <;> grind [nextWf_exec, nextWf_drainStep, nextWf_runStep, NextWf, askLeave_mem, wf_waitOn, wf_replayStep]

theorem nextWf_strandStep {s : State} (h : Wf s) : NextWf (strandStep s) := by
  unfold strandStep
  grind [nextWf_exec, nextWf_issuingStep, NextWf, setCore_mem]

theorem nextWf_engineStep (e : Instr) {s : State} (h : Wf s) : NextWf (engineStep s e) := by
  have he := nextWf_exec e (s := { s with turn := { s.turn with event := some e, misses := [] } }) h
  unfold engineStep
  grind [NextWf, engineWalks_mem]

theorem nextWf_innerStep {s : State} (h : Wf s) : NextWf (innerStep s) := by
  unfold innerStep
  grind [nextWf_exec, nextWf_engineStep, nextWf_strandStep, NextWf]

theorem nextWf_stepCore {s : State} (h : Wf s) : NextWf (stepCore s) := by
  unfold stepCore
  grind [nextWf_exec, nextWf_innerStep, NextWf, popAgenda_mem]

theorem nextWf_step {s : State} (h : Wf s) : NextWf (step s) := by
  have hc := nextWf_stepCore h
  unfold step finishStep
  grind [NextWf, afterStep_mem]

/-- Settles O57: every step keeps the form of memory, since every event and every operation does. -/
theorem stepKeepsMemoryCanonical : Obligations.StepKeepsMemoryCanonical := by
  intro s t h hs
  have hn := nextWf_step h
  rwa [hs] at hn

end Sys2Proof.Proofs.Form
end

section

/-! The stream engine and the copy engines (R131, R142-R148, R154-R159): what one step of each does. -/

namespace Sys2Proof.Proofs.Engines

open Sys2Proof Sys2Proof.Machine Sys2Proof.Laws Sys2Proof.Proofs

/-! ### What the copy engine's accesses leave alone -/

@[simp] theorem writePhys_copies (s : State) (a : Nat) (data : List Byte) : (s.writePhys a data).copies = s.copies := by
  unfold State.writePhys
  split <;> rfl

@[simp] theorem writePieces_copies (s : State) (ps : List (Nat × Nat)) (data : List Byte) :
    (s.writePieces ps data).copies = s.copies := by
  induction ps generalizing s data with
  | nil => rfl
  | cons p ps ih => exact (ih _ _).trans (writePhys_copies s p.1 _)

@[simp] theorem noteMiss_copies (s : State) (g : Agent) (va : Nat) : (noteMiss s g va).copies = s.copies := by
  unfold noteMiss
  split <;> rfl

@[simp] theorem engineMap_copies (s : State) (g : Agent) (va : Nat) : (engineMap s g va).2.copies = s.copies := by
  unfold engineMap
  cases tlbFind s g.owner g.asid va with
  | some m => rfl
  | none =>
    cases engineWalked s g va with
    | some r => rfl
    | none => cases walkTables s g.asid va <;> simp [tlbFill]

@[simp] theorem engineAccess_copies (s : State) (g : Agent) (va n : Nat) (need : Need) :
    (engineAccess s g va n need).2.copies = s.copies := by
  unfold engineAccess
  grind [engineMap_copies]

@[simp] theorem engineAnswer_copies (s : State) (g : Agent) (j : Nat) : (engineAnswer s g j).copies = s.copies := by
  unfold engineAnswer State.modByUid
  grind

@[simp] theorem engineRead_copies (s : State) (g : Agent) (va n : Nat) : (engineRead s g va n).2.copies = s.copies := by
  unfold engineRead
  grind [engineAccess_copies, engineAnswer_copies]

@[simp] theorem engineWrite_copies (s : State) (g : Agent) (va : Nat) (data : List Byte) :
    (engineWrite s g va data).2.copies = s.copies := by
  unfold engineWrite
  grind [engineAccess_copies, engineAnswer_copies, writePieces_copies]

@[simp] theorem locate_copies (s : State) (c : Copy) (r va : Nat) (need : Need) : (locate s c r va need).2.copies = s.copies := by
  unfold locate
  grind [engineAccess_copies]

@[simp] theorem copyWrite_copies (s : State) (c : Copy) (da : Nat) (src d : Side) (v : Nat) :
    (copyWrite s c da src d v).2.copies = s.copies := by
  unfold copyWrite
  grind [engineWrite_copies]

/-- A point moves data: the list of the copies is as it was. -/
theorem copyPoint_copies (s : State) (c : Copy) : (copyPoint s c).2.copies = s.copies := by
  unfold copyPoint
  grind [locate_copies, engineRead_copies, copyWrite_copies]

@[simp] theorem modOwner_copies (s : State) (key uid : Nat) (f : Strand → Strand) : (modOwner s key uid f).copies = s.copies := by
  unfold modOwner
  grind [setStrandAt_copies]

/-! ### The stream engine -/

theorem keyOf_eq {key core ctx : Nat} (hkey : key = 2 * core + ctx) (hctx : ctx < 2) : keyOf core ctx = key := by
  rw [keyOf, hkey, Nat.mod_eq_of_lt hctx]

/-- A spool that is set stands in its strand. -/
theorem setSpool_found {s : State} {key : Nat} {st : Strand} (hs : s.strandAt key = some st) (n : SpoolNo) (sp : Spool) :
    ∃ t, (setSpool s key n.toNat (some sp)).strandAt key = some t ∧ t.spools.getD n.toNat none = some sp := by
  refine ⟨{ st with spools := st.spools.setIfInBounds n.toNat (some sp) }, ?_, getD_set_same _ _ n.isLt⟩
  simp [setSpool, hs]

/-- The next element of a linear load spool, where its stream has ended. -/
theorem nextElem_linear_end {s : State} {key : Nat} {st : Strand} {sp : Spool} (hk : spKind sp.desc = 0)
    (hm : spTotal sp.desc ≤ sp.moved) :
    nextElem s key st sp = (some none, s) := by
  simp [nextElem, hk, hm]

/-- The next element of a linear load spool that is read. -/
theorem nextElem_linear {s s1 : State} {key : Nat} {st : Strand} {sp : Spool} {b : List Byte} (hk : spKind sp.desc = 0)
    (hm : sp.moved < spTotal sp.desc) (hb : spoolRead s key sp (spAddr sp.desc sp.moved) 128 = (.ok b, s1)) :
    nextElem s key st sp = (some (some ⟨leNat b, none, some (spAddr sp.desc sp.moved), [], 0⟩), s1) := by
  simp [nextElem, hk, Nat.not_le.mpr hm, hb]

theorem fetchElement_end {s s1 : State} {key : Nat} {n : SpoolNo} {st : Strand} {sp : Spool} (hs : s.strandAt key = some st)
    (hsp : st.spools.getD n.toNat none = some sp) (hf : canFetch s key st n.toNat = true) (he : nextElem s key st sp = (some none, s1)) :
    fetchElement s key n.toNat = setSpool s1 key n.toNat (some { sp with ended := true, idxEnd := some (indexPlace sp sp.moved) }) := by
  simp [fetchElement, hs, hf, hsp, he]

theorem fetchElement_one {s s1 : State} {key : Nat} {n : SpoolNo} {st : Strand} {sp : Spool} {e : SpoolElem} (hs : s.strandAt key = some st)
    (hsp : st.spools.getD n.toNat none = some sp) (hf : canFetch s key st n.toNat = true)
    (he : nextElem s key st sp = (some (some e), s1)) (ht : e.targets = []) :
    fetchElement s key n.toNat = setSpool s1 key n.toNat (some { sp with
      buf := sp.buf ++ [e], moved := sp.moved + 1, ended := false, idxEnd := none }) := by
  obtain ⟨d, f, a, ts, q⟩ := e
  subst ht
  simp [fetchElement, hs, hf, hsp, he]

/-- A linear store spool writes its oldest element, whose bytes are one access. -/
theorem writeElement_linear {s s1 : State} {key n : Nat} {st : Strand} {sp : Spool} {e : SpoolElem} {rest : List SpoolElem}
    (hs : s.strandAt key = some st) (hsp : st.spools.getD n none = some sp) (hbuf : sp.buf = e :: rest) (hk : spKind sp.desc = 1)
    (hw : writeWaits s key st sp = false) (hd : badData s (spoolAgent key st sp) sp.banks (spAddr sp.desc sp.moved) 128 .w = false)
    (he : engineWrite s (spoolAgent key st sp) (spAddr sp.desc sp.moved) (leBytes 128 (elemOf 128 0 e.data)) = (none, s1)) :
    writeElement s key n = setSpool s1 key n (some { sp with buf := rest, moved := sp.moved + 1 }) := by
  simp [writeElement, hs, hsp, hbuf, spIsStore, hk, hw, writeItems, hd, he]

/-! ### A copy's points -/

/-- A copy that has moved on to point `n`, in the list of the copies. -/
def copyAt (s : State) (id n : Nat) : State :=
  { s with copies := s.copies.map fun x => if x.id == id then { x with next := n } else x }

theorem copyAt_find {s : State} {id n : Nat} {c : Copy} (hc : s.copies.find? (fun x => x.id == id) = some c) :
    (copyAt s id n).copies.find? (fun x => x.id == id) = some { c with next := n } := by
  have hp : ((fun x : Copy => x.id == id) ∘ fun x => if x.id == id then { x with next := n } else x) = fun x => x.id == id := by
    funext x
    by_cases h : x.id = id <;> simp [h]
  have hid : c.id = id := by simpa using List.find?_some (p := fun x : Copy => x.id == id) hc
  rw [copyAt, List.find?_map, hp, hc]
  simp [hid]

/-- The strand of a copy after its error is recorded in its tag. -/
def tagFailed (c : Copy) (r : Raise) (st : Strand) : Strand :=
  let w := st.tags.getD c.tag ⟨0, 0, false, 0⟩
  if w.err then st else { st with tags := st.tags.setIfInBounds c.tag { w with err := true, cause := r.cause, prog := c.next } }

theorem copyStep_done {s : State} {id : Nat} {c : Copy} (hc : s.copies.find? (fun x => x.id == id) = some c)
    (h : tlPoints c.src ≤ c.next) :
    copyStep s id = s := by
  simp [copyStep, hc, h]

theorem copyStep_moved {s s1 : State} {id : Nat} {c : Copy} (hc : s.copies.find? (fun x => x.id == id) = some c)
    (he : c.engine.isSome = true) (hn : c.next < tlPoints c.src) (hp : copyPoint s c = (none, s1)) :
    copyStep s id = copyAt s1 id (c.next + 1) := by
  have he' : c.engine.isNone = false := by simpa [Option.isSome_iff_ne_none] using he
  simp [copyStep, hc, he', Nat.not_le.mpr hn, hp, copyAt]

theorem copyStep_failed {s s1 : State} {id : Nat} {c : Copy} {r : Raise} (hc : s.copies.find? (fun x => x.id == id) = some c)
    (he : c.engine.isSome = true) (hn : c.next < tlPoints c.src) (hp : copyPoint s c = (some r, s1)) :
    copyStep s id = copyAt (modOwner s1 c.ctx c.uid (tagFailed c r)) id (tlPoints c.src) := by
  have he' : c.engine.isNone = false := by simpa [Option.isSome_iff_ne_none] using he
  simp only [copyStep, hc, he', Nat.not_le.mpr hn, hp, copyAt]
  rfl

/-- One step changes of a copy only the point it stands at. -/
theorem copyStep_find {s : State} {id : Nat} {c : Copy} (hc : s.copies.find? (fun x => x.id == id) = some c) :
    ∃ n, (copyStep s id).copies.find? (fun x => x.id == id) = some { c with next := n } := by
  by_cases hrun : c.engine.isSome = true ∧ c.next < tlPoints c.src
  · obtain ⟨he, hn⟩ := hrun
    have hsame := copyPoint_copies s c
    rcases hp : copyPoint s c with ⟨_ | r, s1⟩ <;> rw [hp] at hsame
    · exact ⟨_, copyStep_moved hc he hn hp ▸ copyAt_find (hsame ▸ hc)⟩
    · exact ⟨_, copyStep_failed hc he hn hp ▸ copyAt_find ((modOwner_copies ..).trans hsame ▸ hc)⟩
  · have hstay : copyStep s id = s := by
      have : (c.engine.isNone || decide (tlPoints c.src ≤ c.next)) = true := by
        cases h : c.engine <;> simp_all
      simp [copyStep, hc, this]
    exact ⟨c.next, by rw [hstay]; exact hc⟩

/-- No line begins where a copy has no more points. -/
theorem copyLines_end {s : State} {c : Copy} {n : Nat} (h : tlPoints c.src ≤ n) : copyLines s c n = none := by
  simp [copyLines, h]

/-- The recursion of a copy's moves ends by its points, so more fuel than points are left changes nothing. -/
theorem copyMove_fuel {n : Nat} {s : State} {id : Nat} {c : Copy} (hc : s.copies.find? (fun x => x.id == id) = some c)
    (h : tlPoints c.src - c.next ≤ n) : copyMove (n + 1) s id = copyMove n s id := by
  induction n generalizing s c with
  | zero =>
    have hend : tlPoints c.src ≤ c.next := by omega
    simp [copyMove, copyStep_done hc hend, hc, copyLines_end hend]
  | succ n ih =>
    obtain ⟨m, hm⟩ := copyStep_find hc
    rw [copyMove]
    conv_rhs => rw [copyMove]
    simp only [hc, hm]
    split
    · split
      · rename_i hnext
        have hmn : m = c.next + 1 := by simp at hnext; exact hnext.1
        exact ih hm (by simp [hmn]; omega)
      · rfl
    · rfl

theorem copyPoints_found {s : State} {id : Nat} {c : Copy} (hc : s.copies.find? (fun x => x.id == id) = some c) :
    copyPoints s id = tlPoints c.src := by
  simp [copyPoints, hc]

/-- A point that moves, and the next where it begins in the line in which that one ends. -/
theorem copyMove_moved {s s1 u : State} {c : Copy} (hc : s.copies.find? (fun x => x.id == c.id) = some c) (he : c.engine.isSome = true)
    (hn : c.next < tlPoints c.src) (hp : copyPoint s c = (none, s1)) (hu : u = copyAt s1 c.id (c.next + 1)) :
    copyMove (copyPoints s c.id) s c.id =
      (match copyLines s c c.next, copyLines u { c with next := c.next + 1 } (c.next + 1) with
        | some p, some q => if q.1 = p.2 then copyMove (copyPoints u c.id) u c.id else u
        | _, _ => u) := by
  have hsame : s1.copies = s.copies := by simpa [hp] using copyPoint_copies s c
  have hfind : u.copies.find? (fun x => x.id == c.id) = some { c with next := c.next + 1 } := hu ▸ copyAt_find (hsame ▸ hc)
  obtain ⟨n, hT⟩ : ∃ n, tlPoints c.src = n + 1 := ⟨tlPoints c.src - 1, by omega⟩
  have hfuel : copyMove (n + 1) u c.id = copyMove n u c.id := copyMove_fuel hfind (by simp; omega)
  rw [copyPoints_found hc, copyPoints_found hfind, hT, hfuel, copyMove, copyStep_moved hc he hn hp, ← hu]
  simp only [hc, hfind]
  rcases copyLines s c c.next with _ | ⟨p1, p2⟩
  · rfl
  rcases copyLines u { c with next := c.next + 1 } (c.next + 1) with _ | ⟨q1, q2⟩
  · rfl
  simp

/-- A point that faults: its copy stands at its end, and its tag has the error. -/
theorem copyMove_failed {s s1 : State} {c : Copy} {r : Raise} (hc : s.copies.find? (fun x => x.id == c.id) = some c)
    (he : c.engine.isSome = true) (hn : c.next < tlPoints c.src) (hp : copyPoint s c = (some r, s1)) :
    copyMove (copyPoints s c.id) s c.id = copyAt (modOwner s1 c.ctx c.uid (tagFailed c r)) c.id (tlPoints c.src) := by
  have hsame : s1.copies = s.copies := by simpa [hp] using copyPoint_copies s c
  have hfind : (copyAt (modOwner s1 c.ctx c.uid (tagFailed c r)) c.id (tlPoints c.src)).copies.find? (fun x => x.id == c.id) =
      some { c with next := tlPoints c.src } := copyAt_find ((modOwner_copies ..).trans hsame ▸ hc)
  obtain ⟨n, hT⟩ : ∃ n, tlPoints c.src = n + 1 := ⟨tlPoints c.src - 1, by omega⟩
  rw [copyPoints_found hc, hT, copyMove, copyStep_failed hc he hn hp, ← hT]
  simp only [hc, hfind]
  by_cases hlast : tlPoints c.src = c.next + 1
  · have hnone := fun s => copyLines_end (s := s) (c := { c with next := tlPoints c.src }) (n := c.next + 1) hlast.le
    rw [hnone]
    cases copyLines s c c.next <;> rfl
  · have hstop : (tlPoints c.src == c.next + 1) = false := by simpa using hlast
    simp only [hstop, Bool.false_and]
    split <;> rfl

theorem modOwner_found {s : State} {key uid : Nat} {st : Strand} (f : Strand → Strand) (hs : s.strandAt key = some st)
    (hu : st.ident.uid = uid) : modOwner s key uid f = s.setStrandAt key (f st) := by
  simp [modOwner, hs, hu]

theorem tagFailed_err (c : Copy) (r : Raise) (st : Strand) (ht : c.tag < 16) :
    ((tagFailed c r st).tags.getD c.tag ⟨0, 0, false, 0⟩).err = true := by
  unfold tagFailed
  cases h : (st.tags.getD c.tag ⟨0, 0, false, 0⟩).err with
  | true => simp [h]
  | false => simp [h, getD_set_same _ _ ht]

/-- An error that a tag has stays as it is. -/
theorem tagFailed_again (c : Copy) (r : Raise) {st : Strand} (h : (st.tags.getD c.tag ⟨0, 0, false, 0⟩).err = true) :
    tagFailed c r st = st := by
  simp [tagFailed, h]

/-- The first error of a tag is recorded with its cause and its point. -/
theorem tagFailed_first (c : Copy) (r : Raise) {st : Strand} (ht : c.tag < 16)
    (h : (st.tags.getD c.tag ⟨0, 0, false, 0⟩).err = false) :
    ((tagFailed c r st).tags.getD c.tag ⟨0, 0, false, 0⟩).cause = r.cause ∧
      ((tagFailed c r st).tags.getD c.tag ⟨0, 0, false, 0⟩).prog = c.next := by
  simp [tagFailed, h, getD_set_same _ _ ht]

/-! ### What a point does -/

/-- A point that is out of the destination, or out of a source that fills nothing, moves nothing. -/
theorem copyPoint_skipped {s : State} {c : Copy} {inDst inSrc : Bool} {da sa : Nat}
    (hd : tlElem c.dst (tlPoint c.src c.next) = (inDst, da)) (hs : tlElem c.src (tlPoint c.src c.next) = (inSrc, sa))
    (h : inDst = false ∨ inSrc = false ∧ tlFillm c.src ≠ 0) : copyPoint s c = (none, s) := by
  rcases h with rfl | ⟨rfl, hf⟩
  · simp [copyPoint, hd]
  · cases inDst <;> simp [copyPoint, hd, hs, hf]

/-- An element is written as its source's code, or converted to its destination's format. -/
theorem copyWrite_fmt {s s1 : State} {c : Copy} {da f g v : Nat} (ho : overrun s c da (fmtBytes g) .w = false)
    (hw : engineWrite s c.agent da (leBytes (fmtBytes g) (if f = g then v else (convert g f .rne (tlSat c.dst) v).1)) = (none, s1)) :
    copyWrite s c da (.fmt f) (.fmt g) v = (none, s1) := by
  by_cases hfg : f = g <;> simp_all [copyWrite, Side.bytes, moveElem]

/-- A point that is read. -/
theorem copyPoint_read {s s1 : State} {c : Copy} {da sa f g : Nat} {b : List Byte}
    (hd : tlElem c.dst (tlPoint c.src c.next) = (true, da)) (hs : tlElem c.src (tlPoint c.src c.next) = (true, sa))
    (hlw : locate s c c.dst da .w = (.ok (.fmt g), s)) (hlr : locate s c c.src sa .r = (.ok (.fmt f), s))
    (ho : overrun s c sa (fmtBytes f) .r = false) (hr : engineRead s c.agent sa (fmtBytes f) = (.ok b, s))
    (hw : copyWrite s c da (.fmt f) (.fmt g) (leNat b) = (none, s1)) : copyPoint s c = (none, s1) := by
  have hpair : pairSides (.fmt f) (.fmt g) = (.fmt f, .fmt g) := rfl
  simp [copyPoint, hd, hs, hlw, hlr, Except.toOption, hpair, Side.bytes, ho, hr, hw]

/-- A point that is filled. -/
theorem copyPoint_filled {s s1 : State} {c : Copy} {da sa g : Nat}
    (hd : tlElem c.dst (tlPoint c.src c.next) = (true, da)) (hs : tlElem c.src (tlPoint c.src c.next) = (false, sa))
    (hlw : locate s c c.dst da .w = (.ok (.fmt g), s)) (hfill : tlFillm c.src = 0)
    (hw : copyWrite s c da (.fmt (tlFmt c.src)) (.fmt g) (tlFill c.src % 2 ^ (8 * fmtBytes (tlFmt c.src))) = (none, s1)) :
    copyPoint s c = (none, s1) := by
  simp [copyPoint, hd, hs, hlw, hfill, hw]

/-! ### The end of a copy -/

/-- The strand of a copy that is counted off. -/
def tagDone (tag : Nat) (st : Strand) : Strand :=
  let w := st.tags.getD tag ⟨0, 0, false, 0⟩
  let w' := { w with out := w.out - 1 }
  { st with
    tags := st.tags.setIfInBounds tag w'
    sys := if w'.out == 0 then { st.sys with umask := st.sys.umask ||| w64 (2 ^ (32 + tag)) } else st.sys }

theorem tagDone_out {tag : Nat} (ht : tag < 16) (st : Strand) :
    ((tagDone tag st).tags.getD tag ⟨0, 0, false, 0⟩).out = (st.tags.getD tag ⟨0, 0, false, 0⟩).out - 1 := by
  simp [tagDone, getD_set_same _ _ ht]

/-- The last copy of a tag sets its pending bit. -/
theorem tagDone_umask (tag : Nat) (st : Strand) :
    (tagDone tag st).sys.umask = if (st.tags.getD tag ⟨0, 0, false, 0⟩).out ≤ 1 then st.sys.umask ||| BitVec.ofNat 64 (2 ^ (32 + tag))
      else st.sys.umask := by
  by_cases h : (st.tags.getD tag ⟨0, 0, false, 0⟩).out ≤ 1
  · simp [tagDone, h, w64]
  · simp [tagDone, h, Nat.sub_eq_zero_iff_le]

/-- Engines that take waiting copies leave the strands, and which copies there are. -/
theorem takeCopies_strandAt (cluster n : Nat) (s : State) (key : Nat) : (takeCopies cluster n s).strandAt key = s.strandAt key := by
  fun_induction takeCopies cluster n s with
  | case1 | case2 | case3 => rfl
  | case4 _ _ _ _ _ _ _ ih => exact ih

theorem takeCopies_gone (cluster n : Nat) (s : State) {id : Nat} (h : s.copies.all (fun x => x.id != id) = true) :
    (takeCopies cluster n s).copies.all (fun x => x.id != id) = true := by
  fun_induction takeCopies cluster n s with
  | case1 | case2 | case3 => exact h
  | case4 _ _ _ _ _ _ _ ih =>
    refine ih (List.all_eq_true.mpr fun x hx => ?_)
    obtain ⟨y, hy, rfl⟩ := List.mem_map.mp hx
    have hid := List.all_eq_true.mp h y hy
    split <;> exact hid

theorem copyEnd_found {s : State} {c : Copy} {st : Strand} (hc : s.copies.find? (fun x => x.id == c.id) = some c)
    (he : c.engine.isSome = true) (hn : tlPoints c.src ≤ c.next) (hs : s.strandAt c.ctx = some st) (hu : st.ident.uid = c.uid) :
    copyEnd s c.id = takeCopies c.cluster 32
      { s.setStrandAt c.ctx (tagDone c.tag st) with copies := s.copies.filter fun x => x.id != c.id } := by
  have he' : c.engine.isNone = false := by simpa [Option.isSome_iff_ne_none] using he
  simp only [copyEnd, hc, he', Nat.not_lt.mpr hn, modOwner_found _ hs hu, setStrandAt_copies]
  rfl

/-! ### The statement -/

theorem exec_spoolElementFetch (s : State) {key core ctx : Nat} (n : SpoolNo) (hkey : key = 2 * core + ctx) (hctx : ctx < 2) :
    exec (.spoolElementFetch core ctx n) s = .next (fetchElement s key n.toNat) := by
  rw [← keyOf_eq hkey hctx]
  rfl

theorem exec_storeSpoolWrite (s : State) {key core ctx : Nat} (n : SpoolNo) (hkey : key = 2 * core + ctx) (hctx : ctx < 2) :
    exec (.storeSpoolWrite core ctx n) s = .next (writeElement s key n.toNat) := by
  rw [← keyOf_eq hkey hctx]
  rfl

/-- Settles O48: each clause is the lemma of its engine; a copy's moves in one line by their fuel, which its points bound. -/
theorem streamAndCopyEngines : Obligations.StreamAndCopyEngines := by
  unfold Obligations.StreamAndCopyEngines
  refine ⟨?_, ?_, ?_, ?_, ?_⟩
  · intro s s1 key core ctx n st sp b hkey hctx hs hsp hf hk
    have hexec := exec_spoolElementFetch s n hkey hctx
    constructor
    · intro hend
      obtain ⟨t, ht, hnew⟩ := setSpool_found hs n { sp with ended := true, idxEnd := some (indexPlace sp sp.moved) }
      exact ⟨_, t, _, hexec.trans (congrArg _ (fetchElement_end hs hsp hf (nextElem_linear_end hk hend))), ht, hnew, rfl, rfl,
        Form.setSpool_mem ..⟩
    · intro hmore hread hs1
      obtain ⟨t, ht, hnew⟩ := setSpool_found hs1 n { sp with
        buf := sp.buf ++ [⟨leNat b, none, some (spAddr sp.desc sp.moved), [], 0⟩], moved := sp.moved + 1, ended := false, idxEnd := none }
      exact ⟨_, t, _, _, hexec.trans (congrArg _ (fetchElement_one hs hsp hf (nextElem_linear hk hmore hread) rfl)), ht, hnew,
        rfl, rfl, rfl, rfl, rfl, Form.setSpool_mem ..⟩
  · intro s s1 key core ctx n st sp e rest hkey hctx hs hsp hbuf hk hw hd he
    exact (exec_storeSpoolWrite s n hkey hctx).trans (congrArg _ (writeElement_linear hs hsp hbuf hk hw hd he))
  · intro s c hc he hn
    constructor
    · rintro s1 u hp hu
      refine (congrArg Host.Outcome.next (copyMove_moved hc he hn hp hu)).trans ?_
      rcases copyLines s c c.next with _ | p
      · rfl
      rcases copyLines u { c with next := c.next + 1 } (c.next + 1) with _ | q
      · rfl
      exact apply_ite Host.Outcome.next ..
    · intro r s1 st hp hs hu ht
      refine ⟨_, tagFailed c r st, congrArg Host.Outcome.next (copyMove_failed hc he hn hp), ?_, tagFailed_err c r st ht,
        tagFailed_first c r ht, tagFailed_again c r⟩
      rw [modOwner_found _ hs hu]
      exact strandAt_setStrandAt_same ..
  · intro s s1 c inDst inSrc da sa f g v b hd hs
    refine ⟨copyPoint_skipped hd hs, ?_⟩
    rintro rfl hlw ho hcase hw
    rcases hcase with ⟨rfl, hlr, hos, hr, rfl⟩ | ⟨rfl, hfill, rfl, rfl⟩
    · exact copyPoint_read hd hs hlw hlr hos hr (copyWrite_fmt ho hw)
    · exact copyPoint_filled hd hs hlw hfill (copyWrite_fmt ho hw)
  · intro s c st hc he hn hs hu ht
    refine ⟨_, tagDone c.tag st, congrArg Host.Outcome.next (copyEnd_found hc he hn hs hu), ?_, ?_, tagDone_out ht st,
      tagDone_umask c.tag st, rfl, Form.takeCopies_mem ..⟩
    · rw [takeCopies_strandAt]
      exact strandAt_setStrandAt_same ..
    · exact takeCopies_gone _ _ _ (by simp)

end Sys2Proof.Proofs.Engines

end
